-- ==== Sys2Proof/Word.lean ====
section
/-! DEFINITION. The word and index types of the Peralma 840 model and nothing else
(spec 01 R7: bit 0 is the least significant bit). -/

namespace Sys2Proof

/-- A 64-bit register or control word (R18, R45). -/
abbrev W64 := BitVec 64
/-- A 32-bit value: RP, WP, S and other counters (R207, R217). -/
abbrev W32 := BitVec 32
/-- One byte of memory. -/
abbrev Byte := BitVec 8
/-- The number of an s register, s0 to s31. -/
abbrev Reg := BitVec 5
/-- The number of a predicate, p0 to p7. -/
abbrev PReg := BitVec 3
/-- The number of a capability register, c0 to c15. -/
abbrev CReg := BitVec 4

end Sys2Proof
end

