-- ==== Sys2Proof/Config.lean ====
section
/-! DEFINITION. What the spec leaves to the implementation or to nobody: free values, each an
opaque constant applied to the model's counter `fresh` of State (assumption log 1). No proof can
see a value of them. -/

namespace Sys2Proof.Config

/-- FREE VALUE (log 1): nanoseconds that pass between two steps (R24: TIME is running). -/
opaque elapsed : Nat → Nat
/-- FREE VALUE (log 1): whether a TLB still uses a translation that it may hold (R358). -/
opaque tlbKeep : Nat → Bool
/-- FREE VALUE (log 1): a word of a register page for which the spec gives no layout (R446). -/
opaque openWord : Nat → BitVec 64
/-- FREE VALUE (log 1): an ECDSA signature (r, s) over a message (R450, R451); the private key
never leaves the hub and the signing scheme draws a secret number. -/
opaque sign : Nat → List (BitVec 8) → BitVec 768

/-- FREE VALUE (log 1): the hub's ephemeral public share, and the keys that the exchange with a requester's share gives
(R452). -/
opaque share : Nat → BitVec 768
opaque agree : Nat → BitVec 256 → BitVec 256

/-- FREE VALUE (log 1): the digest of a firmware component, by measurement index and version (R452). -/
opaque digest : Nat → Nat → List (BitVec 8)

/-- Whether acq.s waits for the conditions of R181 too: R193 says so, the table of R173 does not (log 99). -/
opaque acqWaits : Bool

end Sys2Proof.Config
end

