-- ==== Sys2Proof/Syntax.lean ====
section
/-! DEFINITION. The syntax of one step: one constructor of `Instr` per row of the opcode table
(control words of spec 03, engine commands of spec 10 to 14 and 22, and the table's events). -/

namespace Sys2Proof

/-- Next-address selectors (R27), codes 0x0 to 0x9. -/
inductive Nas where
  | seq | jmp | jt | jf | call | calli | jmpi | ret | loop | endp
deriving DecidableEq, Repr, Inhabited

/-- The part every control word has besides its operation (R45, R46): NAS, PRED, and the target
field, sign-extended to 24 bits, the widest class (R51). -/
structure Hdr where
  nas  : Nas
  pred : BitVec 4
  tgt  : BitVec 24
deriving DecidableEq, Repr, Inhabited

/-- MODS of class A (R49). -/
structure FMods where
  na : Bool
  aa : Bool
  nb : Bool
  ab : Bool
  clamp : BitVec 2
  k : BitVec 3
deriving DecidableEq, Repr, Inhabited

/-- The rounding offset m of a rounded group (R74): dynamic, .rne, .rz, .ru, .rd. -/
inductive RmSel where
  | dyn | rne | rz | ru | rd
deriving DecidableEq, Repr, Inhabited

/-- A memory operand of class M (R148, R183): index register, capability, shift, offset. -/
structure MemOp where
  a   : Reg
  c   : CReg
  sc  : BitVec 2
  off : BitVec 14
deriving DecidableEq, Repr, Inhabited

/-- The engines a tile has (R206); as ENG codes 0b01, 0b10, 0b11 (R47). -/
inductive Eng where
  | v | m | x
deriving DecidableEq, Repr, Inhabited

/-- A V region word (10, R213). -/
structure Region where
  base   : BitVec 25
  stride : BitVec 16
  count  : BitVec 16
  neg    : Bool
  abs    : Bool
  clamp  : BitVec 2
  scale  : BitVec 3
deriving DecidableEq, Repr, Inhabited

/-- A V command without its opcode: head fields and region words (10). -/
structure VCmd where
  semw : BitVec 6
  semr : BitVec 6
  pred : BitVec 4
  typ  : BitVec 6
  ops  : BitVec 32
  regs : List Region
deriving DecidableEq, Repr, Inhabited

/-- An M command without its opcode (10). DC is the constructor's own for `mma` and `mmaDc`. -/
structure MCmd where
  semw   : BitVec 6
  semr   : BitVec 6
  pred   : BitVec 4
  sa     : BitVec 4
  sb     : BitVec 4
  g      : Bool
  bank   : Bool
  acc    : BitVec 7
  na     : Bool
  nb     : Bool
  nacc   : Bool
  dcf    : BitVec 4
  dcbank : Bool
  acca   : BitVec 7
  rsv    : BitVec 9
deriving DecidableEq, Repr, Inhabited

/-- An X command without its opcode (10); KEY, LEN40 and FLAGS are zero in one-word commands. -/
structure XCmd where
  semw  : BitVec 6
  semr  : BitVec 6
  pred  : BitVec 4
  scap  : CReg
  soff  : BitVec 40
  dcap  : CReg
  doff  : BitVec 40
  len16 : BitVec 16
  key   : BitVec 64
  len40 : BitVec 40
  flags : BitVec 24
deriving DecidableEq, Repr, Inhabited

/-- A `.cap` line as the loader sees it (R152): register, type code, permissions, length. -/
structure CapDecl where
  reg  : CReg
  typ  : BitVec 4
  perm : BitVec 12
  len  : Nat
deriving DecidableEq, Repr, Inhabited

/-- A `.data` section of an image (R152): the register of its object and its bytes. -/
structure DataDecl where
  reg   : CReg
  bytes : List Byte
deriving DecidableEq, Repr, Inhabited

/-- What the image container tells the loader besides the launch record (R30, R152, R345, R350): the length
of the control-code section with its safe table, the entries of that table, what the directives ask for,
and the sections marked `.measure` in source order (0 the control section, 1 to 3 the V, M and X ring
images, 4 + k data section k). The manual gives the container no format (assumption log 5). -/
structure Image where
  codeLen : Nat
  nsafe   : Nat
  caps    : List CapDecl
  data    : List DataDecl
  meas    : List Nat
deriving DecidableEq, Repr, Inhabited

/-- How a register access reaches the register pages (R448); `k` is whether a tile's core is at level K or above. -/
inductive Requester where
  | acornF | acornK | ide (session : Nat) | untrustedHost | tile (phys : Nat) (k : Bool)
deriving DecidableEq, Repr, Inhabited

/-- A channel whose entries keep one path at a time (R414): the pool channel to an object, or the channel from a tile to a
peer package. -/
inductive Chan where
  | pool (obj : Nat)
  | peer (tile pkg : Nat)
deriving DecidableEq, Repr, Inhabited

/-- What a flit carries (R401, R403, R419): nothing, control, the multicast of R398, a pool request of a channel, a pool
response, a transfer to a peer of a channel. A request or a transfer of no channel is one that this package relays. -/
inductive FlitKind where
  | idle | control | multicast
  | request (obj : Option Nat)
  | response
  | transfer (ch : Option (Nat × Nat))
deriving DecidableEq, Repr, Inhabited

/-- A flit of a codeword: 64 bytes (R401). -/
structure Flit where
  kind  : FlitKind := .idle
  bytes : BitVec 512 := 0
deriving DecidableEq, Repr, Inhabited

/-- Its virtual channel (R419). -/
def FlitKind.vc : FlitKind → BitVec 2
  | .idle | .control | .multicast => 0
  | .request _ => 1
  | .response => 2
  | .transfer _ => 3

def Flit.vc (f : Flit) : BitVec 2 := f.kind.vc

/-- The channel that it belongs to (R414). -/
def Flit.chan (f : Flit) : Option Chan :=
  match f.kind with
  | .request o => o.map Chan.pool
  | .transfer c => c.map (fun x => .peer x.1 x.2)
  | _ => none

/-- The ten flits of a codeword (R401): those given, and idle ones behind them. -/
def tenFlits (fs : List Flit) : Vector Flit 10 := Vector.ofFn (fun i => fs.getD i.val {})

/-- What a cycle sends on a wavelength of a port: codewords with their flag bits and flits. -/
structure PortSend where
  port  : BitVec 5
  lam   : BitVec 6
  count : Nat
  cws   : List (BitVec 4 × List Flit)
deriving DecidableEq, Repr, Inhabited

/-- The operands of an event: what the agent that raises it hands over (firmware, host, pool, link,
environment). An event reads the fields its meaning names and no others. Everything is plain data. -/
structure EvArg where
  handle  : Nat := 0
  recPA   : Nat := 0
  token   : W64 := 0
  session : Nat := 0
  img     : Image := ⟨0, 0, [], [], []⟩
  val     : W64 := 0
  off     : Nat := 0
  ix      : Nat := 0
  clus    : Nat := 0
  slice   : Nat := 0
  line    : Nat := 0
  near    : Bool := false
  area    : Nat := 0
  cap     : CReg := 0
  write   : Bool := false
  req     : Requester := .acornF
  obj     : Nat := 0
  page    : Nat := 0
  count   : Nat := 0
  pkg     : Nat := 0
  eng     : Eng := .v
  idx     : W32 := 0
  seq     : Nat := 0
  inval   : Bool := false
  port    : BitVec 5 := 0
  lam     : BitVec 6 := 0
  vc      : BitVec 2 := 0
  cseq    : BitVec 16 := 0
  good    : Bool := true
  dest    : List (Nat × Nat) := []
  tenant  : BitVec 16 := 0
  pol     : W32 := 0
  kek     : BitVec 256 := 0
  amount  : Nat := 0
  ptb     : W64 := 0
  asid    : W64 := 0
  kvec    : W64 := 0
  commit  : Nat := 0
  flags   : BitVec 4 := 0
  flits   : List Flit := []
  sends   : List PortSend := []
  bufs    : List (Nat × Nat × Nat) := []
  fwd     : List (Nat × Nat) := []
  heat    : List (Nat × Nat × Nat) := []
  volt    : List (Nat × Nat × Nat) := []
  temp    : BitVec 16 := 0
  mgmt    : Bool := false
deriving DecidableEq, Repr, Inhabited

/-- The instruction of one step. Rows of spec/opcode_table.json, in its order by family. -/
inductive Instr where
  -- class A, integer (R64)
  | add (h : Hdr) (d a b : Reg) | sub (h : Hdr) (d a b : Reg) | mul (h : Hdr) (d a b : Reg)
  | mulhS (h : Hdr) (d a b : Reg) | mulhZ (h : Hdr) (d a b : Reg)
  | divS (h : Hdr) (d a b : Reg) | divZ (h : Hdr) (d a b : Reg)
  | remS (h : Hdr) (d a b : Reg) | remZ (h : Hdr) (d a b : Reg)
  | and (h : Hdr) (d a b : Reg) | or (h : Hdr) (d a b : Reg) | xor (h : Hdr) (d a b : Reg)
  | andn (h : Hdr) (d a b : Reg) | shl (h : Hdr) (d a b : Reg) | shr (h : Hdr) (d a b : Reg)
  | sra (h : Hdr) (d a b : Reg) | rol (h : Hdr) (d a b : Reg)
  | minS (h : Hdr) (d a b : Reg) | minZ (h : Hdr) (d a b : Reg)
  | maxS (h : Hdr) (d a b : Reg) | maxZ (h : Hdr) (d a b : Reg)
  -- select, predicates, bytes, compares, lea, bit counts (R68 to R73)
  | sel (h : Hdr) (d a b : Reg) (inv : Bool) (n : PReg)
  | pand (h : Hdr) (d a b : PReg) | por (h : Hdr) (d a b : PReg) | pnot (h : Hdr) (d a : PReg)
  | bswapH (h : Hdr) (d a : Reg) | bswapW (h : Hdr) (d a : Reg) | bswapD (h : Hdr) (d a : Reg)
  | cmpEq (h : Hdr) (d : PReg) (a b : Reg) | cmpNe (h : Hdr) (d : PReg) (a b : Reg)
  | cmpLt (h : Hdr) (d : PReg) (a b : Reg) | cmpGe (h : Hdr) (d : PReg) (a b : Reg)
  | cmpLtz (h : Hdr) (d : PReg) (a b : Reg) | cmpGez (h : Hdr) (d : PReg) (a b : Reg)
  | lea (h : Hdr) (d a b : Reg) (sh : BitVec 2)
  | clzB (h : Hdr) (d a : Reg) | clzH (h : Hdr) (d a : Reg) | clzW (h : Hdr) (d a : Reg) | clzD (h : Hdr) (d a : Reg)
  | ffsB (h : Hdr) (d a : Reg) | ffsH (h : Hdr) (d a : Reg) | ffsW (h : Hdr) (d a : Reg) | ffsD (h : Hdr) (d a : Reg)
  | popB (h : Hdr) (d a : Reg) | popH (h : Hdr) (d a : Reg) | popW (h : Hdr) (d a : Reg) | popD (h : Hdr) (d a : Reg)
  -- scalar floating point (R74 to R80)
  | fminS (h : Hdr) (d a b : Reg) (m : FMods) | fminD (h : Hdr) (d a b : Reg) (m : FMods)
  | fmaxS (h : Hdr) (d a b : Reg) (m : FMods) | fmaxD (h : Hdr) (d a b : Reg) (m : FMods)
  | fcmpS (h : Hdr) (cc : BitVec 2) (d : PReg) (a b : Reg) | fcmpD (h : Hdr) (cc : BitVec 2) (d : PReg) (a b : Reg)
  | fclassS (h : Hdr) (d a : Reg) | fclassD (h : Hdr) (d a : Reg)
  | fcvt (h : Hdr) (rm : RmSel) (d a : Reg) (kind : BitVec 5)
  | faddS (h : Hdr) (rm : RmSel) (d a b : Reg) (m : FMods) | faddD (h : Hdr) (rm : RmSel) (d a b : Reg) (m : FMods)
  | fsubS (h : Hdr) (rm : RmSel) (d a b : Reg) (m : FMods) | fsubD (h : Hdr) (rm : RmSel) (d a b : Reg) (m : FMods)
  | fmulS (h : Hdr) (rm : RmSel) (d a b : Reg) (m : FMods) | fmulD (h : Hdr) (rm : RmSel) (d a b : Reg) (m : FMods)
  | fdivS (h : Hdr) (rm : RmSel) (d a b : Reg) (m : FMods) | fdivD (h : Hdr) (rm : RmSel) (d a b : Reg) (m : FMods)
  | ffmaS (h : Hdr) (rm : RmSel) (d a b : Reg) (m : FMods) | ffmaD (h : Hdr) (rm : RmSel) (d a b : Reg) (m : FMods)
  | fsqrtS (h : Hdr) (rm : RmSel) (d a : Reg) (m : FMods) | fsqrtD (h : Hdr) (rm : RmSel) (d a : Reg) (m : FMods)
  -- class I and L (R65 to R67)
  | addi (h : Hdr) (d a : Reg) (imm : BitVec 20) | andi (h : Hdr) (d a : Reg) (imm : BitVec 20)
  | ori (h : Hdr) (d a : Reg) (imm : BitVec 20) | xori (h : Hdr) (d a : Reg) (imm : BitVec 20)
  | shli (h : Hdr) (d a : Reg) (n : BitVec 6) | shri (h : Hdr) (d a : Reg) (n : BitVec 6) | srai (h : Hdr) (d a : Reg) (n : BitVec 6)
  | extS (h : Hdr) (d a : Reg) (lm1 pos : BitVec 6) | extZ (h : Hdr) (d a : Reg) (lm1 pos : BitVec 6) | ins (h : Hdr) (d a : Reg) (lm1 pos : BitVec 6)
  | li (h : Hdr) (d : Reg) (imm : BitVec 41)
  -- nop, special registers, raise (R81 to R84)
  | nop (h : Hdr) | gsr (h : Hdr) (d : Reg) (spec : BitVec 12) | ssr (h : Hdr) (a : Reg) (spec : BitVec 12) | raise (h : Hdr) (a : Reg)
  -- parallel execution (R120 to R131)
  | barC (h : Hdr) (n : BitVec 4) | barL (h : Hdr) | step (h : Hdr)
  | itemNext (h : Hdr) (d : Reg) (p : PReg) | estAdd (h : Hdr) (a : Reg) | estFlush (h : Hdr)
  | estState (h : Hdr) (d : Reg) (sel : BitVec 12) | yield (h : Hdr)
  -- memory (R182 to R205)
  | ldBs (h : Hdr) (d : Reg) (o : MemOp) | ldBz (h : Hdr) (d : Reg) (o : MemOp) | ldHs (h : Hdr) (d : Reg) (o : MemOp)
  | ldHz (h : Hdr) (d : Reg) (o : MemOp) | ldWs (h : Hdr) (d : Reg) (o : MemOp) | ldWz (h : Hdr) (d : Reg) (o : MemOp)
  | ldD (h : Hdr) (d : Reg) (o : MemOp) | ldc (h : Hdr) (d : CReg) (o : MemOp)
  | stB (h : Hdr) (d : Reg) (o : MemOp) | stH (h : Hdr) (d : Reg) (o : MemOp) | stW (h : Hdr) (d : Reg) (o : MemOp)
  | stD (h : Hdr) (d : Reg) (o : MemOp) | stc (h : Hdr) (d : CReg) (o : MemOp) | mark (h : Hdr) (o : MemOp)
  | amoAdd (h : Hdr) (s : BitVec 2) (d a : Reg) (c : CReg) (off : BitVec 14)
  | amoAnd (h : Hdr) (s : BitVec 2) (d a : Reg) (c : CReg) (off : BitVec 14)
  | amoOr (h : Hdr) (s : BitVec 2) (d a : Reg) (c : CReg) (off : BitVec 14)
  | amoXor (h : Hdr) (s : BitVec 2) (d a : Reg) (c : CReg) (off : BitVec 14)
  | amoMin (h : Hdr) (s : BitVec 2) (d a : Reg) (c : CReg) (off : BitVec 14)
  | amoMax (h : Hdr) (s : BitVec 2) (d a : Reg) (c : CReg) (off : BitVec 14)
  | amoSwap (h : Hdr) (s : BitVec 2) (d a : Reg) (c : CReg) (off : BitVec 14)
  | cas (h : Hdr) (s : BitVec 2) (d a : Reg) (c : CReg) (off : BitVec 14)
  | fence (h : Hdr) (s : BitVec 2) | acq (h : Hdr) (s : BitVec 2) | rel (h : Hdr) (s : BitVec 2)
  | mwait (h : Hdr) (d a : Reg) (c : CReg) (off : BitVec 14)
  | cfl (h : Hdr) (o : MemOp) | cinv (h : Hdr) (o : MemOp)
  | capBnd (h : Hdr) (d : CReg) (a : Reg) (c : CReg) | capPrm (h : Hdr) (d : CReg) (a : Reg) (c : CReg)
  | capOff (h : Hdr) (d : CReg) (o : MemOp) | capGet (h : Hdr) (d : Reg) (c : CReg) (sel : BitVec 3)
  | capTst (h : Hdr) (d : PReg) (a : Reg) (c : CReg) | capClr (h : Hdr) (d c : CReg)
  | bufDecl (h : Hdr) (d a : Reg) (id : BitVec 6) | bufSet (h : Hdr) (id : BitVec 6) (st : BitVec 2) | bufGet (h : Hdr) (d : Reg) (id : BitVec 6)
  -- engine interface (R229 to R236, R305 to R308)
  | enq (h : Hdr) (e : Eng) (a b : Reg) | sdSet (h : Hdr) (k : BitVec 3) (n : BitVec 4) (b : Reg) | sdGet (h : Hdr) (k : BitVec 3) (n : BitVec 4) (b : Reg)
  | semSig (h : Hdr) (n : BitVec 5) | semWait (h : Hdr) (n : BitVec 5) | semGet (h : Hdr) (a : Reg) (n : BitVec 5)
  | seqWait (h : Hdr) (e : Eng) (a : Reg) | seqGet (h : Hdr) (e : Eng) (a : Reg) | condPop (h : Hdr) (a : Reg) | xfence (h : Hdr) (e : Eng)
  | mcfg (h : Hdr) (lvl : BitVec 3) (b : Reg) | mgo (h : Hdr) | mkey (h : Hdr) (n : BitVec 4) | mstat (h : Hdr) (a : Reg) (sel : BitVec 5)
  -- system (R360 to R372)
  | trap (h : Hdr) (a : Reg) (code : BitVec 8) | tret (h : Hdr) | kcall (h : Hdr) (svc : BitVec 12)
  | tlbiPage (h : Hdr) (d a : Reg) (pod : Bool) | tlbiAsid (h : Hdr) (d : Reg) (pod : Bool) | tlbiAll (h : Hdr) (pod : Bool)
  | tlbsync (h : Hdr) | ctxSave (h : Hdr) (a : Reg) | ctxLoad (h : Hdr) (a : Reg)
  | safe (h : Hdr) | brk (h : Hdr) (tag : BitVec 12) | idle (h : Hdr)
  -- vector engine (12)
  | vAdd (c : VCmd) | vSub (c : VCmd) | vMul (c : VCmd) | vFma (c : VCmd) | vMin (c : VCmd) | vMax (c : VCmd)
  | vDiv (c : VCmd) | vSqrt (c : VCmd) | vRsq (c : VCmd) | vCmp (c : VCmd) | vSel (c : VCmd)
  | vAnd (c : VCmd) | vOr (c : VCmd) | vXor (c : VCmd) | vNot (c : VCmd) | vShl (c : VCmd) | vShr (c : VCmd) | vSra (c : VCmd)
  | vClz (c : VCmd) | vFfs (c : VCmd) | vPop (c : VCmd) | vCvt (c : VCmd) | vQblk (c : VCmd) | vDq (c : VCmd)
  | vTolog (c : VCmd) | vFromlog (c : VCmd) | vLmul (c : VCmd) | vLdiv (c : VCmd) | vLpow (c : VCmd) | vLsqrt (c : VCmd) | vLadd (c : VCmd)
  | vAct (c : VCmd) | vRed (c : VCmd) | vScan (c : VCmd) | vFill (c : VCmd) | vIdx (c : VCmd) | vPerm (c : VCmd) | vMov (c : VCmd)
  | vSpush (c : VCmd) | vSpop (c : VCmd) | vEst (c : VCmd) | vRnd (c : VCmd)
  -- matrix engine (13)
  | mma (c : MCmd) | mmaDc (c : MCmd) | accZero (c : MCmd) | accLd (c : MCmd) | accOut (c : MCmd)
  -- transfer engine (14, 22)
  | xCopy (c : XCmd) | xFill (c : XCmd) | xGather (c : XCmd) | xScatter (c : XCmd) | xSend (c : XCmd) | xFence (c : XCmd) | xWait (c : XCmd)
  | xPget (c : XCmd) | xPput (c : XCmd) | xPatom (c : XCmd)
  | xLeaseRd (c : XCmd) | xLeaseWr (c : XCmd) | xLeaseRenew (c : XCmd) | xLeaseRel (c : XCmd) | xPref (c : XCmd)
  | xRcopy (c : XCmd) | xRst (c : XCmd) | xCollBcast (c : XCmd) | xCollGather (c : XCmd) | xCollRscat (c : XCmd) | xCollAllred (c : XCmd)
  | xCircRes (c : XCmd) | xCircRel (c : XCmd) | xSfence (c : XCmd)
  -- words of no row (R52, R214)
  | unassignedControlOpcode (w : W64) | unassignedEngineOpcode (e : Eng) (w : BitVec 128)
  -- EVENTS: their operands stand in State.arg (an EvArg)
  | trapEntry | engineStreamRestart
  | engineCommandComplete | subarrayPowerGate
  -- launches, dispatch, tasks, estimating launches (05)
  | launchLoad
  | launchComplete | launchFaultStop | launchCancel
  | bindWrite | bindAgeTick | bindDispatch
  | taskDispatch | taskCommit
  | ttFiring | ttWindowEnd
  | almondMerge | estimateStopArrival
  -- ordering machine (08)
  | loadRead | storePerform | portArrival | markerComplete | lineEviction
  | mwaitWake | mwaitTimeout | backgroundScrub | watchdog
  -- pre-emption and debug (18)
  | preemptRequest | classPSave | classSSave | splimExpiry | launchResume
  | dbgHalt | dbgResume | dbgStep
  | hostDebugRequest
  | messagePost
  -- the pool (20)
  | fencedDelivery
  | get | put | load8 | store8 | atomic
  | leaseAcquireRead | leaseAcquireWrite | leaseRenew | leaseRelease
  | fenceRaise | leaseRevoke | leaseLocalExpiry | leaseNodeExpiry
  | sproutPublish | sproutFetch | scheduleReady | scheduleDeadline | sproutRenew | sproutStepDone
  | podTableRecord | podMemberRemove
  -- Wilan (21)
  | bringupStart | bringupStageDone | bringupStageTimeout
  | codewordReceive | replayRequest
  | engineFailover | endpointUnreachable
  | pecanCycle | pecanRequest | pecanGrant
  | lpwrRaise | lpwrReclaim | pauseFlit | resumeFlit
  | peerAccess | collTimeout | timeSync
  -- host, trust, service life (25)
  | hostCxlMemRead | hostCxlMemWrite | hostCxlIoAccess
  | registerWrite | directoryWrite | mailboxDoorbell
  | heartbeat | getVersion | getCapabilities | negotiateAlgorithms | getDigests | getCertificate | challenge | getMeasurements
  | keyExchange | finish | endSession
  | sealTagService
  | fwcmdCheck | fwcmdUpdate | fwcmdAbort | fwcmdCommit | fwReady | fwQuiesceTimeout | fwReadyTimeout
  | boot | counterFlush | ageingCheck | powerLimitStep | clockStretch | thermalThrottle | thermalShutdown
  -- the table's last rows
  | l2WriteBack | replayAcknowledgement | keyRecordAging
  | packageFailure | registerRead | podMemberAdmit
deriving DecidableEq, Repr

end Sys2Proof
end

