-- ==== Sys2Proof/Machine/State.lean ====
section
/-! DEFINITION. The state of the machine as plain data: the tile in focus, its package, the other
packages of the pod, the pool objects, and the agenda of what moves next (INVENTORY.md, ## State). -/

namespace Sys2Proof.Machine

/-! ### Memories -/

/-- Bytes by address in one canonical form: addresses strictly rising, no entry equal to 0, which
is what an unlisted address reads as (R143: zero on first touch; assumption log 2). -/
abbrev Memory := List Host.Cell

/-- Bytes by address that override another memory: addresses strictly rising, any value. -/
abbrev Overlay := List Host.Cell

/-- Addresses strictly rising from `lo` on. -/
def Cells.rising : Nat → List Host.Cell → Bool
  | _, [] => true
  | lo, (a, _) :: r => decide (lo ≤ a) && Cells.rising (a + 1) r

/-- The canonical form of an overlay. -/
def Overlay.wf (m : Overlay) : Bool := Cells.rising 0 m

/-- The canonical form of a memory: rising addresses and no zero byte listed. -/
def Memory.wf (m : Memory) : Bool := Cells.rising 0 m && m.all (fun c => c.2 != 0)

/-! ### Small enumerations -/

/-- Privilege levels (R16). -/
inductive Level where | u | k | f
deriving DecidableEq, Repr, Inhabited

/-- Launch kinds (R89). -/
inductive LaunchKind where | single | tasked | estimating
deriving DecidableEq, Repr, Inhabited

/-- The fault names of R329. -/
inductive FaultCode where
  | illegalOpcode | illegalNas | privilege | misaligned | stackLimit | unhandledException
  | capTag | capBounds | capPerm | capType
  | sealedPath | sealedIntegrity | sealedPolicy | sealedDebug
  | bufState | regionAlign | regionCount | streamFormat | accRange
  | pageNotPresent | pagePerm | poolMiss | leaseLost | fenced | codeWrite
  | collTimeout | peerUnreachable | stopped | watchdog | memUncorrectable | linkDown
deriving DecidableEq, Repr, Inhabited

/-- Line states of the MOESI variant; a line not listed is I (R140). -/
inductive Moesi where | m | o | e | s
deriving DecidableEq, Repr, Inhabited

/-- Kinds of accumulator blocks (R297). -/
inductive BlockKind where | raw | fp | int
deriving DecidableEq, Repr, Inhabited

/-- Buffer states (R154). -/
inductive BufSt where | empty | filling | full | draining
deriving DecidableEq, Repr, Inhabited

/-- Marker kinds of R173. -/
inductive MarkKind where | fence | acq | rel
deriving DecidableEq, Repr, Inhabited

/-! ### The control core -/

/-- The registers of R18. -/
structure Core where
  s      : Vector W64 32 := Vector.replicate 32 0
  p      : Vector Bool 8 := #v[true, false, false, false, false, false, false, false]
  pc     : W64 := 0
  lc     : W64 := 0
  ssp    : W64 := 0x1F0000
  ssbase : W64 := 0x1F0000
  sslim  : W64 := 0x200000
  exh    : W64 := 0
  fcsr   : W64 := 0
  cause  : W64 := 0
  epc    : W64 := 0
  eval   : W64 := 0
  level  : Level := .u
deriving DecidableEq, Repr

/-- The registers of the second layer (R85, R122) and the kind of the running launch (R121). -/
structure Par where
  tile : W64 := 0
  clus : W64 := 0
  stage : W64 := 0
  ntile : W64 := 0
  nclus : W64 := 0
  nstage : W64 := 0
  task : W64 := 0
  launch : W64 := 0
  seed : W64 := 0
  estN : W64 := 0
  estMean : W64 := 0
  estM2 : W64 := 0
  itempos : W64 := 0
  kind : LaunchKind := .single
deriving DecidableEq, Repr

/-- The system registers of R195, R211, R247, R287, R330, R363, R377 and R435 that are not read
from other state. -/
structure Sys where
  mwto : W64 := 0
  kvec : W64 := 0
  kpc : W64 := 0
  kstat : W64 := 0
  kscr : W64 := 0
  ptb : W64 := 0
  asid : W64 := 0
  wdlim : W64 := 100000000
  dbgctl : W64 := 0
  abcnt : W64 := 0
  kmsg : W64 := 0
  ptok : W64 := 0
  pkeyb : W64 := 0
  pkseq : W64 := 0
  cto : W64 := 10000000
  midle : W64 := 1024
  efault : W64 := 0
  msat : W64 := 0
  sqin : Vector W32 4 := Vector.replicate 4 0
  sqout : Vector W32 4 := Vector.replicate 4 0
deriving DecidableEq, Repr

/-- A capability (R144) with its tag. -/
structure Cap where
  typ : BitVec 4 := 0
  perm : BitVec 12 := 0
  base : W64 := 0
  len : W64 := 0
  cursor : W64 := 0
  pol : BitVec 32 := 0
  tenant : BitVec 16 := 0
  tag : Bool := false
deriving DecidableEq, Repr, Inhabited

/-! ### The near space of a tile -/

/-- The tile-local levels of memory (R132, R133) at near addresses: core scratchpad from 0, lane l's
slice from 0x20_0000 + l · 0x800, the accumulator from 0x40_0000, this tile's own cluster slice from
0x100_0000 whatever its logical number. Their tags by 32-byte granule (R147), scrub marks (R143) and
write locks (R352) as half-open ranges of addresses, block kinds (R297), and lines with an
uncorrectable error (R339) by line number. -/
structure Near where
  mem : Memory := []
  tags : List Nat := []
  scrub : List (Nat × Nat) := []
  kinds : Vector BlockKind 192 := Vector.replicate 192 .raw
  locked : List (Nat × Nat) := []
  ecc : List Nat := []
deriving DecidableEq, Repr

/-! ### The ordering machine's parts that belong to a tile -/

/-- Where an access goes once it is checked and translated (R132, R142, R376). `own` is the tile's own
scratchpad, lane window or accumulator; `cluster` names the physical tile that holds the slice and
the offset in it; `pkgMem` a physical address and whether its mapping
is cacheable; `regs` an offset in the register space (R446); `frame` a resident page of a CACHED object; `direct` a
word of a DIRECT object. -/
inductive Loc where
  | own (a : Nat)
  | cluster (tile off : Nat)
  | pkgMem (pa : Nat) (cached : Bool)
  | regs (off : Nat)
  | frame (pa obj off : Nat)
  | direct (obj off : Nat)
deriving DecidableEq, Repr, Inhabited

/-- The operation of a queue entry (R164). -/
inductive QOp where
  | load (loc : Loc) (n : Nat) (signed : Bool) (d : Reg)
  | loadCap (loc : Loc) (d : CReg)
  | loadWait (loc : Loc) (d : Reg) (cmp : W64)
  | store (loc : Loc) (bytes : List Byte) (tag : Option Bool) (tok : W64)
  | amo (loc : Loc) (op : BitVec 3) (b x : W64) (d : Reg) (scope : BitVec 2) (key tok : W64)
  | flush (pa : Nat) (inv : Bool)
  | sem (n : BitVec 5)
  | marker (k : MarkKind) (scope : BitVec 2)
  | amoMark
  | xmark (e : Eng) (ts : Nat)
  | tlbi (form : BitVec 2) (va asid : W64) (pod : Bool)
deriving DecidableEq, Repr, Inhabited

/-- One entry of LQ, SQ or a channel, with its place in program order and its word's address. -/
structure QEntry where
  seq : Nat
  pc : W64
  op : QOp
deriving DecidableEq, Repr, Inhabited

/-- A line that an L1 holds (R138, R140): its number (address / 64), state and dirty bytes by
physical address, with the token of the last store (R380) and the launch that made it, while that launch has not ended
(R388); `kept` are bytes of the copy that a store through an uncached mapping has since changed behind the home (R172). -/
structure L1Line where
  line : Nat
  st : Moesi
  dirty : Overlay
  tok : W64
  kept : Overlay := []
  launch : Option Nat := none
deriving DecidableEq, Repr, Inhabited

/-- A held word (R230, R332): its address and the TIME its hold began. -/
structure Hold where
  pc : W64
  since : Nat
deriving DecidableEq, Repr, Inhabited

/-- The monitor of mwait (R180, R194): its line as a location, the wake that came, whether the
read has been made and gave the awaited value, when, and the destination's value before it. -/
structure Monitor where
  loc : Loc
  woken : Bool
  read : Bool
  matched : Bool
  since : Nat
  old : W64
deriving DecidableEq, Repr, Inhabited

/-- Where a barrier word stands (R99, R178): its release marker is outstanding, it has arrived, or
the generation has completed, or the word is entered again after a save with ARR set (R332). `none`
as the id is the launch-wide barrier. -/
inductive BarSt where
  | idle
  | releasing (id : Option (BitVec 4)) (byStep : Bool) (seq : Nat)
  | arrived (id : Option (BitVec 4)) (byStep : Bool) (ts : Nat)
  | released (id : Option (BitVec 4))
  | rejoin
deriving DecidableEq, Repr, Inhabited

/-- A translation that a TLB holds (R358): page number by size, ASID, the leaf entry. -/
structure TlbEntry where
  big : Bool
  vpn : Nat
  asid : W64
  pte : W64
deriving DecidableEq, Repr, Inhabited

/-- The NAS that waits for the destination of the word's own load or atomic (R29), with the destination's value and PKSEQ
before the word. -/
structure NasWait where
  h : Hdr
  reg : Reg
  old : W64
  pkseq : W64
deriving DecidableEq, Repr, Inhabited

/-- The control core's side of the ordering machine. `xtlb` is the transfer engine's stream translation cache (R358).
What its tlbi words wait for (R359, R366): accesses
(tile, place) and started X commands (tile, index) of the package that may hold an old translation, and
sequence numbers of invalidations sent to the pod. `hostOpen` are the lines of host memory that the core has stored to and
that have not been seen through to the host since (R181). `relRec` is the release record of the rel marker at the head of
SQ: the lines that it has still to write back (R174). `arrs` are arrivals of barrier words that an entry has interrupted,
by the word's address (R332). -/
structure OrdSt where
  lq : List QEntry := []
  sq : List QEntry := []
  seq : Nat := 0
  hold : Option Hold := none
  mon : Option Monitor := none
  nasWait : Option NasWait := none
  bar : BarSt := .idle
  arrs : List (W64 × BarSt) := []
  l1 : List L1Line := []
  hostOpen : List Nat := []
  relRec : Option (List Nat) := none
  tlb : List TlbEntry := []
  xtlb : List TlbEntry := []
  tlbiQ : List (Nat × Nat) := []
  tlbiX : List (Nat × Eng × W32) := []
  tlbiPod : List Nat := []
deriving DecidableEq, Repr

/-- A buffer entry (R154). -/
structure Buf where
  st : BufSt := .empty
  v : Bool := false
  len : BitVec 16 := 0
  base : BitVec 15 := 0
deriving DecidableEq, Repr, Inhabited

/-! ### Engines -/

/-- A ring (R207). q = 0 means no ring (R211). -/
structure Ring where
  q : BitVec 4 := 0
  base : BitVec 25 := 0
  rp : W32 := 0
  wp : W32 := 0
deriving DecidableEq, Repr, Inhabited

/-- A byte interval of a command's range set (R218), half open, and whether it is written. The
pseudo-ranges of descriptors and of the estimator lie above the near space. -/
structure Rng where
  lo : Nat
  hi : Nat
  wr : Bool
deriving DecidableEq, Repr, Inhabited

/-- The reads of a started transfer that have not performed (R176): its path class, the places it reads and
writes, in units, and whether every destination takes the one source. -/
structure Move where
  gather : Bool
  unit : Nat
  srcs : List Loc
  dsts : List Loc
  one : Bool
deriving DecidableEq, Repr, Inhabited

/-- An appended command that has not completed (R207, R215 to R220): engine, ring index of its
first word, words, timestamp, predicate at the append of its head, range set; whether its last word has been
appended, it is an x.send (R318), its semaphore wait is satisfied, its buffers are taken, it has started, its accesses have
performed, it has completed; the words, the outstanding accesses, the capability registers and the token of a started X
command (R213, R426), and whether one that waits for its first access has tried in this round; the declared buffers at its
append (id, lo, hi) and the ones it will read or write (R155, R203); the capability registers at the append of an M
command that waits for a go (R218); what a V command has moved of the counts of a conditional stream (R287); and what its
completion still does, at this tile and, for an x.send, at the receiver. -/
structure Cmd where
  eng : Eng
  idx : W32
  words : Nat
  ts : Nat
  predTrue : Bool
  rngs : List Rng
  whole : Bool := true
  send : Bool := false
  waited : Bool := false
  began : Bool := false
  started : Bool := false
  raw : List (BitVec 128) := []
  left : Nat := 0
  pos : Nat := 0
  performed : Bool := false
  done : Bool := false
  semr : BitVec 6 := 0x3F
  sds : List (BitVec 4) := []
  prod : List (BitVec 6) := []
  cons : List (BitVec 6) := []
  rsem : Option (Nat × BitVec 6) := none
  rbufs : List (Nat × BitVec 6) := []
  move : Option Move := none
  caps : Option (Vector Cap 16) := none
  tok : W64 := 0
  tried : Bool := false
  decls : List (Nat × Nat × Nat) := []
  uses : List (Nat × Bool × Bool) := []
  atCaps : Option (Vector Cap 16) := none
  sq : Option (Fin 4 × Bool × W32) := none
  got : Nat := 0
  path : Bool := true
  held : List W64 := []
  writes : List (Loc × List Byte) := []
deriving DecidableEq, Repr, Inhabited

/-- A stop of a stream by a fault (R228, R335). -/
structure EFault where
  eng : Eng
  idx : W32
  epc : W64
  code : FaultCode
  eval : W64
deriving DecidableEq, Repr, Inhabited

/-- A stream descriptor (10): the eight words as written, and the two read-only fields with the
binding of mkey (R223, R307). -/
structure Sd where
  w : Vector W64 8 := Vector.replicate 8 0
  sealed_ : Bool := false
  keyed : Bool := false
  objid : W64 := 0
  pol : BitVec 32 := 0
  key : BitVec 256 := 0
deriving DecidableEq, Repr

/-- The engines' side of a tile (10, 13). The streams start no command while `heldStreams` (until tret, or for a save) or
while `settling` (a context word waits for the engines to settle). -/
structure Engs where
  ringV : Ring := {}
  ringM : Ring := {}
  ringX : Ring := {}
  seqV : W32 := 0
  seqM : W32 := 0
  seqX : W32 := 0
  stopV : Option W32 := none
  stopM : Option W32 := none
  stopX : Option W32 := none
  mPoint : Nat := 0
  faults : List EFault := []
  cmds : List Cmd := []
  ts : Nat := 0
  sems : Vector (BitVec 16) 32 := Vector.replicate 32 0
  condq : List W64 := []
  sds : Vector Sd 16 := Vector.replicate 16 {}
  bank0 : Vector W64 6 := Vector.replicate 6 0
  bank1 : Vector W64 6 := Vector.replicate 6 0
  active : Bool := false
  go : Bool := false
  gated : BitVec 4 := 0xF
  msteps : W64 := 0
  mwakes : W64 := 0
  heldStreams : Bool := false
  settling : Bool := false
deriving DecidableEq, Repr

/-! ### The running task and dispatch -/

/-- A held store of a task (R159): its place in program order, where, its bytes, and the tag stc
carries. -/
structure HeldStore where
  seq : Nat
  addr : W64
  loc : Loc
  bytes : List Byte
  tag : Option Bool
deriving DecidableEq, Repr, Inhabited

/-- A deferred atomic of a task (R159, R346). -/
structure Deferred where
  fn : BitVec 7
  addr : W64
  loc : Loc
  opnd : W64
deriving DecidableEq, Repr, Inhabited

/-- The running task of a tile (R95, R159, R326): list index, declared ranges (base, length), whether they all
name virtual addresses (those of a batch, the bounds of a LOCAL root), held effects, the queued flush (R128), the stop of R118. -/
structure TaskCtx where
  index : Option Nat := none
  rds : List (Nat × Nat) := []
  wrs : List (Nat × Nat) := []
  virt : Bool := false
  held : List HeldStore := []
  deferred : List Deferred := []
  flush : Option (W64 × W64 × W64) := none
  stop : Bool := false
deriving DecidableEq, Repr

/-- A bind record (R110) without V, which is its presence in the slot, and EPRIO, which follows from it (R111); `since` is
the TIME from which its next aging interval counts. -/
structure Bind where
  tt : Bool
  prio : BitVec 3
  launch : BitVec 16
  ltile : BitVec 4
  lclus : BitVec 4
  stage : BitVec 4
  age : BitVec 4
  order : BitVec 24
  since : Nat := 0
deriving DecidableEq, Repr, Inhabited

/-- What a tile does (R98, R112, R341). -/
inductive RunSt where
  | free | between | running | ended | faulted | stopped | saving | saved
deriving DecidableEq, Repr, Inhabited

/-- The first fault of a tile, as a result record names it (R91, R94). -/
structure FaultRec where
  code : FaultCode
  epc : W64
  time : Nat
deriving DecidableEq, Repr, Inhabited

/-- A pre-emption that waits for the tile (R341, R344). -/
inductive Preempt where
  | none | classP | classS
deriving DecidableEq, Repr, Inhabited

/-- Dispatch state of a tile: its slot, FULLERR, its running bind, run state, message, save, pool
rejections under way to it (word or ring index) and of its forwarded lines (R388), the TIME its last word or command completed, and
since when it, or a tile of its launch halted before it, stands halted for debug (R340). -/
structure Disp where
  slot : List Bind := []
  fullerr : Bool := false
  bind : Option Bind := none
  run : RunSt := .free
  fault : Option FaultRec := none
  msg : Option W32 := none
  preempt : Preempt := .none
  safeIx : Option Nat := none
  fenced : List (W64 × Option W32) := []
  lineRej : Bool := false
  lastDone : Nat := 0
  haltAt : Option Nat := none
deriving DecidableEq, Repr

/-- One tile. `phys` is its physical number 0 to 255: cluster in bits 7:4, tile in bits 3:0 (R86). -/
structure Tile where
  phys : Nat := 0
  core : Core := {}
  par : Par := {}
  sys : Sys := {}
  caps : Vector Cap 16 := Vector.replicate 16 {}
  fetch : Cap := {}
  tenant : BitVec 16 := 0
  near : Near := {}
  ord : OrdSt := {}
  bufs : Vector Buf 64 := Vector.replicate 64 {}
  eng : Engs := {}
  task : TaskCtx := {}
  disp : Disp := {}
deriving DecidableEq, Repr

/-! ### Launches -/

/-- The fields of a launch record (R89) as the loader read them. -/
structure LaunchRec where
  version : Nat := 1
  kind : LaunchKind := .single
  cls : Nat := 0
  prio : Nat := 0
  ttslot : Nat := 0xFF
  ntile : Nat := 1
  nclus : Nat := 1
  nstage : Nat := 1
  tsymm : BitVec 8 := 1
  csymm : BitVec 8 := 1
  code : W64 := 0
  entry : W64 := 0
  ringv : W64 := 0
  ringm : W64 := 0
  ringx : W64 := 0
  args : W64 := 0
  root : Cap := {}
  result : W64 := 0
  seed : W64 := 0
  meas : List Byte := []
  tlist : W64 := 0
  ntask : Nat := 0
  en : Nat := 0
  eb : Nat := 0
  ek : Nat := 0
  nmin : Nat := 0
  z : W64 := 0
  tau : W64 := 0
deriving DecidableEq, Repr

/-- A task of a launch's list or a batch (R95 to R98, R115): ready, running, committed, or aborted and
not yet eligible again (R337): until a virtual address translates (`acc` 0 load, 1 store, 2 fetch), or
until a page of an object is resident with its lease. -/
inductive TaskSt where
  | ready | running (phys : Nat) | committed
  | waitVa (va : W64) (acc : Nat)
  | waitPage (obj page : Nat) (write : Bool)
deriving DecidableEq, Repr, Inhabited

/-- A task descriptor (R95) with its state and abort count (R337). -/
structure TaskRec where
  entry : W64
  arg : W64
  id : W64
  rds : List (Nat × Nat)
  wrs : List (Nat × Nat)
  st : TaskSt
  aborts : Nat
deriving DecidableEq, Repr, Inhabited

/-- Almond's merged state and the flushed batches it holds back (R116, R117). -/
structure Almond where
  n : Nat := 0
  mean : W64 := 0
  m2 : W64 := 0
  hw : W64 := 0x7FF0000000000000
  next : Nat := 0
  held : List (Nat × W64 × W64 × W64) := []
  stop : Nat := 0
  cancel : Bool := false
deriving DecidableEq, Repr

/-- A circuit reservation (R412, R436); `again` one that a resumed launch asks for again (R413), `cto` the collective timeout
within which it must be granted. -/
structure Resv where
  id : Nat
  launch : Nat
  port : Nat
  dest : Nat
  slots : Nat
  granted : Bool
  since : Nat
  again : Bool := false
  cto : Nat := 10000000
deriving DecidableEq, Repr, Inhabited

/-- Status of a launch: waiting for tiles to free (R105), placed with its binds queued, running, saved, or ended with a
STATUS (R91). -/
inductive LaunchSt where
  | waiting | queued | running | saving | saved | ended (status : Nat)
deriving DecidableEq, Repr, Inhabited

/-- What dispatch keeps of a saved tile besides its context area (R341 to R344): the logical tile
(lclus · 16 + ltile), the area, its form, the run state, the running task, the level of the core, where its
barrier words stand and the kinds of its accumulator blocks. -/
structure SavedTile where
  lt : Nat
  area : Nat
  form : Nat
  run : RunSt
  task : TaskCtx
  taskId : W64
  level : Level
  bar : BarSt
  arrs : List (W64 × BarSt)
  kinds : Vector BlockKind 192
deriving DecidableEq, Repr

/-- A launch of the package (R89 to R119, R341). `place` maps lclus · 16 + ltile to a physical tile; a
tile in `begun` has started for the launch and its near space has been marked (R143). `mask` are the clusters that a
placement may take (R108); `cancelled` says that a cancel has reached it saved (R467), and `resvs` are the reservations that
its save has released (R343, R436). `again` is the placement that a resume has bound and that waits for its tiles (R112,
R347), `prioCap` the PRIO limit of the session that submitted it through a mailbox (R458). `hostFault` is set once a host write
to its measured bytes has ended it, while its pool writes are unanswered (R353, R388). -/
structure Launch where
  handle : Nat
  recPA : Nat := 0
  rc : LaunchRec := {}
  img : Image := ⟨0, 0, [], [], []⟩
  /-- Physical address of the commit areas that the loader has reserved (R161): 64 MiB for each logical tile, in unit
  order. -/
  commit : Nat := 0
  token : W64 := 0
  session : Nat := 0
  ptb : W64 := 0
  asid : W64 := 0
  kvec : W64 := 0
  st : LaunchSt := .queued
  place : List (Nat × Nat) := []
  begun : List Nat := []
  tt : Bool := false
  mask : BitVec 16 := 0xFFFF
  cancelled : Bool := false
  resvs : List Resv := []
  again : List (Nat × Nat) := []
  prioCap : Option Nat := none
  hostFault : Bool := false
  tasks : List TaskRec := []
  almond : Almond := {}
  code : Nat := 0
  fwhere : W64 := 0
  fepc : W64 := 0
  started : Nat := 0
  rejected : Bool := false
  saveAt : Option Nat := none
  area : Nat := 0
  saved : List SavedTile := []
deriving DecidableEq, Repr

/-! ### Translation, pool cache, fabric -/

/-- A lease that a package holds on a page with its resident frame (R379 to R383); `forTask` is one that firmware has asked
for on behalf of an aborted task, and renews until that task is done (R337). -/
structure Frame where
  obj : Nat
  page : Nat
  pa : Nat
  write : Bool
  grant : Nat
  ldur : Nat
  token : W64
  forTask : Bool
deriving DecidableEq, Repr, Inhabited

/-- An object directory entry (R375). -/
structure DirEntry where
  index : Nat
  valid : Bool
  direct : Bool
  ldur : Nat
  node : Nat
  objid : Nat
deriving DecidableEq, Repr, Inhabited

/-- An operation on its way to a pool gate (R378, R391): who sent it and from which word. -/
inductive PoolOp where
  | put (off : Nat) (bytes : List Byte)
  | load8 (off : Nat) (d : Reg)
  | store8 (off : Nat) (v : W64)
  | atomic (off : Nat) (op : BitVec 3) (b x : W64) (key : W64) (d : Option Reg) (dst : Option Nat)
deriving DecidableEq, Repr, Inhabited

/-- An entry of a pool channel (R391). `src` is the physical tile, 256 where its issuer runs no more (R397), `eng` the
ring index of an X command, `seq` the queue place of a control-core access, `launch` the launch that issued it, while it has
not ended (R388). -/
structure PoolMsg where
  obj : Nat
  op : PoolOp
  token : W64
  src : Nat
  pc : W64
  eng : Option W32
  seq : Nat
  launch : Option Nat := none
deriving DecidableEq, Repr, Inhabited

/-- An entry of the channel from a tile to a peer package (R414, R434): a write of bytes at an
address of the target's window; `lost` once the target has failed with the write under way (R408). -/
structure PeerMsg where
  src : Nat
  target : Nat
  addr : W64
  tenant : BitVec 16
  bytes : List Byte
  eng : W32
  lost : Bool := false
deriving DecidableEq, Repr, Inhabited

/-- An entry in a channel of the cluster memory (R167). -/
structure ChanEntry where
  src : Nat
  clus : Nat
  slice : Nat
  e : QEntry
deriving DecidableEq, Repr, Inhabited

/-- A collective in progress on this package (R435); `away` names the launch of its tile while that is saved (R413). -/
structure Coll where
  group : Nat
  count : Nat
  phys : Nat
  idx : W32
  op : Nat
  typ : BitVec 6
  len : Nat
  first : Nat
  n : Nat
  src : List Byte
  started : Nat
  faulted : Bool
  finished : Bool := false
  away : Option Nat := none
deriving DecidableEq, Repr, Inhabited

/-- A record of the page-table multicast that some member has not acknowledged (R398, R399): when it was
sent, an invalidation (form, address, ASID) or an entry update, and the members that have acknowledged. -/
structure PodRec where
  seq : Nat
  sent : Nat
  inval : Option (BitVec 2 × W64 × W64) := none
  index : Nat := 0
  value : W64 := 0
  acked : List Nat := []
deriving DecidableEq, Repr, Inhabited


/-- A codeword in a sender's replay buffer (R401, R406): wavelength, sequence number, flag bits, ten flits. -/
structure Codeword where
  lam : BitVec 6
  seq : BitVec 16
  sent : Bool
  flags : BitVec 4 := 0
  flits : Vector Flit 10 := Vector.replicate 10 {}
deriving DecidableEq, Repr, Inhabited

/-- The per-wavelength receive position of a port (R406), with the delivered flits that stand in its four receive
buffers (R419). -/
structure RxPos where
  lam : BitVec 6
  next : BitVec 16
  delivered : Nat
  buf : List Flit := []
deriving DecidableEq, Repr, Inhabited

/-- What the ends of a link agree for a virtual channel (R420, R421), in flits. -/
structure VcBuf where
  size : Nat
  xoff : Nat
  xon : Nat
deriving DecidableEq, Repr, Inhabited

/-- An optical port (R400 to R421). `lit` lists slots 1 to 15 with their wavelengths; slot 0 is
λ0 while the port is up. `tries` counts the failed attempts of the bring-up under way, `grants` the slots
(destination, count) that the next cycle lights, `given` what the receive fibre has granted (requester, count). `linkId` is
the link identity, `rtt` the round-trip time in ns and `bufs` the buffers agreed with the far end, `paused` the channels
that the far end has stopped, `pausing` those that this receiver has stopped, `tx` the next sequence number of each
wavelength, and `winFrom`, `winAll` and `winBad` count the codewords of the 1 ms under way. `since` is the TIME at which the
bring-up stage began (R404), `lastCut` that of the last reclaim (R416), and `rxResv` are the slots of the receive fibre that
circuit reservations hold from cycle to cycle (holder, count) (R412). -/
structure Port where
  stage : Nat := 0
  state : Nat := 0
  eng : Nat := 0
  lit : List (Nat × Nat) := []
  lpwr : Nat := 0
  retry : Nat := 0
  ber : Nat := 0
  uncor : Nat := 0
  dest : List (Nat × Nat) := []
  queued : List (Nat × Nat) := []
  replay : List Codeword := []
  rx : List RxPos := []
  askReplay : List (BitVec 6 × BitVec 16) := []
  paused : List (BitVec 6 × BitVec 2) := []
  grants : List (Nat × Nat) := []
  given : List (Nat × Nat) := []
  tries : Nat := 0
  lastServed : Nat := 0
  lastRaise : Option Nat := none
  lowSince : Option Nat := none
  linkId : W32 := 0
  rtt : Nat := 0
  bufs : List VcBuf := []
  pausing : List (BitVec 6 × BitVec 2) := []
  tx : List (BitVec 6 × BitVec 16) := []
  winFrom : Nat := 0
  winAll : Nat := 0
  winBad : Nat := 0
  since : Nat := 0
  lastCut : Option Nat := none
  rxResv : List (Nat × Nat) := []
deriving DecidableEq, Repr, Inhabited

/-- An optical engine (R405, R407): `dead` once it has failed, `failed` once its links have moved to its sibling. -/
structure OptEng where
  dead : Bool := false
  failed : Bool := false
  carry : Bool := false
  temp : BitVec 16 := 0
  focnt : Nat := 0
deriving DecidableEq, Repr, Inhabited

/-- The optical block of a package. `fwd` is the λ0 forwarding table (endpoint, port) (R403), `noPath` the endpoints whose
last path has gone, with the TIME at which it went (R408). -/
structure Optics where
  ports : List Port := (List.range 32).map (fun p => { eng := p / 4 })
  engs : List OptEng := List.replicate 8 {}
  lbudget : Nat := 6144
  wcut : Nat := 0
  berhi : Nat := 36
  berlo : Nat := 50
  berhold : Nat := 100
  resvs : List Resv := []
  unreachable : List Nat := []
  cycle : Nat := 0
  fwd : List (Nat × Nat) := []
  noPath : List (Nat × Nat) := []
deriving DecidableEq, Repr

/-! ### Host, trust and service life -/

/-- How a CXL read of the host ends (R455): with data, with Completer Abort, with poison. -/
inductive ReadEnd where
  | data | abort | poison
deriving DecidableEq, Repr, Inhabited

/-- A violation record (R449). -/
structure Violation where
  time : Nat
  kind : Nat
  source : Nat
  addr : Nat
  seq : Nat
deriving DecidableEq, Repr, Inhabited

/-- A policy entry (R454). -/
structure Policy where
  index : Nat
  pol : BitVec 32
  tenant : BitVec 16
  valid : Bool
  meas : List Byte
  wkey : List Byte
deriving DecidableEq, Repr, Inhabited

/-- A session with its page (R449, R450). -/
structure Session where
  num : Nat
  tenant : BitVec 16
  hbseq : W64 := 0
  hbtime : W64 := 0
  wix : W64 := 0
  ovf : W64 := 0
  verhb : W64 := 0
  sig : BitVec 768 := 0
  recs : List Violation := []
  policies : List Policy := []
  kek : BitVec 256 := 0
  msgKey : BitVec 256 := 0
  msgSeq : Nat := 0
  meas : List (List Byte) := []
  prioLimit : Nat := 7
  established : Bool := false
deriving DecidableEq, Repr

/-- A mailbox channel (R458): ring positions, the bytes of the page's two rings, the accepted
submissions that await completion (handle, cookie), and the completions (cookie, result) that wait for room in their ring. -/
structure Mailbox where
  ch : BitVec 6
  session : Nat
  head : W64 := 0
  tail : W64 := 0
  chead : W64 := 0
  ctail : W64 := 0
  page : Memory := []
  pending : List (Nat × W64) := []
  waiting : List (W64 × W64) := []
deriving DecidableEq, Repr

/-- An Event of the Acorn event ring (R328, R461). -/
inductive EventRec where
  | linkDown (port : Nat)
  | resultUnwritable (handle : Nat)
  | memError (line : Nat)
  | sealedDebug (phys : Nat)
deriving DecidableEq, Repr, Inhabited

/-- FWSTAT, the staged image and the progress of an update (R459, R460). -/
structure Firmware where
  active : Bool := false
  state : Nat := 0
  err : Nat := 0
  minver : BitVec 16 := 0
  veract : BitVec 16 := 0
  verstg : BitVec 16 := 0
  sigOk : Bool := false
  handover : BitVec 16 := 0
  since : Nat := 0
deriving DecidableEq, Repr

/-- The SPDM responder (R452): which requests have been served on the open connection. -/
structure Spdm where
  version : Bool := false
  caps : Bool := false
  algs : Bool := false
  sel : BitVec 4 := 0
  digests : Bool := false
  cert : Bool := false
  challenged : Bool := false
  reply : List Byte := []
deriving DecidableEq, Repr

/-- The lifetime counters of R462, in memory and as last written to flash. -/
structure Counters where
  poweron : W64 := 0
  thermcyc : W64 := 0
  secorrSram : W64 := 0
  secorrHbm : W64 := 0
  uncorSram : W64 := 0
  uncorHbm : W64 := 0
  failover : W64 := 0
  tiledis : W64 := 0
deriving DecidableEq, Repr

/-- Supply offset in mV and clock in MHz of a cluster, with its histograms, and its four delay monitors as last read, beside
their factory baseline, in one unit (R462, R463). -/
structure ClusterLife where
  offset : Nat := 0
  clock : Nat := 2000
  tempHist : List W64 := List.replicate 8 0
  suppHist : List W64 := List.replicate 8 0
  monitors : Vector Nat 4 := Vector.replicate 4 10000
  baseline : Vector Nat 4 := Vector.replicate 4 10000
  checked : Option Nat := none
deriving DecidableEq, Repr

/-- Service life and power of a package (R462 to R466). -/
structure Life where
  now : Counters := {}
  flash : Counters := {}
  flushed : Nat := 0
  clusters : List ClusterLife := List.replicate 16 {}
  throttled : Bool := false
  stretched : Bool := false
  powered : Bool := true
  retired : List Nat := []
  sramErr : List (Nat × Nat) := []
  gone : List Nat := []
  aliasCert : Option (BitVec 768) := none
deriving DecidableEq, Repr

/-! ### The package -/

/-- A time-triggered entry (R107), and the start of the slot in which it has fired, or been skipped, last. -/
structure TtEntry where
  recPA : Nat := 0
  clmask : BitVec 16 := 0
  len : BitVec 6 := 0
  rule : Bool := false
  en : Bool := false
  skips : Nat := 0
  launch : BitVec 16 := 0
  fired : Option Nat := none
deriving DecidableEq, Repr, Inhabited

/-- A window of the time-triggered table that is open or has overrun (R109), and when it ends. Handle 0 is
the window of a skipped firing. -/
structure TtWindow where
  entry : BitVec 6
  handle : Nat
  clmask : BitVec 16
  overrun : Bool
  skipNext : Bool
  ends : Nat
deriving DecidableEq, Repr, Inhabited

/-- Scheduling registers of the shared page (R447). -/
structure SchedRegs where
  spbase : W64 := 0
  sppub : W32 := 0
  spdone : W32 := 0
  ttbase : W64 := 0
  ttlen : W32 := 10000
  ageint : Nat := 0
  agecap : Nat := 0
  hcwin : W64 := 0
  haper : W64 := 0
  pkgpl : Nat := 2600
  splim : Nat := 200000
  hbint : Nat := 1000
deriving DecidableEq, Repr

/-- One package. `tiles` are its tiles other than the one in focus; of its L2 (R132, R137), `l2` are the dirty bytes,
`l2lines` the lines that it holds, oldest first, and `l2kept` bytes of clean copies that an uncached store has since changed
in memory (R172); `sealedFrames` the 256 KiB frames that the hub
has marked as sealed, each with its tenant (R455); `lastRead` the answer to the last read from outside, and `lastEnd` how the
last CXL read of the host ended. -/
structure Package where
  num : Nat := 0
  tiles : List Tile := []
  /-- The tiles that a PLM840-K240 is sold without: one in each cluster, at a corner of its mesh (R2, R106). -/
  fused : List Nat := []
  disabled : List Nat := []
  time : Nat := 0
  /-- TIME at the last correction of the time base (R88). -/
  synced : Nat := 0
  mem : Memory := []
  l2 : Overlay := []
  l2lines : List Nat := []
  l2kept : Overlay := []
  tags : List Nat := []
  scrub : List (Nat × Nat) := []
  ecc : List Nat := []
  bound : Nat := 0x4000000000
  chans : List ChanEntry := []
  l2tlb : List (Nat × TlbEntry) := []
  launches : List Launch := []
  stamp : BitVec 24 := 0
  tt : Vector TtEntry 64 := Vector.replicate 64 {}
  windows : List TtWindow := []
  regs : SchedRegs := {}
  prefetch : List (Nat × Nat) := []
  dir : List DirEntry := []
  frames : List Frame := []
  /-- Pages (object, page, TIME) whose lease has run out, or has been refused its renewal, at this holder, with the local
  expiry of that lease (R383). -/
  lostPages : List (Nat × Nat × Nat) := []
  /-- Leases (record, object, page) that Sprout has taken for a published record (R395). -/
  recTaken : List (W32 × Nat × Nat) := []
  poolCh : List PoolMsg := []
  member : Bool := true
  failed : Bool := false
  failedAt : Nat := 0
  podSeq : Nat := 0
  podOut : List PodRec := []
  podNext : List (Nat × Nat) := []
  podRoots : List (Nat × W64) := []
  peerCh : List PeerMsg := []
  colls : List Coll := []
  collCount : List (Nat × Nat) := []
  host : List L1Line := []
  optics : Optics := {}
  sessions : List Session := []
  boxes : List Mailbox := []
  events : List EventRec := []
  eventOvf : Nat := 0
  fw : Firmware := {}
  spdm : Spdm := {}
  spdmMgmt : Spdm := {}
  life : Life := {}
  sealedFrames : List (Nat × Nat) := []
  /-- Pool objects that the service has tagged as sealed, each with its tenant (R455). -/
  sealedObjs : List (Nat × Nat) := []
  lastRead : W64 := 0
  lastEnd : ReadEnd := .data
deriving DecidableEq, Repr

/-! ### The pool -/

/-- A lease at its node (R381, R382): the package that holds it, and the duration that its grant carries. -/
structure Lease where
  page : Nat
  pkg : Nat
  write : Bool
  grant : Nat
  token : W64
  ldur : Nat := 1000
deriving DecidableEq, Repr, Inhabited

/-- A key record with the time its age counts from (R389, R390). -/
structure KeyRec where
  key : W64
  result : W64
  since : Nat
deriving DecidableEq, Repr, Inhabited

/-- A pool object at its node (R373 to R390), with the revokes (page, package) sent and not answered. -/
structure PoolObj where
  id : Nat
  node : Nat := 0
  direct : Bool := false
  pages : Nat := 1
  fence : W64 := 0
  rejects : W64 := 0
  ldur : Nat := 1000
  data : Memory := []
  leases : List Lease := []
  lapsed : List (Nat × W64) := []
  keys : List KeyRec := []
  revokes : List (Nat × Nat) := []
deriving DecidableEq, Repr

/-- A pool node's management side (R457): the management root installed in it, and its open SPDM sessions, each with the
root that its requester's certificate chain ends in. -/
structure PoolNode where
  num : Nat
  root : BitVec 256 := 0
  sessions : List (Nat × BitVec 256) := []
deriving DecidableEq, Repr, Inhabited

/-! ### The machine -/

/-- Who moves in one step: the control core or an engine of a tile, or an event of the table. The
package number and physical tile bring that tile into focus first. -/
inductive Act where
  | core
  | engine (e : Eng)
  | event (i : Instr) (x : EvArg)
deriving DecidableEq, Repr

/-- One entry of the agenda. -/
structure Turn where
  pkg : Nat
  phys : Nat
  act : Act
deriving DecidableEq, Repr

/-- The whole machine. The tile in focus is `tile`, its package is `pkg`, every other package of
the pod is in `peers`, the pool's objects are in `pool`, and `nodes` lists the pool nodes whose management side is not as
installed (log 122). `agenda` says what moves next; when it is
empty, the control core in focus moves. `arg` holds the operands of the event that moves. `fresh` is the model's own counter, applied to the opaque
free values of Config (assumption log 1). -/
structure State where
  tile : Tile := {}
  pkg : Package := {}
  peers : List Package := []
  pool : List PoolObj := []
  nodes : List PoolNode := []
  agenda : List Turn := []
  arg : EvArg := {}
  fresh : Nat := 0
deriving DecidableEq, Repr

/-- The other 255 tiles of a package after reset, by physical number from `n` down. -/
def State.resetTiles : Nat → List Tile
  | 0 => []
  | n + 1 => State.resetTiles n ++ [{ phys := n + 1 }]

/-- The machine right after reset: one PLM840-K256 package, number 0, with 256 tiles, no launch,
nothing in memory, and every register at the value of R18, R85 and the later register tables; what
the spec gives no reset value is named in assumption log 3. -/
def State.reset : State := { pkg := { tiles := State.resetTiles 255 } }

/-- The same machine with a PLM840-K240 (R2, R106): `corner` says which corner of each cluster's mesh it lacks. -/
def State.resetK240 (corner : Vector (Fin 4) 16) : State :=
  { State.reset with pkg := { State.reset.pkg with fused := (corner.toList.zipIdx).map (fun x => 16 * x.2 + [0, 3, 12, 15].getD x.1.val 0) } }

/-- How a step may stop. Every event of the spec that ends or suspends a program (R328) is a next
state of this machine, so the one fault is a state in which the machine cannot be a Peralma 840. -/
inductive Fault where
  /-- Raised by `step` when the agenda names a package or a tile that the state does not hold: there
  is no such part of the machine. SAFE: the hardware has no such step at all. -/
  | noSuchTile (pkg phys : Nat)
deriving DecidableEq, Repr

/-- Why a step has no meaning. -/
inductive Refusal where
  /-- Raised by `exec` for an instruction whose meaning is not written. SAFE. -/
  | notModelled (mnemonic : String)
deriving DecidableEq, Repr

end Sys2Proof.Machine
end

