-- ==== Sys2Proof/Machine/Num.lean ====
section
/-! DEFINITION. Exact numbers and their rounding: the binary and small floating-point formats (R237),
Round (R10, R40 to R44), the exact operations with their invalid and divide-by-zero cases (R42,
R43, R75), rounding to integers (R44, R251) and stochastic rounding (R252). -/

namespace Sys2Proof.Machine

/-- A floating-point value: a NaN (signalling or quiet), an infinity, or (−1)^neg · m · 2^e. In a
value that an inexact operation hands to a rounding, the lowest bit of m may stand for a nonzero
remainder below it; such a value has at least two bits below every rounding position used. -/
inductive FVal where
  | nan (sig : Bool)
  | inf (neg : Bool)
  | fin (neg : Bool) (m : Nat) (e : Int)
deriving DecidableEq, Repr, Inhabited

/-- Rounding modes (R40). -/
inductive RMode where | rne | rz | ru | rd
deriving DecidableEq, Repr, Inhabited

/-- The sticky flags of R43. -/
structure FlagSet where
  nv : Bool := false
  dz : Bool := false
  of : Bool := false
  uf : Bool := false
  nx : Bool := false
deriving DecidableEq, Repr, Inhabited

/-- Both sets of flags. -/
def FlagSet.join (a b : FlagSet) : FlagSet :=
  ⟨a.nv || b.nv, a.dz || b.dz, a.of || b.of, a.uf || b.uf, a.nx || b.nx⟩

/-- A floating-point format (R237): fraction width, exponent width, bias, largest finite magnitude
code, whether it has infinities (coded maxCode + 1), and the canonical NaN (R239) if it has one. -/
structure Fmt where
  w : Nat
  eb : Nat
  bias : Nat
  maxCode : Nat
  hasInf : Bool
  nan : Option Nat
deriving DecidableEq, Repr, Inhabited

def fmt64 : Fmt := ⟨52, 11, 1023, 0x7FEFFFFFFFFFFFFF, true, some 0x7FF8000000000000⟩
def fmt32 : Fmt := ⟨23, 8, 127, 0x7F7FFFFF, true, some 0x7FC00000⟩
/-- F19 without its container: 19 bits (R237, R238). -/
def fmt19 : Fmt := ⟨10, 8, 127, 0x3FBFF, true, some 0x3FE00⟩
def fmtBf16 : Fmt := ⟨7, 8, 127, 0x7F7F, true, some 0x7FC0⟩
def fmt16 : Fmt := ⟨10, 5, 15, 0x7BFF, true, some 0x7E00⟩
def fmtE5m2 : Fmt := ⟨2, 5, 15, 0x7B, true, some 0x7E⟩
def fmtE4m3 : Fmt := ⟨3, 4, 7, 0x7E, false, some 0x7F⟩
def fmtE3m2 : Fmt := ⟨2, 3, 3, 0x1F, false, none⟩
def fmtE2m3 : Fmt := ⟨3, 2, 1, 0x1F, false, none⟩
def fmtE2m1 : Fmt := ⟨1, 2, 1, 0x7, false, none⟩

/-- The width of an encoding. -/
def Fmt.bits (f : Fmt) : Nat := 1 + f.eb + f.w

/-- The value of a magnitude code (R237). -/
def Fmt.magOf (f : Fmt) (code : Nat) : Nat × Int :=
  let ef := code >>> f.w
  let fr := code % 2 ^ f.w
  if ef = 0 then (fr, 1 - (f.bias : Int) - f.w) else (2 ^ f.w + fr, (ef : Int) - f.bias - f.w)

/-- The value of an encoding. A NaN is signalling when the top fraction bit is clear (IEEE 754-2019,
R40; E4M3's one NaN is quiet). -/
def Fmt.decode (f : Fmt) (x : Nat) : FVal :=
  let neg := x.testBit (f.eb + f.w)
  let code := x % 2 ^ (f.eb + f.w)
  if code ≤ f.maxCode then .fin neg (f.magOf code).1 (f.magOf code).2
  else if f.hasInf then
    if code = f.maxCode + 1 then .inf neg else .nan (!code.testBit (f.w - 1))
  else .nan false

/-- The sign bit of an encoding. -/
def Fmt.sign (f : Fmt) (neg : Bool) : Nat := if neg then 2 ^ (f.eb + f.w) else 0

/-- Whether a magnitude is rounded up, from the kept part, the remainder and the dropped bits. -/
def roundsUp (mode : RMode) (neg : Bool) (n r sh : Nat) : Bool :=
  match mode with
  | .rz => false
  | .ru => !neg && r != 0
  | .rd => neg && r != 0
  | .rne => decide (2 * r > 2 ^ sh) || (decide (2 * r = 2 ^ sh) && n % 2 = 1)

/-- m · 2^e in units of 2^q: the kept part and the remainder over 2^sh. -/
def splitAt (m : Nat) (e q : Int) : Nat × Nat × Nat :=
  if q ≤ e then (m <<< (e - q).toNat, 0, 0)
  else
    let sh := (q - e).toNat
    (m >>> sh, m % 2 ^ sh, sh)

/-- The quantum of m · 2^e in a format: its own precision, or the subnormal spacing. -/
def Fmt.quantum (f : Fmt) (m : Nat) (e : Int) : Int :=
  max ((m.log2 : Int) + e - f.w) (1 - (f.bias : Int) - f.w)

/-- The magnitude code of m · 2^e rounded in a mode, which may lie above maxCode, and whether the
rounding was inexact. -/
def Fmt.roundMag (f : Fmt) (mode : RMode) (neg : Bool) (m : Nat) (e : Int) : Nat × Bool :=
  if m = 0 then (0, false)
  else
    let q := f.quantum m e
    let (n, r, sh) := splitAt m e q
    let n' := if roundsUp mode neg n r sh then n + 1 else n
    ((q + f.bias + f.w - 1).toNat * 2 ^ f.w + n', r != 0)

/-- Whether m · 2^e is still below the normal range after rounding with an unbounded exponent
(R43: tiny after rounding). -/
def Fmt.tiny (f : Fmt) (mode : RMode) (neg : Bool) (m : Nat) (e : Int) : Bool :=
  let q := (m.log2 : Int) + e - f.w
  let (n, r, sh) := splitAt m e q
  let n' := if roundsUp mode neg n r sh then n + 1 else n
  decide (m ≠ 0) && (decide ((m.log2 : Int) + e < -(f.bias : Int)) ||
    (decide ((m.log2 : Int) + e = -(f.bias : Int)) && decide (n' < 2 ^ (f.w + 1))))

/-- The canonical NaN (R42, R239), or the largest finite value where a format has none (R250). -/
def Fmt.nanCode (f : Fmt) : Nat := f.nan.getD f.maxCode

/-- The encoding of an infinity, or of the largest finite value where a format has none (R250). -/
def Fmt.infCode (f : Fmt) (neg : Bool) : Nat := f.sign neg + (if f.hasInf then f.maxCode + 1 else f.maxCode)

/-- The encoding of an overflow in a mode (R43; R250 for formats without infinity). -/
def Fmt.overflow (f : Fmt) (mode : RMode) (neg : Bool) : Nat :=
  if f.hasInf && (mode == .rne || (mode == .ru && !neg) || (mode == .rd && neg)) then f.sign neg + f.maxCode + 1
  else f.sign neg + f.maxCode

/-- Round (R10, R40, R43, R250): the encoding and the flags of the rounding. -/
def Fmt.round (f : Fmt) (mode : RMode) (v : FVal) : Nat × FlagSet :=
  match v with
  | .nan sig => (f.nanCode, { nv := sig })
  | .inf neg => (f.infCode neg, {})
  | .fin neg m e =>
    let (code, nx) := f.roundMag mode neg m e
    if code > f.maxCode then (f.overflow mode neg, { of := true, nx := true })
    else (f.sign neg + code, { nx := nx, uf := nx && f.tiny mode neg m e })

/-- v · 2^k, exactly. -/
def FVal.scale (v : FVal) (k : Int) : FVal :=
  match v with
  | .fin neg m e => .fin neg m (e + k)
  | x => x

/-- The sign changed. -/
def FVal.negate : FVal → FVal
  | .nan s => .nan s
  | .inf n => .inf (!n)
  | .fin n m e => .fin (!n) m e

/-- The sign cleared. -/
def FVal.abs : FVal → FVal
  | .nan s => .nan s
  | .inf _ => .inf false
  | .fin _ m e => .fin false m e

/-- Src of R61 and R50: the absolute value first, then the negation. -/
def FVal.src (v : FVal) (neg abs : Bool) : FVal :=
  let x := if abs then v.abs else v
  if neg then x.negate else x

def FVal.isNan : FVal → Bool
  | .nan _ => true
  | _ => false

def FVal.isSig : FVal → Bool
  | .nan s => s
  | _ => false

/-- m · 2^e as a signed integer in units of 2^q, q ≤ e. -/
def signedAt (neg : Bool) (m : Nat) (e q : Int) : Int :=
  let n : Int := (m <<< (e - q).toNat : Nat)
  if neg then -n else n

/-- The sign of an exact zero sum (R75). -/
def zeroSumNeg (mode : RMode) (n1 n2 : Bool) (bothZero : Bool) : Bool :=
  if bothZero && n1 == n2 then n1 else mode == .rd

/-- An exact sum with its invalid case (R43: ∞ − ∞). -/
def FVal.add (mode : RMode) (x y : FVal) : FVal × FlagSet :=
  match x, y with
  | .nan a, .nan b => (.nan false, { nv := a || b })
  | .nan a, _ => (.nan false, { nv := a })
  | _, .nan b => (.nan false, { nv := b })
  | .inf a, .inf b => if a = b then (.inf a, {}) else (.nan false, { nv := true })
  | .inf a, _ => (.inf a, {})
  | _, .inf b => (.inf b, {})
  | .fin n1 m1 e1, .fin n2 m2 e2 =>
    let q := if m1 = 0 then e2 else if m2 = 0 then e1 else min e1 e2
    let t := (if m1 = 0 then 0 else signedAt n1 m1 e1 q) + (if m2 = 0 then 0 else signedAt n2 m2 e2 q)
    if t = 0 then (.fin (zeroSumNeg mode n1 n2 (m1 == 0 && m2 == 0)) 0 0, {})
    else (.fin (decide (t < 0)) t.natAbs q, {})

/-- An exact product with its invalid case (0 × ∞). -/
def FVal.mul (x y : FVal) : FVal × FlagSet :=
  match x, y with
  | .nan a, .nan b => (.nan false, { nv := a || b })
  | .nan a, _ => (.nan false, { nv := a })
  | _, .nan b => (.nan false, { nv := b })
  | .inf a, .inf b => (.inf (a ^^ b), {})
  | .inf a, .fin b m _ => if m = 0 then (.nan false, { nv := true }) else (.inf (a ^^ b), {})
  | .fin a m _, .inf b => if m = 0 then (.nan false, { nv := true }) else (.inf (a ^^ b), {})
  | .fin n1 m1 e1, .fin n2 m2 e2 => (.fin (n1 ^^ n2) (m1 * m2) (e1 + e2), {})

/-- Bits kept in an inexact quotient or root, above every destination precision. -/
def extraBits : Nat := 130

/-- A quotient with a sticky lowest bit; x/0 sets DZ, 0/0 and ∞/∞ are invalid (R43). -/
def FVal.div (x y : FVal) : FVal × FlagSet :=
  match x, y with
  | .nan a, .nan b => (.nan false, { nv := a || b })
  | .nan a, _ => (.nan false, { nv := a })
  | _, .nan b => (.nan false, { nv := b })
  | .inf _, .inf _ => (.nan false, { nv := true })
  | .inf a, .fin b _ _ => (.inf (a ^^ b), {})
  | .fin a _ _, .inf b => (.fin (a ^^ b) 0 0, {})
  | .fin n1 m1 e1, .fin n2 m2 e2 =>
    if m2 = 0 then
      if m1 = 0 then (.nan false, { nv := true }) else (.inf (n1 ^^ n2), { dz := true })
    else if m1 = 0 then (.fin (n1 ^^ n2) 0 0, {})
    else
      let sh := extraBits + m2.log2
      let num := m1 <<< sh
      (.fin (n1 ^^ n2) (2 * (num / m2) + (if num % m2 = 0 then 0 else 1)) (e1 - e2 - sh - 1), {})

/-- The integer square root, bit by bit. -/
def isqrtGo (n : Nat) : Nat → Nat → Nat
  | 0, r => r
  | k + 1, r => if (r + 2 ^ k) * (r + 2 ^ k) ≤ n then isqrtGo n k (r + 2 ^ k) else isqrtGo n k r

def isqrt (n : Nat) : Nat := isqrtGo n (n.log2 / 2 + 1) 0

/-- A square root with a sticky lowest bit; below zero it is invalid, −0 passes (R43). -/
def FVal.sqrt (x : FVal) : FVal × FlagSet :=
  match x with
  | .nan a => (.nan false, { nv := a })
  | .inf false => (.inf false, {})
  | .inf true => (.nan false, { nv := true })
  | .fin n m e =>
    if m = 0 then (.fin n 0 0, {})
    else if n then (.nan false, { nv := true })
    else
      let m' := if e % 2 = 0 then m else 2 * m
      let e' := if e % 2 = 0 then e else e - 1
      let big := m' <<< (2 * extraBits)
      let r := isqrt big
      (.fin false (2 * r + (if r * r = big then 0 else 1)) (e' / 2 - extraBits - 1), {})

/-- x × y + z with one rounding to come; 0 × ∞ is invalid even beside a quiet NaN (R75). -/
def FVal.fma (mode : RMode) (x y z : FVal) : FVal × FlagSet :=
  let (p, fp) := FVal.mul x y
  let (t, ft) := FVal.add mode p z
  (t, fp.join ft)

/-- Numeric order of two values that are not NaNs: −0 equals +0. -/
def FVal.lt (x y : FVal) : Bool :=
  match x, y with
  | .inf a, .inf b => a && !b
  | .inf a, .fin _ _ _ => a
  | .fin _ _ _, .inf b => !b
  | .fin n1 m1 e1, .fin n2 m2 e2 => decide (signedAt n1 m1 e1 (min e1 e2) < signedAt n2 m2 e2 (min e1 e2))
  | _, _ => false

def FVal.eq (x y : FVal) : Bool :=
  match x, y with
  | .inf a, .inf b => a == b
  | .fin n1 m1 e1, .fin n2 m2 e2 => decide (signedAt n1 m1 e1 (min e1 e2) = signedAt n2 m2 e2 (min e1 e2))
  | _, _ => false

/-- The sign of a value that is not a NaN. -/
def FVal.neg : FVal → Bool
  | .nan _ => false
  | .inf n => n
  | .fin n _ _ => n

/-- The smaller of two values under R42 and R76: the numeric operand of a NaN and a number, −0
below +0; a signalling NaN sets NV. -/
def FVal.min (x y : FVal) : FVal × FlagSet :=
  match x, y with
  | .nan a, .nan b => (.nan false, { nv := a || b })
  | .nan a, y => (y, { nv := a })
  | x, .nan b => (x, { nv := b })
  | x, y => (if x.lt y then x else if y.lt x then y else if x.neg then x else y, {})

/-- The larger of two values under R42 and R76. -/
def FVal.max (x y : FVal) : FVal × FlagSet :=
  match x, y with
  | .nan a, .nan b => (.nan false, { nv := a || b })
  | .nan a, y => (y, { nv := a })
  | x, .nan b => (x, { nv := b })
  | x, y => (if x.lt y then y else if y.lt x then x else if x.neg then y else x, {})

/-- The clamp of R50 on an encoding of a format: it sets no flag and keeps a NaN. -/
def Fmt.clamp (f : Fmt) (c : BitVec 2) (x : Nat) : Nat :=
  match f.decode x with
  | .nan _ => x
  | v =>
    match c.toNat with
    | 1 => if v.neg then 0 else x
    | 2 =>
      let one := f.bias <<< f.w
      if FVal.lt (.fin false 1 0) v then one else if FVal.lt v (.fin true 1 0) then f.sign true + one else x
    | 3 =>
      match v with
      | .inf n => f.sign n + f.maxCode
      | _ => x
    | _ => x

/-- Dst of R61: the exact result times 2^k, rounded, clamped. -/
def Fmt.dst (f : Fmt) (mode : RMode) (k : Int) (c : BitVec 2) (v : FVal) : Nat × FlagSet :=
  let (x, fl) := f.round mode (v.scale k)
  (f.clamp c x, fl)

/-- A finite value rounded to an integer, and whether that changed it. -/
def roundToInt (mode : RMode) (neg : Bool) (m : Nat) (e : Int) : Int × Bool :=
  let (n, r, sh) := splitAt m e 0
  let n' := if roundsUp mode neg n r sh then n + 1 else n
  ((if neg then -(n' : Int) else n'), r != 0)

/-- Sat of R10. -/
def sat (x lo hi : Int) : Int := if x < lo then lo else if x > hi then hi else x

/-- Conversion to an integer range under R44: the value and the flags. -/
def FVal.toInt (mode : RMode) (lo hi : Int) (v : FVal) : Int × FlagSet :=
  match v with
  | .nan _ => (0, { nv := true })
  | .inf n => (if n then lo else hi, { nv := true })
  | .fin n m e =>
    let (i, nx) := roundToInt mode n m e
    if i < lo then (lo, { nv := true }) else if i > hi then (hi, { nv := true }) else (i, { nx := nx })

/-- An integer as a value. -/
def FVal.ofInt (i : Int) : FVal := .fin (decide (i < 0)) i.natAbs 0

/-- rint of R80: an integral value in the same format. -/
def FVal.rint (mode : RMode) (v : FVal) : FVal × FlagSet :=
  match v with
  | .nan a => (.nan false, { nv := a })
  | .inf n => (.inf n, {})
  | .fin n m e =>
    if m = 0 then (.fin n 0 0, {})
    else
      let (i, nx) := roundToInt mode n m e
      (.fin n i.natAbs 0, { nx := nx })

/-! ### Stochastic rounding (R252) -/

/-- floor(r / 2^sh · 2^16) + ρ ≥ 2^16. -/
def srUp (r sh : Nat) (rho : BitVec 16) : Bool := decide (r * 2 ^ 16 / 2 ^ sh + rho.toNat ≥ 2 ^ 16)

/-- A conversion to a floating-point format in mode SR: overflow takes what RNE gives. -/
def Fmt.roundSr (f : Fmt) (rho : BitVec 16) (v : FVal) : Nat :=
  match v with
  | .fin neg m e =>
    if m = 0 then f.sign neg
    else
      let q := f.quantum m e
      let (n, r, sh) := splitAt m e q
      let lo := (q + f.bias + f.w - 1).toNat * 2 ^ f.w + n
      if lo > f.maxCode || (lo == f.maxCode && r != 0) then (f.round .rne v).1
      else f.sign neg + (if srUp r sh rho then lo + 1 else lo)
  | v => (f.round .rne v).1

/-- A finite value rounded to an integer in mode SR. -/
def roundToIntSr (rho : BitVec 16) (neg : Bool) (m : Nat) (e : Int) : Int :=
  let (n, r, sh) := splitAt m e 0
  let n' := if srUp r sh rho then n + 1 else n
  if neg then -(n' : Int) else n'

end Sys2Proof.Machine
end

