-- ==== Sys2Proof/Machine/Transc.lean ====
section
/-! DEFINITION. The correctly rounded functions of R259 to R261: each is enclosed between two dyadic
numbers, with a precision that grows until both ends round to the same value. -/

namespace Sys2Proof.Machine

/-- A dyadic number m · 2^e. -/
structure Dy where
  m : Int
  e : Int
deriving DecidableEq, Repr, Inhabited

/-- An interval with dyadic ends. -/
structure Iv where
  lo : Dy
  hi : Dy
deriving DecidableEq, Repr, Inhabited

/-- The largest multiple of 2^(e + s) not above m · 2^e. -/
def Dy.floorBits (d : Dy) (p : Nat) : Dy :=
  let s := d.m.natAbs.log2 - p
  ⟨d.m >>> s, d.e + s⟩

/-- The smallest one not below it. -/
def Dy.ceilBits (d : Dy) (p : Nat) : Dy :=
  let s := d.m.natAbs.log2 - p
  ⟨-((-d.m) >>> s), d.e + s⟩

def Dy.add (a b : Dy) : Dy :=
  let q := min a.e b.e
  ⟨a.m * 2 ^ (a.e - q).toNat + b.m * 2 ^ (b.e - q).toNat, q⟩

def Dy.neg (a : Dy) : Dy := ⟨-a.m, a.e⟩

def Dy.mul (a b : Dy) : Dy := ⟨a.m * b.m, a.e + b.e⟩

def Dy.le (a b : Dy) : Bool :=
  let q := min a.e b.e
  decide (a.m * 2 ^ (a.e - q).toNat ≤ b.m * 2 ^ (b.e - q).toNat)

def Dy.min (a b : Dy) : Dy := if a.le b then a else b
def Dy.max (a b : Dy) : Dy := if a.le b then b else a

/-- a / b for b > 0, rounded down to about p bits. -/
def Dy.divDown (p : Nat) (a b : Dy) : Dy :=
  let s := p + b.m.natAbs.log2 + 1
  ⟨(a.m * 2 ^ s) / b.m, a.e - b.e - s⟩

/-- a / b for b > 0, rounded up. -/
def Dy.divUp (p : Nat) (a b : Dy) : Dy := (Dy.divDown p a.neg b).neg

def Iv.point (d : Dy) : Iv := ⟨d, d⟩
def Iv.nat (n : Int) : Iv := Iv.point ⟨n, 0⟩

def Iv.cut (p : Nat) (x : Iv) : Iv := ⟨x.lo.floorBits p, x.hi.ceilBits p⟩

def Iv.add (p : Nat) (x y : Iv) : Iv := Iv.cut p ⟨x.lo.add y.lo, x.hi.add y.hi⟩
def Iv.neg (x : Iv) : Iv := ⟨x.hi.neg, x.lo.neg⟩
def Iv.sub (p : Nat) (x y : Iv) : Iv := Iv.add p x y.neg

def Iv.mul (p : Nat) (x y : Iv) : Iv :=
  let a := x.lo.mul y.lo; let b := x.lo.mul y.hi; let c := x.hi.mul y.lo; let d := x.hi.mul y.hi
  Iv.cut p ⟨(a.min b).min (c.min d), (a.max b).max (c.max d)⟩

/-- x / y for y > 0. -/
def Iv.div (p : Nat) (x y : Iv) : Iv :=
  ⟨(x.lo.divDown p y.lo).min (x.lo.divDown p y.hi), (x.hi.divUp p y.lo).max (x.hi.divUp p y.hi)⟩

/-- x · 2^k. -/
def Iv.shift (x : Iv) (k : Int) : Iv := ⟨⟨x.lo.m, x.lo.e + k⟩, ⟨x.hi.m, x.hi.e + k⟩⟩

/-- 1 + r/(i+2) · (1 + r/(i+3) · (…)), n levels deep: (e^r − 1)/r for i = 0, |r| ≤ 1. -/
def expTail (p : Nat) (r : Iv) : Nat → Nat → Iv
  | 0, _ => ⟨⟨0, 0⟩, ⟨2, 0⟩⟩
  | n + 1, i => Iv.add p (Iv.nat 1) (Iv.div p (Iv.mul p r (expTail p r n (i + 1))) (Iv.nat (i + 2)))

/-- Σ z^(2j) / (2j + 2i + 1) from j = 0, n terms: atanh(z)/z for i = 0, |z| ≤ 1/2. -/
def atanhTail (p : Nat) (z2 : Iv) : Nat → Nat → Iv
  | 0, _ => ⟨⟨0, 0⟩, ⟨2, 0⟩⟩
  | n + 1, i => Iv.add p (Iv.div p (Iv.nat 1) (Iv.nat (2 * i + 1))) (Iv.mul p z2 (atanhTail p z2 n (i + 1)))

def atanhIv (p : Nat) (z : Iv) : Iv := Iv.mul p z (atanhTail p (Iv.mul p z z) (p / 2 + 4) 0)

/-- ln 2 = 2 atanh(1/3). -/
def ln2Iv (p : Nat) : Iv := (atanhIv p (Iv.div p (Iv.nat 1) (Iv.nat 3))).shift 1

/-- Σ (−1)^j z^(2j) / (2j + 2i + 1): atan(z)/z. -/
def atanTail (p : Nat) (z2 : Iv) : Nat → Nat → Iv
  | 0, _ => ⟨⟨0, 0⟩, ⟨1, 0⟩⟩
  | n + 1, i => Iv.sub p (Iv.div p (Iv.nat 1) (Iv.nat (2 * i + 1))) (Iv.mul p z2 (atanTail p z2 n (i + 1)))

def atanInv (p : Nat) (n : Int) : Iv :=
  let z := Iv.div p (Iv.nat 1) (Iv.nat n)
  Iv.mul p z (atanTail p (Iv.mul p z z) (p / 4 + 4) 0)

/-- π = 16 atan(1/5) − 4 atan(1/239). -/
def piIv (p : Nat) : Iv := Iv.sub p ((atanInv p 5).shift 4) ((atanInv p 239).shift 2)

/-- √x for x > 0. -/
def sqrtIv (p : Nat) (x : Iv) : Iv :=
  let root (d : Dy) (up : Bool) : Dy :=
    let s : Int := if (d.e - 2 * p) % 2 = 0 then 2 * p else 2 * p + 1
    let r := isqrt (d.m.natAbs * 2 ^ s.toNat)
    ⟨r + (if up then 1 else 0), (d.e - s) / 2⟩
  ⟨root x.lo false, root x.hi true⟩

/-- The nearest integer to x / ln 2, from a rough quotient (|x| ≤ 2^13). -/
def expQuot (d : Dy) : Int :=
  let t : Dy := ⟨d.m * 6497320848556798, d.e - 52⟩
  if 0 ≤ t.e then t.m * 2 ^ t.e.toNat
  else (t.m * 2 + 2 ^ (-t.e).toNat) / 2 ^ ((-t.e).toNat + 1)

/-- e^x − 1 with a small relative error for |x| ≤ 1. -/
def expm1Small (p : Nat) (x : Iv) : Iv := Iv.mul p x (expTail p x (p / 2 + 6) 0)

/-- e^x for |x| ≤ 2^13. -/
def expIv (p : Nat) (x : Iv) : Iv :=
  let k := expQuot x.lo
  let r := Iv.sub p x (Iv.mul p (Iv.nat k) (ln2Iv p))
  (Iv.add p (Iv.nat 1) (expm1Small p r)).shift k

/-- The exponent k for which x · 2^−k lies in [3/4, 3/2). -/
def logExp (d : Dy) : Int :=
  let l : Int := (d.m.natAbs.log2 : Int) + d.e
  if (⟨3, l - 1⟩ : Dy).le d then l + 1 else l

/-- ln f for f in about [3/4, 3/2], with a small relative error. -/
def lnNear (p : Nat) (f : Iv) : Iv :=
  (atanhIv p (Iv.div p (Iv.sub p f (Iv.nat 1)) (Iv.add p f (Iv.nat 1)))).shift 1

/-- ln x for x > 0. -/
def lnIv (p : Nat) (x : Iv) : Iv :=
  let k := logExp x.lo
  let l := lnNear p (x.shift (-k))
  if k = 0 then l else Iv.add p (Iv.mul p (Iv.nat k) (ln2Iv p)) l

/-- log2 x for x > 0. -/
def log2Iv (p : Nat) (x : Iv) : Iv :=
  let k := logExp x.lo
  let l := Iv.div p (lnNear p (x.shift (-k))) (ln2Iv p)
  if k = 0 then l else Iv.add p (Iv.nat k) l

/-- ln(1 + y) for y > 0 with a small relative error. -/
def log1pIv (p : Nat) (y : Iv) : Iv :=
  if y.hi.le ⟨1, -1⟩ then (atanhIv p (Iv.div p y (Iv.add p y (Iv.nat 2)))).shift 1
  else lnIv p (Iv.add p (Iv.nat 1) y)

/-- 1 / (1 + e^−x). -/
def sigmoidIv (p : Nat) (x : Iv) : Iv := Iv.div p (Iv.nat 1) (Iv.add p (Iv.nat 1) (expIv p x.neg))

/-- tanh x = (e^2x − 1) / (e^2x + 1). -/
def tanhIv (p : Nat) (x : Iv) : Iv :=
  let d := x.shift 1
  if d.hi.le ⟨1, -1⟩ && (⟨-1, -1⟩ : Dy).le d.lo then
    let m := expm1Small p d
    Iv.div p m (Iv.add p m (Iv.nat 2))
  else
    let e := expIv p d
    Iv.div p (Iv.sub p e (Iv.nat 1)) (Iv.add p e (Iv.nat 1))

/-- An argument beyond which every function here rounds as at this bound. -/
def farArg : Int := 4096

/-- x held inside ±farArg. -/
def Dy.hold (x : Dy) : Dy := (x.max ⟨-farArg, 0⟩).min ⟨farArg, 0⟩

/-- √(2/π) · (x + 0.044715·x³), the constant exact (R261). -/
def geluArg (p : Nat) (x : Dy) : Iv :=
  let c := Iv.div p (Iv.nat 44715) (Iv.nat 1000000)
  let x1 := Iv.point x
  let x3 := Iv.mul p c (Iv.mul p x1 (Iv.mul p x1 x1))
  Iv.mul p (sqrtIv p (Iv.div p (Iv.nat 2) (piIv p))) (Iv.add p x1 x3)

/-- Both ends held inside ±farArg. -/
def Iv.hold (x : Iv) : Iv := ⟨x.lo.hold, x.hi.hold⟩

/-- The functions of R261 and of R259, R260 that need an enclosure. -/
inductive RealFn where
  | exp2 | log2 | exp | sigmoid | silu | gelu | softplus | tanh
deriving DecidableEq, Repr, Inhabited

/-- An enclosure of a function at a finite nonzero x (positive for log2). -/
def RealFn.at (f : RealFn) (p : Nat) (x : Dy) : Iv :=
  let h := Iv.point x.hold
  match f with
  | .exp2 => expIv p (Iv.mul p h (ln2Iv p))
  | .log2 => log2Iv p (Iv.point x)
  | .exp => expIv p h
  | .sigmoid => sigmoidIv p h
  | .silu => Iv.mul p (Iv.point x) (sigmoidIv p h)
  | .gelu => Iv.mul p (Iv.point x) (sigmoidIv p ((geluArg p x.hold).shift 1).hold)
  | .softplus =>
    if x.le ⟨32, 0⟩ then log1pIv p (expIv p h)
    else Iv.add p (Iv.point x) (log1pIv p (expIv p h.neg))
  | .tanh => tanhIv p h

/-- A dyadic number as a value. -/
def Dy.toFVal (d : Dy) : FVal := .fin (decide (d.m < 0)) d.m.natAbs d.e

/-- The result on whose rounding both ends agree, with the precision doubled up to `fuel` times; the
last lower end's rounding if they never agree. -/
def agree {α : Type} [DecidableEq α] (rnd : Dy → α) (f : Nat → Iv) : Nat → Nat → α
  | 0, p => rnd (f p).lo
  | fuel + 1, p =>
    let i := f p
    if rnd i.lo = rnd i.hi then rnd i.lo else agree rnd f fuel (2 * p)

/-- An exact power of two: m · 2^e with m = 1 bit. -/
def powerOfTwo (m : Nat) : Bool := decide (m = 2 ^ m.log2)

/-- Exact values of the functions at finite arguments: everything else is irrational. -/
def RealFn.exact (f : RealFn) (neg : Bool) (m : Nat) (e : Int) : Option FVal :=
  if m = 0 then
    match f with
    | .exp2 | .exp => some (.fin false 1 0)
    | .log2 => some (.inf true)
    | .sigmoid => some (.fin false 1 (-1))
    | .silu | .gelu | .tanh => some (.fin neg 0 0)
    | .softplus => none
  else
    match f with
    | .exp2 =>
      -- an integral argument gives a power of two
      let (n, r, _) := splitAt m e 0
      if r = 0 ∧ n ≤ 4096 then some (.fin false 1 (if neg then -n else n)) else none
    | .log2 => if neg then some (.nan false) else if powerOfTwo m then some (FVal.ofInt (e + m.log2)) else none
    | _ => none

/-- The function of R261 at a value, times 2^k, rounded once in RNE to a format. -/
def RealFn.apply (f : RealFn) (fmt : Fmt) (k : Int) (x : FVal) : Nat :=
  let done (v : FVal) : Nat := (fmt.round .rne (v.scale k)).1
  match x with
  | .nan _ => fmt.nanCode
  | .inf neg =>
    match f, neg with
    | .exp2, true | .exp, true | .sigmoid, true | .softplus, true => done (.fin false 0 0)
    | .log2, true => fmt.nanCode
    | .silu, true | .gelu, true => done (.fin true 0 0)
    | .tanh, true => done (.fin true 1 0)
    | .sigmoid, false | .tanh, false => done (.fin false 1 0)
    | _, false => done (.inf false)
  | .fin neg m e =>
    match f.exact neg m e with
    | some v => done v
    | none =>
      let d : Dy := ⟨if neg then -(m : Int) else m, e⟩
      if m = 0 then agree (fun d => done d.toFVal) (fun p => ln2Iv p) 6 64
      else agree (fun d => done d.toFVal) (fun p => f.at p d) 6 64

/-! ### LNS32 (R258 to R260) -/

/-- An LNS32 value: NaN, zero, infinity, or sign and exponent L in units of 2^−21. -/
inductive LVal where
  | nan
  | zero (neg : Bool)
  | inf (neg : Bool)
  | fin (neg : Bool) (l : Int)
deriving DecidableEq, Repr, Inhabited

def LVal.decode (x : Nat) : LVal :=
  let neg := x.testBit 31
  let low : Nat := x % 2 ^ 30
  if x.testBit 30 then
    if low = 0 then .zero neg else if low = 2 ^ 30 - 1 then .inf neg else .nan
  else .fin neg (if low < 2 ^ 29 then (low : Int) else (low : Int) - 2 ^ 30)

/-- The largest exponent, 256 − 2^−21. -/
def lnsMax : Int := 2 ^ 29 - 1

/-- The encoding; an exponent out of range gives ∞ or 0 (R259). -/
def LVal.encode : LVal → Nat
  | .nan => 0x40000001
  | .zero n => (if n then 2 ^ 31 else 0) + 2 ^ 30
  | .inf n => (if n then 2 ^ 31 else 0) + 2 ^ 30 + (2 ^ 30 - 1)
  | .fin n l =>
    if l > lnsMax then (if n then 2 ^ 31 else 0) + 2 ^ 30 + (2 ^ 30 - 1)
    else if l < -(2 ^ 29) then (if n then 2 ^ 31 else 0) + 2 ^ 30
    else (if n then 2 ^ 31 else 0) + (l % 2 ^ 30).toNat

def LVal.isNan : LVal → Bool
  | .nan => true
  | _ => false

def LVal.sign : LVal → Bool
  | .nan => false
  | .zero n | .inf n | .fin n _ => n

/-- A dyadic exponent rounded to a multiple of 2^−21, ties to even. -/
def roundExp (d : Dy) : Int := (roundToInt .rne (decide (d.m < 0)) d.m.natAbs (d.e + 21)).1

/-- v.tolog of an FP32 value (R259). -/
def lnsOf (x : FVal) : LVal :=
  match x with
  | .nan _ => .nan
  | .inf n => .inf n
  | .fin n m e =>
    if m = 0 then .zero n
    else if powerOfTwo m then .fin n ((e + m.log2) * 2 ^ 21)
    else .fin n (agree roundExp (fun p => log2Iv p (Iv.point ⟨m, e⟩)) 6 64)

/-- 2^(l / 2^21) enclosed. -/
def pow2Iv (p : Nat) (l : Int) : Iv :=
  let k := l / 2 ^ 21
  let r := l % 2 ^ 21
  (expIv p (Iv.mul p (Iv.point ⟨r, -21⟩) (ln2Iv p))).shift k

/-- v.fromlog: the FP32 encoding of 2^(L/2^21 + k) with the sign (R259). -/
def lnsToF32 (k : Int) (x : LVal) : Nat :=
  match x with
  | .nan => fmt32.nanCode
  | .zero n => fmt32.sign n
  | .inf n => fmt32.infCode n
  | .fin n l =>
    let done (v : FVal) : Nat := (fmt32.round .rne v).1
    if l % 2 ^ 21 = 0 then done (.fin n 1 (l / 2 ^ 21 + k))
    else agree (fun d => done (.fin n d.m.natAbs d.e)) (fun p => (pow2Iv p l).shift k) 6 64

def LVal.mul (a b : LVal) : LVal :=
  match a, b with
  | .nan, _ => .nan
  | _, .nan => .nan
  | .zero _, .inf _ => .nan
  | .inf _, .zero _ => .nan
  | .zero s, y => .zero (s ^^ y.sign)
  | x, .zero t => .zero (x.sign ^^ t)
  | .inf s, y => .inf (s ^^ y.sign)
  | x, .inf t => .inf (x.sign ^^ t)
  | .fin s l, .fin t k => .fin (s ^^ t) (l + k)

def LVal.div (a b : LVal) : LVal :=
  match a, b with
  | .nan, _ => .nan
  | _, .nan => .nan
  | .zero _, .zero _ => .nan
  | .inf _, .inf _ => .nan
  | .zero s, y => .zero (s ^^ y.sign)
  | .inf s, y => .inf (s ^^ y.sign)
  | x, .zero t => .inf (x.sign ^^ t)
  | x, .inf t => .zero (x.sign ^^ t)
  | .fin s l, .fin t k => .fin (s ^^ t) (l - k)

def LVal.sqrt (a : LVal) : LVal :=
  match a with
  | .nan => .nan
  | .zero s => .zero s
  | .inf s => if s then .nan else .inf false
  | .fin s l => if s then .nan else .fin false (roundExp ⟨l, -22⟩)

/-- v.lpow with an FP32 exponent (R260). -/
def LVal.pow (a : LVal) (y : FVal) : LVal :=
  match a, y with
  | .nan, _ => .nan
  | _, .nan _ => .nan
  | .fin true _, _ => .nan
  | .inf true, _ => .nan
  | .zero _, .inf n => if n then .inf false else .zero false
  | .zero _, .fin n m _ => if m = 0 then .fin false 0 else if n then .inf false else .zero false
  | .inf false, .inf n => if n then .zero false else .inf false
  | .inf false, .fin n m _ => if m = 0 then .fin false 0 else if n then .zero false else .inf false
  | .fin false l, .inf n =>
    if l = 0 then .fin false 0 else if decide (l < 0) = n then .inf false else .zero false
  | .fin false l, .fin n m e =>
    let t : Int := l * (if n then -(m : Int) else m)
    -- an exponent beyond the range is held just outside it, so that no shift grows without bound
    if t = 0 then .fin false 0
    else if (t.natAbs.log2 : Int) + e ≥ 40 then .fin false (if t < 0 then -(2 ^ 31) else 2 ^ 31)
    else .fin false (roundExp ⟨t, e - 21⟩)

/-- log2 of the exact sum of two finite values (R260). -/
def lnsSum (s : Bool) (l : Int) (t : Bool) (k : Int) : LVal :=
  let big := max l k
  let small := min l k
  let sg := if l ≥ k then s else t
  if s = t then
    if l = k then .fin s (l + 2 ^ 21)
    else .fin s (agree roundExp (fun p =>
      Iv.add p (Iv.point ⟨big, -21⟩) (Iv.div p (log1pIv p (pow2Iv p (small - big))) (ln2Iv p))) 6 64)
  else if l = k then .zero false
  else if big - small = 2 ^ 21 then .fin sg small
  else .fin sg (agree roundExp (fun p =>
      Iv.add p (Iv.point ⟨big, -21⟩) (log2Iv p (Iv.sub p (Iv.nat 1) (pow2Iv p (small - big))))) 6 64)

/-- v.ladd (R260). An exact zero sum, two zeros included, is +0. -/
def LVal.add (a b : LVal) : LVal :=
  match a, b with
  | .nan, _ => .nan
  | _, .nan => .nan
  | .inf s, .inf t => if s = t then .inf s else .nan
  | .inf s, _ => .inf s
  | _, .inf t => .inf t
  | .zero _, .zero _ => .zero false
  | .zero _, y => y
  | x, .zero _ => x
  | .fin s l, .fin t k => lnsSum s l t k

/-- Value order of LNS32 without NaNs: −0 equals +0. -/
def LVal.key : LVal → Int
  | .nan => 0
  | .zero _ => 0
  | .inf n => if n then -(2 ^ 32) else 2 ^ 32
  | .fin n l => if n then -(l + 2 ^ 30) else l + 2 ^ 30

def LVal.lt (a b : LVal) : Bool := decide (a.key < b.key)

/-- max and min of R281: the number beside one NaN, the canonical NaN of two, −0 below +0. -/
def LVal.max (a b : LVal) : LVal :=
  match a, b with
  | .nan, y => y
  | x, .nan => x
  | x, y => if x.lt y then y else if y.lt x then x else if x.sign then y else x

def LVal.min (a b : LVal) : LVal :=
  match a, b with
  | .nan, y => y
  | x, .nan => x
  | x, y => if x.lt y then x else if y.lt x then y else if x.sign then x else y

end Sys2Proof.Machine
end

