-- ==== Sys2Proof/Machine/Formats.lean ====
section
/-! DEFINITION. Element types of the engines (R213, R237), conversions between them (R250, R251,
R252), scales and BX blocks (R241, R242, R255, R256), the random bits of R253, and the exact sums
of the matrix engine (R243 to R246). -/

namespace Sys2Proof.Machine

/-- An element type: an integer, a floating-point format (F19 in its 32-bit container), LNS32, or the
payload of a BX block with m magnitude bits. -/
inductive ETy where
  | int (w : Nat) (signed : Bool)
  | flt (f : Fmt)
  | f19
  | lns
  | bx (m : Nat)
deriving DecidableEq, Repr, Inhabited

/-- Matrix operand formats (R237). -/
def etyOfFmt : Nat → Option ETy
  | 0x0 => some (.flt fmt32)
  | 0x1 => some .f19
  | 0x2 => some (.flt fmtBf16)
  | 0x3 => some (.flt fmt16)
  | 0x4 => some (.flt fmtE5m2)
  | 0x5 => some (.flt fmtE4m3)
  | 0x6 => some (.flt fmtE3m2)
  | 0x7 => some (.flt fmtE2m3)
  | 0x8 => some (.flt fmtE2m1)
  | 0x9 => some (.int 8 true)
  | 0xA => some (.int 8 false)
  | 0xB => some (.int 4 true)
  | 0xC => some (.bx 7)
  | 0xD => some (.bx 4)
  | 0xE => some (.bx 2)
  | _ => none

/-- V type codes (R213). -/
def etyOfType (t : Nat) : Option ETy :=
  match t with
  | 0x00 => some (.int 8 true)
  | 0x01 => some (.int 8 false)
  | 0x02 => some (.int 16 true)
  | 0x03 => some (.int 16 false)
  | 0x04 => some (.int 32 true)
  | 0x05 => some (.int 32 false)
  | 0x06 => some (.int 64 true)
  | 0x07 => some (.int 64 false)
  | 0x08 => some (.flt fmt16)
  | 0x09 => some (.flt fmtBf16)
  | 0x0A => some (.flt fmt32)
  | 0x0B => some (.flt fmt64)
  | 0x0C => some .lns
  | _ => if 0x10 ≤ t ∧ t ≤ 0x1E then etyOfFmt (t - 0x10) else none

/-- Codes 0x10, 0x12, 0x13, 0x19 and 0x1A mean 0x0A, 0x09, 0x08, 0x00 and 0x01 (R265). -/
def plainType (t : Nat) : Nat :=
  match t with
  | 0x10 => 0x0A | 0x12 => 0x09 | 0x13 => 0x08 | 0x19 => 0x00 | 0x1A => 0x01
  | t => t

/-- Element width in bits, as stored. -/
def ETy.bits : ETy → Nat
  | .int w _ => w
  | .flt f => f.bits
  | .f19 => 32
  | .lns => 32
  | .bx m => 1 + m

/-- Element size in bytes, for widths of whole bytes. -/
def ETy.bytes (t : ETy) : Nat := t.bits / 8

def ETy.isInt : ETy → Bool
  | .int _ _ => true
  | _ => false

/-- A pattern of w bits as an integer. -/
def intOf (w : Nat) (signed : Bool) (x : Nat) : Int :=
  let y := x % 2 ^ w
  if signed && y.testBit (w - 1) then (y : Int) - 2 ^ w else y

/-- An integer reduced to w bits. -/
def wrap (w : Nat) (i : Int) : Nat := Int.toNat (i % 2 ^ w)

/-- Least and greatest of an integer type. -/
def intLo (w : Nat) (signed : Bool) : Int := if signed then -(2 ^ (w - 1)) else 0
def intHi (w : Nat) (signed : Bool) : Int := if signed then 2 ^ (w - 1) - 1 else 2 ^ w - 1

/-- The value of an element of a numeric type without block scale. -/
def ETy.value (t : ETy) (x : Nat) : FVal :=
  match t with
  | .int w s => FVal.ofInt (intOf w s x)
  | .flt f => f.decode x
  | .f19 => fmt19.decode (x / 2 ^ 13 % 2 ^ 19)
  | .lns => .nan false
  | .bx _ => .nan false

/-- How an engine rounds: a mode of R40, or stochastic with its 16 bits (R249, R252). -/
inductive ERound where
  | mode (m : RMode)
  | sr (rho : BitVec 16)
deriving DecidableEq, Repr, Inhabited

/-- The mode of a command's code (R249), SR excluded. -/
def rmodeOf (c : Nat) : RMode :=
  match c with
  | 1 => .rz | 2 => .ru | 3 => .rd | _ => .rne

/-- A value rounded to a format. -/
def Fmt.roundE (f : Fmt) (r : ERound) (v : FVal) : Nat :=
  match r with
  | .mode m => (f.round m v).1
  | .sr rho => f.roundSr rho v

/-- A value converted to an element of a type (R250, R251), times 2^k, and clamped. -/
def ETy.ofValue (t : ETy) (r : ERound) (k : Int) (c : BitVec 2) (v : FVal) : Nat :=
  match t with
  | .flt f => f.clamp c (f.roundE r (v.scale k))
  | .f19 => fmt19.roundE r v * 2 ^ 13
  | .int w s =>
    match v with
    | .nan _ => 0
    | .inf n => wrap w (if n then intLo w s else intHi w s)
    | .fin n m e =>
      let i := match r with
        | .mode md => (roundToInt md n m e).1
        | .sr rho => roundToIntSr rho n m e
      wrap w (sat i (intLo w s) (intHi w s))
  | .lns | .bx _ => 0

/-! ### Scales and blocks -/

/-- An E8M0 scale (R241): 2^(X − 127), none for NaN. -/
def e8m0 (x : Nat) : Option Int := if x % 256 = 255 then none else some ((x % 256 : Nat) - 127)

/-- The element i of a BX block with magnitude width m under a scale word (R242). -/
def bxValue (m : Nat) (scale : Nat) (i : Nat) (x : Nat) : FVal :=
  let ex := scale / 256 % 256
  let t := scale / 4 ^ (i / 8) % 4
  if ex = 255 then .nan false
  else .fin (x.testBit m) (x % 2 ^ m) ((ex : Int) - 127 - (m - 1) - t)

/-- floor(log2 |v|) of a finite nonzero value. -/
def FVal.expo : FVal → Int
  | .fin _ m e => (m.log2 : Int) + e
  | _ => 0

def FVal.isZero : FVal → Bool
  | .fin _ m _ => m == 0
  | _ => false

def FVal.isFin : FVal → Bool
  | .fin _ _ _ => true
  | _ => false

/-- The largest exponent among the nonzero values of a list, none if all are zero. -/
def maxExpo (vs : List FVal) : Option Int :=
  (vs.filter (fun v => !v.isZero)).foldl (fun a v => some (match a with | none => v.expo | some x => max x v.expo)) none

/-- One quotient of R255 with its rounding. -/
def bxElem (m : Nat) (unit : Int) (r : ERound) (v : FVal) : Nat :=
  match v.scale (-unit) with
  | .fin n mm e =>
    let i := match r with
      | .mode md => (roundToInt md n mm e).1
      | .sr rho => roundToIntSr rho n mm e
    (if n then 2 ^ m else 0) + min i.natAbs (2 ^ m - 1)
  | _ => 0

/-- v.qblk into a BX block of 32 elements (R255): the scale word and the payload elements. `rnd`
gives the rounding of element i of the block. -/
def bxQuant (m : Nat) (rnd : Nat → ERound) (vs : List FVal) : Nat × List Nat :=
  if vs.any (fun v => !v.isFin) then (0xFF00, vs.map (fun _ => 0))
  else
    let ex : Int := match maxExpo vs with
      | none => 0
      | some x => max (x + 127) 0
    let sub (q : Nat) : Nat := match maxExpo ((vs.drop (8 * q)).take 8) with
      | none => 3
      | some x => (sat (ex - 127 - x) 0 3).toNat
    let scale := ex.toNat * 256 + sub 3 * 64 + sub 2 * 16 + sub 1 * 4 + sub 0
    (scale, vs.mapIdx (fun i v => bxElem m (ex - 127 - (m - 1) - sub (i / 8)) (rnd i) v))

/-- The largest exponents of R256. -/
def emaxOf : Nat → Int
  | 0x4 => 15 | 0x5 => 8 | 0x6 => 4 | _ => 2

/-- v.qblk into an E8M0 group of 32 elements (R256). -/
def mxQuant (code : Nat) (f : Fmt) (rnd : Nat → ERound) (vs : List FVal) : Nat × List Nat :=
  let x : Nat :=
    if vs.any (fun v => !v.isFin) then 0xFF
    else match maxExpo vs with
      | none => 0
      | some e => (sat (e - emaxOf code + 127) 0 254).toNat
  (x, vs.mapIdx (fun i v => f.roundE (rnd i) (v.scale (127 - x))))

/-! ### Random bits (R253) -/

def rol64 (x : W64) (n : Nat) : W64 := x.rotateLeft n
def ror64 (x : W64) (n : Nat) : W64 := x.rotateRight n

/-- The eight rounds of Rng. -/
def rngRounds : List Nat → W64 → W64 → W64 → W64 → W64 × W64
  | [], x, y, _, _ => (x, y)
  | i :: is, x, y, k, l =>
    let x := (ror64 x 8 + y) ^^^ k
    let y := rol64 y 3 ^^^ x
    let l := (ror64 l 8 + k) ^^^ BitVec.ofNat 64 i
    let k := rol64 k 3 ^^^ l
    rngRounds is x y k l

/-- The 16 bits ρ of draw j: seed, TASK, ring index, PKG and unit (R253). -/
def rngDraw (seed : W64) (task idx : W32) (pkg unit : Nat) (j : Nat) : BitVec 16 :=
  let c0 : W64 := task ++ idx
  let c1 : W64 := BitVec.ofNat 64 (pkg % 1024 * 2 ^ 54 + unit * 2 ^ 46 + j / 8)
  let (x, y) := rngRounds [0, 1, 2, 3, 4, 5, 6, 7] c0 c1 seed (seed ^^^ 0x9E3779B97F4A7C15)
  let w : BitVec 128 := y ++ x
  (w >>> (16 * (j % 8))).truncate 16

/-! ### Exact sums (R243 to R245) -/

/-- A running exact sum of a matrix step: the finite part in units of 2^q, whether a NaN arose, an
infinity of each sign was met, and whether every term was −0. -/
structure ExSum where
  t : Int := 0
  q : Int := 0
  nan : Bool := false
  pinf : Bool := false
  ninf : Bool := false
  allNegZero : Bool := true
deriving DecidableEq, Repr, Inhabited

/-- One more exact term. -/
def ExSum.add (a : ExSum) (v : FVal) : ExSum :=
  match v with
  | .nan _ => { a with nan := true, allNegZero := false }
  | .inf n => if n then { a with ninf := true, allNegZero := false } else { a with pinf := true, allNegZero := false }
  | .fin n m e =>
    if m = 0 then { a with allNegZero := a.allNegZero && n }
    else
      let q := if a.t = 0 then e else min a.q e
      { a with t := a.t * 2 ^ (a.q - q).toNat + signedAt n m e q, q := q, allNegZero := false }

/-- The value of a sum (R244): an exact zero is +0 unless every term was −0. -/
def ExSum.value (a : ExSum) : FVal :=
  if a.nan || (a.pinf && a.ninf) then .nan false
  else if a.pinf then .inf false
  else if a.ninf then .inf true
  else if a.t = 0 then .fin a.allNegZero 0 0
  else .fin (decide (a.t < 0)) a.t.natAbs a.q

/-- hi and lo of an FP32 operand (R245). -/
def splitF19 (x : FVal) : FVal × FVal :=
  let hi := fmt19.decode (fmt19.round .rz x).1
  let lo := (FVal.add .rne x hi.negate).1
  (hi, fmt19.decode (fmt19.round .rne lo).1)

/-- The exact terms of one product of a step: those of the three passes where both operands are FP32 (R245). `sa` and `sb`
say which operands are FP32; an operand of another format is not split (log 20). The sign of a zero sum is judged by the
terms of the passes (R244). -/
def productTerms (sa sb : Bool) (a b : FVal) : List FVal :=
  let mul (x y : FVal) : FVal := (FVal.mul x y).1
  if !(a.isFin && b.isFin) then [mul a b]
  else
    match sa, sb with
    | false, false => [mul a b]
    | true, false => let x := splitF19 a; [mul x.1 b, mul x.2 b]
    | false, true => let y := splitF19 b; [mul a y.1, mul a y.2]
    | true, true => let x := splitF19 a; let y := splitF19 b; [mul x.1 y.1, mul x.1 y.2, mul x.2 y.1]

end Sys2Proof.Machine
end

