-- ==== Sys2Proof/Machine/Flags.lean ====
section
/-! DEFINITION. Every flag computation of the control core: the values and the FCSR flags of the
scalar floating-point instructions (R74 to R80) and the binary64 estimator steps (R115, R117). -/

namespace Sys2Proof.Machine

/-- Rounded operations (R74). -/
inductive FOp where | add | sub | mul | div | fma | sqrt
deriving DecidableEq, Repr, Inhabited

/-- The exact result and its invalid and divide-by-zero flags. `z` is the addend of ffma. -/
def FOp.exact (op : FOp) (mode : RMode) (x y z : FVal) : FVal × FlagSet :=
  match op with
  | .add => FVal.add mode x y
  | .sub => FVal.add mode x y.negate
  | .mul => FVal.mul x y
  | .div => FVal.div x y
  | .fma => FVal.fma mode x y z
  | .sqrt => FVal.sqrt x

/-- Dst after an operation, with the flags of both (R43, R50, R62). -/
def finishF (f : Fmt) (mode : RMode) (k : Int) (c : BitVec 2) (r : FVal × FlagSet) : Nat × FlagSet :=
  let (x, fl) := f.dst mode k c r.1
  (x, r.2.join fl)

/-- The 3-bit destination scale as a signed number (R49). -/
def kOf (k : BitVec 3) : Int := k.toInt

/-- A rounded operation on encodings: the modifiers of R49 and R50, one rounding (R74). -/
def farith (op : FOp) (f : Fmt) (mode : RMode) (m : FMods) (a b d : Nat) : Nat × FlagSet :=
  finishF f mode (kOf m.k) m.clamp
    (op.exact mode ((f.decode a).src m.na m.aa) ((f.decode b).src m.nb m.ab) (f.decode d))

/-- fmin and fmax (R76). -/
def fminmax (big : Bool) (f : Fmt) (mode : RMode) (m : FMods) (a b : Nat) : Nat × FlagSet :=
  let x := (f.decode a).src m.na m.aa
  let y := (f.decode b).src m.nb m.ab
  finishF f mode (kOf m.k) m.clamp (if big then x.max y else x.min y)

/-- fcmp (R77): cc 0 eq, 1 lt, 2 le, 3 un. -/
def fcompare (f : Fmt) (cc : BitVec 2) (a b : Nat) : Bool × FlagSet :=
  let x := f.decode a
  let y := f.decode b
  if x.isNan || y.isNan then
    (cc == 3, { nv := x.isSig || y.isSig || cc == 1 || cc == 2 })
  else
    (match cc.toNat with
     | 0 => x.eq y
     | 1 => x.lt y
     | 2 => x.lt y || x.eq y
     | _ => false, {})

/-- fclass (R78): one bit of ten. -/
def fclassify (f : Fmt) (a : Nat) : Nat :=
  match f.decode a with
  | .nan s => if s then 0x100 else 0x200
  | .inf n => if n then 0x1 else 0x80
  | .fin n m _ =>
    if m = 0 then (if n then 0x8 else 0x10)
    else if m < 2 ^ f.w then (if n then 0x4 else 0x20)
    else (if n then 0x2 else 0x40)

/-- A conversion between floating-point formats or from an integer (R80). -/
def fcvtTo (f : Fmt) (mode : RMode) (v : FVal) : Nat × FlagSet := f.round mode v

/-- A conversion to an integer register value (R79, R80). -/
def fcvtInt (mode : RMode) (w : Nat) (signed : Bool) (v : FVal) : Nat × FlagSet :=
  let (i, fl) := v.toInt mode (intLo w signed) (intHi w signed)
  (wrap 64 i, fl)

/-- rint on an encoding (R80): an integral result keeps the sign of the source. -/
def frint (f : Fmt) (mode : RMode) (a : Nat) : Nat × FlagSet :=
  let (v, fl) := (f.decode a).rint mode
  let (x, fl2) := f.round mode v
  (x, { fl with nv := fl.nv || fl2.nv })

/-- fcvt by kind (R79): none for a kind that is not in the table. -/
def fconvert (kind : Nat) (mode : RMode) (a : Nat) : Option (Nat × FlagSet) :=
  let s := fmt32.decode (a % 2 ^ 32)
  let d := fmt64.decode a
  match kind with
  | 0x00 => some (fcvtTo fmt32 mode d)
  | 0x01 => some (fcvtTo fmt64 mode s)
  | 0x02 => some (fcvtInt mode 32 true s)
  | 0x03 => some (fcvtInt mode 32 false s)
  | 0x04 => some (fcvtInt mode 64 true s)
  | 0x05 => some (fcvtInt mode 64 false s)
  | 0x06 => some (fcvtInt mode 32 true d)
  | 0x07 => some (fcvtInt mode 32 false d)
  | 0x08 => some (fcvtInt mode 64 true d)
  | 0x09 => some (fcvtInt mode 64 false d)
  | 0x0A => some (fcvtTo fmt32 mode (FVal.ofInt (intOf 32 true a)))
  | 0x0B => some (fcvtTo fmt32 mode (FVal.ofInt (intOf 32 false a)))
  | 0x0C => some (fcvtTo fmt32 mode (FVal.ofInt (intOf 64 true a)))
  | 0x0D => some (fcvtTo fmt32 mode (FVal.ofInt (intOf 64 false a)))
  | 0x0E => some (fcvtTo fmt64 mode (FVal.ofInt (intOf 32 true a)))
  | 0x0F => some (fcvtTo fmt64 mode (FVal.ofInt (intOf 32 false a)))
  | 0x10 => some (fcvtTo fmt64 mode (FVal.ofInt (intOf 64 true a)))
  | 0x11 => some (fcvtTo fmt64 mode (FVal.ofInt (intOf 64 false a)))
  | 0x12 => some (frint fmt32 mode (a % 2 ^ 32))
  | 0x13 => some (frint fmt64 mode a)
  | _ => none

/-! ### Binary64 in RNE for the estimator (R115 to R117): no flag is set -/

def d64 (op : FOp) (a b : W64) : W64 :=
  BitVec.ofNat 64 (fmt64.round .rne (op.exact .rne (fmt64.decode a.toNat) (fmt64.decode b.toNat) (.nan false)).1).1

/-- An unsigned count as binary64 in RNE. -/
def d64OfNat (n : Nat) : W64 := BitVec.ofNat 64 (fmt64.round .rne (FVal.ofInt n)).1

/-- Binary64 order; false beside a NaN. -/
def d64lt (a b : W64) : Bool :=
  let x := fmt64.decode a.toNat
  let y := fmt64.decode b.toNat
  !x.isNan && !y.isNan && x.lt y

end Sys2Proof.Machine
end

