-- ==== Sys2Proof/WellFormed.lean ====
section
/-! DEFINITION. Which instructions are well formed: the terms that an encoding of the spec holds
and that its decode faults (R52) do not turn away. Events have no operands of
their own (State.arg holds them) and are always well formed. -/

namespace Sys2Proof

/-- The raw target of a class with a `w`-bit target field, as the header holds it: it must be the
sign extension of its low `w` bits (R51). -/
def Hdr.fits (h : Hdr) (w : Nat) : Bool := (h.tgt.truncate w).signExtend 24 == h.tgt

/-- Reserved target bits (R47, R28): all of them under SEQ, RET and END, those above bit 4 under
CALLI and JMPI. `w` is the width of the field. -/
def Hdr.targetOk (h : Hdr) (w : Nat) : Bool :=
  match h.nas with
  | .seq | .ret | .endp => h.tgt == 0
  | .calli | .jmpi => (h.tgt.truncate w).toNat < 32
  | _ => true

/-- A header of a class with a `w`-bit target field. -/
def Hdr.ok (h : Hdr) (w : Nat) : Bool := h.fits w && h.targetOk w

/-- A header of class L: no target field, and only SEQ, RET and END (R51). -/
def Hdr.okL (h : Hdr) : Bool := (h.nas == .seq || h.nas == .ret || h.nas == .endp) && h.tgt == 0

/-- A class S header that allows NAS SEQ only (R36, R360). -/
def Hdr.okSeq (h : Hdr) : Bool := h.nas == .seq && h.tgt == 0

/-- The functions that the opcode map assigns in each class (R53). -/
def assigned (cls fn : Nat) : Bool :=
  match cls with
  | 0 => fn ≤ 0x78 && fn != 0x23
  | 1 => fn ≤ 9
  | 2 => fn == 0
  | 3 => fn ≤ 0xD || (0x10 ≤ fn && fn ≤ 0x3E) || (0x40 ≤ fn && fn ≤ 0x45) || (0x48 ≤ fn && fn ≤ 0x4A)
  | 4 => fn ≤ 9 || (0x10 ≤ fn && fn ≤ 0x13)
  | 5 => fn ≤ 3 || (0x10 ≤ fn && fn ≤ 0x17) || (0x20 ≤ fn && fn ≤ 0x29)
  | _ => false

/-- Whether a control word's class or function is unassigned, its NAS being one of R27 (and, in
class L, one that the class allows). -/
def unassignedWord (w : W64) : Bool :=
  let cls := (w.extractLsb' 53 3).toNat
  let nas := (w.extractLsb' 60 4).toNat
  nas < 10 && !assigned cls (w.extractLsb' 46 7).toNat && (cls != 2 || nas == 0 || nas == 7 || nas == 9)

/-- A V command whose regions NREG can count (10, V head word). -/
def VCmd.ok (c : VCmd) : Bool := decide (c.regs.length ≤ 3)

/-- A one-word X command has no second word. -/
def XCmd.ok1 (c : XCmd) : Bool := c.key == 0 && c.len40 == 0 && c.flags == 0

/-- A two-word X command whose low FLAGS bits select the row (R424). -/
def XCmd.sel (c : XCmd) (w : Nat) (v : Nat) : Bool := c.flags.toNat % 2 ^ w == v

/-- The V opcodes of the map (10). -/
def vAssigned (o : Nat) : Bool :=
  (1 ≤ o && o ≤ 9) || (0x10 ≤ o && o ≤ 0x11) || (0x18 ≤ o && o ≤ 0x1E) || (0x20 ≤ o && o ≤ 0x22) || (0x28 ≤ o && o ≤ 0x2A)
    || (0x30 ≤ o && o ≤ 0x36) || o == 0x38 || (0x40 ≤ o && o ≤ 0x41) || (0x48 ≤ o && o ≤ 0x4B) || (0x50 ≤ o && o ≤ 0x51) || (0x58 ≤ o && o ≤ 0x59)

/-- Whether an engine's first word has an opcode outside its map (R214 step 1). V and M words stand
in bits 63:0. -/
def unassignedEngine (e : Eng) (w : BitVec 128) : Bool :=
  match e with
  | .v => (w.extractLsb' 64 64).toNat == 0 && !vAssigned (w.extractLsb' 56 8).toNat
  | .m => (w.extractLsb' 64 64).toNat == 0 && !(1 ≤ (w.extractLsb' 58 6).toNat && (w.extractLsb' 58 6).toNat ≤ 4)
  | .x => !((1 ≤ (w.extractLsb' 120 8).toNat && (w.extractLsb' 120 8).toNat ≤ 7) || (0x81 ≤ (w.extractLsb' 120 8).toNat && (w.extractLsb' 120 8).toNat ≤ 0x8A))

/-- Well-formed instructions. -/
def Instr.wf : Instr → Bool
  | .add h _ _ _ => h.ok 22
  | .sub h _ _ _ => h.ok 22
  | .mul h _ _ _ => h.ok 22
  | .mulhS h _ _ _ => h.ok 22
  | .mulhZ h _ _ _ => h.ok 22
  | .divS h _ _ _ => h.ok 22
  | .divZ h _ _ _ => h.ok 22
  | .remS h _ _ _ => h.ok 22
  | .remZ h _ _ _ => h.ok 22
  | .and h _ _ _ => h.ok 22
  | .or h _ _ _ => h.ok 22
  | .xor h _ _ _ => h.ok 22
  | .andn h _ _ _ => h.ok 22
  | .shl h _ _ _ => h.ok 22
  | .shr h _ _ _ => h.ok 22
  | .sra h _ _ _ => h.ok 22
  | .rol h _ _ _ => h.ok 22
  | .minS h _ _ _ => h.ok 22
  | .minZ h _ _ _ => h.ok 22
  | .maxS h _ _ _ => h.ok 22
  | .maxZ h _ _ _ => h.ok 22
  | .sel h _ _ _ _ _ => h.ok 22
  | .pand h _ _ _ => h.ok 22
  | .por h _ _ _ => h.ok 22
  | .pnot h _ _ => h.ok 22
  | .bswapH h _ _ => h.ok 22
  | .bswapW h _ _ => h.ok 22
  | .bswapD h _ _ => h.ok 22
  | .clzB h _ _ => h.ok 22
  | .clzH h _ _ => h.ok 22
  | .clzW h _ _ => h.ok 22
  | .clzD h _ _ => h.ok 22
  | .ffsB h _ _ => h.ok 22
  | .ffsH h _ _ => h.ok 22
  | .ffsW h _ _ => h.ok 22
  | .ffsD h _ _ => h.ok 22
  | .popB h _ _ => h.ok 22
  | .popH h _ _ => h.ok 22
  | .popW h _ _ => h.ok 22
  | .popD h _ _ => h.ok 22
  | .fclassS h _ _ => h.ok 22
  | .fclassD h _ _ => h.ok 22
  | .cmpEq h _ _ _ => h.ok 22
  | .cmpNe h _ _ _ => h.ok 22
  | .cmpLt h _ _ _ => h.ok 22
  | .cmpGe h _ _ _ => h.ok 22
  | .cmpLtz h _ _ _ => h.ok 22
  | .cmpGez h _ _ _ => h.ok 22
  | .lea h _ _ _ _ => h.ok 22
  | .fminS h _ _ _ _ => h.ok 22
  | .fminD h _ _ _ _ => h.ok 22
  | .fmaxS h _ _ _ _ => h.ok 22
  | .fmaxD h _ _ _ _ => h.ok 22
  | .fcmpS h _ _ _ _ => h.ok 22
  | .fcmpD h _ _ _ _ => h.ok 22
  | .fcvt h _ _ _ _ => h.ok 22
  | .faddS h _ _ _ _ _ => h.ok 22
  | .faddD h _ _ _ _ _ => h.ok 22
  | .fsubS h _ _ _ _ _ => h.ok 22
  | .fsubD h _ _ _ _ _ => h.ok 22
  | .fmulS h _ _ _ _ _ => h.ok 22
  | .fmulD h _ _ _ _ _ => h.ok 22
  | .fdivS h _ _ _ _ _ => h.ok 22
  | .fdivD h _ _ _ _ _ => h.ok 22
  | .ffmaS h _ _ _ _ _ => h.ok 22
  | .ffmaD h _ _ _ _ _ => h.ok 22
  | .fsqrtS h _ _ _ m => h.ok 22 && !m.nb && !m.ab
  | .fsqrtD h _ _ _ m => h.ok 22 && !m.nb && !m.ab
  | .addi h _ _ _ => h.ok 16
  | .andi h _ _ _ => h.ok 16
  | .ori h _ _ _ => h.ok 16
  | .xori h _ _ _ => h.ok 16
  | .shli h _ _ _ => h.ok 16
  | .shri h _ _ _ => h.ok 16
  | .srai h _ _ _ => h.ok 16
  | .extS h _ _ _ _ => h.ok 16
  | .extZ h _ _ _ _ => h.ok 16
  | .ins h _ _ _ _ => h.ok 16
  | .li h _ _ => h.okL
  | .nop h => h.ok 24
  | .gsr h _ _ => h.ok 24
  | .ssr h _ _ => h.ok 24
  | .raise h _ => h.okSeq
  | .barC h _ => h.ok 24
  | .barL h => h.ok 24
  | .step h => h.ok 24
  | .itemNext h _ _ => h.ok 24
  | .estAdd h _ => h.ok 24
  | .estFlush h => h.ok 24
  | .estState h _ _ => h.ok 24
  | .yield h => h.ok 24
  | .ldBs h _ _ => h.ok 16
  | .ldBz h _ _ => h.ok 16
  | .ldHs h _ _ => h.ok 16
  | .ldHz h _ _ => h.ok 16
  | .ldWs h _ _ => h.ok 16
  | .ldWz h _ _ => h.ok 16
  | .ldD h _ _ => h.ok 16
  | .stB h _ _ => h.ok 16
  | .stH h _ _ => h.ok 16
  | .stW h _ _ => h.ok 16
  | .stD h _ _ => h.ok 16
  | .ldc h _ _ => h.ok 16
  | .stc h _ _ => h.ok 16
  | .mark h _ => h.ok 16
  | .amoAdd h _ _ _ _ _ => h.ok 16
  | .amoAnd h _ _ _ _ _ => h.ok 16
  | .amoOr h _ _ _ _ _ => h.ok 16
  | .amoXor h _ _ _ _ _ => h.ok 16
  | .amoMin h _ _ _ _ _ => h.ok 16
  | .amoMax h _ _ _ _ _ => h.ok 16
  | .amoSwap h _ _ _ _ _ => h.ok 16
  | .cas h _ _ _ _ _ => h.ok 16
  | .fence h _ => h.ok 16
  | .acq h _ => h.ok 16
  | .rel h _ => h.ok 16
  | .mwait h _ _ _ _ => h.ok 16
  | .cfl h _ => h.ok 16
  | .cinv h _ => h.ok 16
  | .capBnd h _ _ _ => h.ok 16
  | .capPrm h _ _ _ => h.ok 16
  | .capOff h _ _ => h.ok 16
  | .capGet h _ _ _ => h.ok 16
  | .capTst h _ _ _ => h.ok 16
  | .capClr h _ _ => h.ok 16
  | .bufDecl h _ _ _ => h.ok 16
  | .bufSet h _ _ => h.ok 16
  | .bufGet h _ _ => h.ok 16
  | .enq h _ _ _ => h.ok 22
  | .sdSet h _ _ _ => h.ok 22
  | .sdGet h _ _ _ => h.ok 22
  | .semSig h _ => h.ok 22
  | .semWait h _ => h.ok 22
  | .semGet h _ _ => h.ok 22
  | .seqWait h _ _ => h.ok 22
  | .seqGet h _ _ => h.ok 22
  | .condPop h _ => h.ok 22
  | .xfence h _ => h.ok 22
  | .mcfg h _ _ => h.ok 22
  | .mgo h => h.ok 22
  | .mkey h _ => h.ok 22
  | .mstat h _ _ => h.ok 22
  | .trap h _ _ => h.okSeq
  | .tret h => h.okSeq
  | .kcall h _ => h.okSeq
  | .tlbiPage h _ _ _ => h.ok 24
  | .tlbiAsid h _ _ => h.ok 24
  | .tlbiAll h _ => h.ok 24
  | .tlbsync h => h.ok 24
  | .ctxSave h _ => h.ok 24
  | .ctxLoad h _ => h.okSeq
  | .safe h => h.ok 24
  | .brk h _ => h.ok 24
  | .idle h => h.ok 24
  | .vAdd c => c.ok
  | .vSub c => c.ok
  | .vMul c => c.ok
  | .vFma c => c.ok
  | .vMin c => c.ok
  | .vMax c => c.ok
  | .vDiv c => c.ok
  | .vSqrt c => c.ok
  | .vRsq c => c.ok
  | .vCmp c => c.ok
  | .vSel c => c.ok
  | .vAnd c => c.ok
  | .vOr c => c.ok
  | .vXor c => c.ok
  | .vNot c => c.ok
  | .vShl c => c.ok
  | .vShr c => c.ok
  | .vSra c => c.ok
  | .vClz c => c.ok
  | .vFfs c => c.ok
  | .vPop c => c.ok
  | .vCvt c => c.ok
  | .vQblk c => c.ok
  | .vDq c => c.ok
  | .vTolog c => c.ok
  | .vFromlog c => c.ok
  | .vLmul c => c.ok
  | .vLdiv c => c.ok
  | .vLpow c => c.ok
  | .vLsqrt c => c.ok
  | .vLadd c => c.ok
  | .vAct c => c.ok
  | .vRed c => c.ok
  | .vScan c => c.ok
  | .vFill c => c.ok
  | .vIdx c => c.ok
  | .vPerm c => c.ok
  | .vMov c => c.ok
  | .vSpush c => c.ok
  | .vSpop c => c.ok
  | .vEst c => c.ok
  | .vRnd c => c.ok
  | .xCopy c => c.ok1
  | .xFill c => c.ok1
  | .xGather c => c.ok1
  | .xScatter c => c.ok1
  | .xSend c => c.ok1
  | .xFence c => c.ok1
  | .xWait c => c.ok1
  | .xLeaseRd c => c.sel 2 0
  | .xLeaseWr c => c.sel 2 1
  | .xLeaseRenew c => c.sel 2 2
  | .xLeaseRel c => c.sel 2 3
  | .xCollBcast c => c.sel 2 0
  | .xCollGather c => c.sel 2 1
  | .xCollRscat c => c.sel 2 2
  | .xCollAllred c => c.sel 2 3
  | .xCircRes c => c.sel 1 0
  | .xCircRel c => c.sel 1 1
  | .unassignedControlOpcode w => unassignedWord w
  | .unassignedEngineOpcode e w => unassignedEngine e w
  | _ => true

end Sys2Proof
end

