-- ==== Sys2Proof/Decode.lean ====
section
/-! DEFINITION. The decoder of control words (R45 to R53, R182, R229, R360) and of engine commands
(10, R214 step 1), and after it the encoder written from the same tables. -/

namespace Sys2Proof

/-- Why a word is turned away at decode. -/
inductive DecodeError where
  /-- NAS outside R27 or outside what the class or the instruction allows: ILLEGAL_NAS. -/
  | illegalNas
  /-- A reserved field that is not zero, or an ENG, SEMW or SEMR value that R47, R48 or R229
  exclude: ILLEGAL_OPCODE as a decode fault (R31 step 2). -/
  | reservedField
  /-- tlbi with FORM 0b11 (R365): ILLEGAL_OPCODE of the operation (R31 step 4), after the level check of R360 and
  not where the word is predicated false (R26). R365 names no field that this form uses: its D and A are not checked
  (log 131). -/
  | tlbiForm (h : Hdr)
  /-- An engine command whose words are not all there yet (R207). -/
  | moreWords
deriving DecidableEq, Repr

/-- The NAS of a code (R27). -/
def nasOf (c : BitVec 4) : Option Nas :=
  match c.toNat with
  | 0 => some .seq | 1 => some .jmp | 2 => some .jt | 3 => some .jf | 4 => some .call
  | 5 => some .calli | 6 => some .jmpi | 7 => some .ret | 8 => some .loop | 9 => some .endp
  | _ => none

/-- The code of a NAS (R27). -/
def nasCode : Nas → BitVec 4
  | .seq => 0 | .jmp => 1 | .jt => 2 | .jf => 3 | .call => 4
  | .calli => 5 | .jmpi => 6 | .ret => 7 | .loop => 8 | .endp => 9

/-- The ENG codes of R47. -/
def engOf (c : BitVec 2) : Option Eng :=
  match c.toNat with
  | 1 => some .v | 2 => some .m | 3 => some .x | _ => none

def engCode : Eng → BitVec 2
  | .v => 1 | .m => 2 | .x => 3

/-- Rounding offset m (R74). -/
def rmCode : RmSel → BitVec 7
  | .dyn => 0 | .rne => 1 | .rz => 2 | .ru => 3 | .rd => 4

/-- MODS of class A as R49 lays it out. -/
def fmodsOf (m : BitVec 9) : FMods :=
  ⟨m.getLsbD 8, m.getLsbD 7, m.getLsbD 6, m.getLsbD 5, m.extractLsb' 3 2, m.extractLsb' 0 3⟩

def fmodsCode (m : FMods) : BitVec 9 :=
  BitVec.ofBool m.na ++ BitVec.ofBool m.aa ++ BitVec.ofBool m.nb ++ BitVec.ofBool m.ab ++ m.clamp ++ m.k

/-- An instruction whose reserved fields are zero, or the decode fault of R12. -/
def need (zero : Bool) (i : Instr) : Except DecodeError Instr :=
  if zero then .ok i else .error .reservedField

/-- An instruction that allows NAS SEQ only (R36, R360). -/
def needSeq (n : Nas) (r : Except DecodeError Instr) : Except DecodeError Instr :=
  if n = .seq then r else .error .illegalNas

/-! ### Class A -/

/-- The header of a word of a class with a `w`-bit target field. -/
def hdrOf (n : Nas) (w : W64) (tw : Nat) : Hdr := ⟨n, w.extractLsb' 56 4, (w.extractLsb' 0 tw).signExtend 24⟩

def decodeA (h : Hdr) (w : W64) : Except DecodeError Instr :=
  let d := w.extractLsb' 41 5; let a := w.extractLsb' 36 5; let b := w.extractLsb' 31 5
  let m := w.extractLsb' 22 9
  let pd := w.extractLsb' 41 3; let pa := w.extractLsb' 36 3; let pb := w.extractLsb' 31 3
  let d0 := w.extractLsb' 44 2 == 0; let a0 := w.extractLsb' 39 2 == 0; let b0 := w.extractLsb' 34 2 == 0
  let fm := fmodsOf m
  match (w.extractLsb' 46 7).toNat with
  | 0x00 => need (m == 0) (.add h d a b)
  | 0x01 => need (m == 0) (.sub h d a b)
  | 0x02 => need (m == 0) (.mul h d a b)
  | 0x03 => need (m == 0) (.mulhS h d a b)
  | 0x04 => need (m == 0) (.mulhZ h d a b)
  | 0x05 => need (m == 0) (.divS h d a b)
  | 0x06 => need (m == 0) (.divZ h d a b)
  | 0x07 => need (m == 0) (.remS h d a b)
  | 0x08 => need (m == 0) (.remZ h d a b)
  | 0x09 => need (m == 0) (.and h d a b)
  | 0x0A => need (m == 0) (.or h d a b)
  | 0x0B => need (m == 0) (.xor h d a b)
  | 0x0C => need (m == 0) (.andn h d a b)
  | 0x0D => need (m == 0) (.shl h d a b)
  | 0x0E => need (m == 0) (.shr h d a b)
  | 0x0F => need (m == 0) (.sra h d a b)
  | 0x10 => need (m == 0) (.rol h d a b)
  | 0x11 => need (m == 0) (.minS h d a b)
  | 0x12 => need (m == 0) (.minZ h d a b)
  | 0x13 => need (m == 0) (.maxS h d a b)
  | 0x14 => need (m == 0) (.maxZ h d a b)
  | 0x15 => need (m.extractLsb' 3 5 == 0) (.sel h d a b (m.getLsbD 8) (m.extractLsb' 0 3))
  | 0x16 => need (m == 0 && d0 && a0 && b0) (.pand h pd pa pb)
  | 0x17 => need (m == 0 && d0 && a0 && b0) (.por h pd pa pb)
  | 0x18 => need (m == 0 && d0 && a0 && b == 0) (.pnot h pd pa)
  | 0x19 => need (m == 0 && b == 0) (.bswapH h d a)
  | 0x1A => need (m == 0 && b == 0) (.bswapW h d a)
  | 0x1B => need (m == 0 && b == 0) (.bswapD h d a)
  | 0x24 => need (m == 0 && b == 0) (.clzB h d a)
  | 0x25 => need (m == 0 && b == 0) (.clzH h d a)
  | 0x26 => need (m == 0 && b == 0) (.clzW h d a)
  | 0x27 => need (m == 0 && b == 0) (.clzD h d a)
  | 0x28 => need (m == 0 && b == 0) (.ffsB h d a)
  | 0x29 => need (m == 0 && b == 0) (.ffsH h d a)
  | 0x2A => need (m == 0 && b == 0) (.ffsW h d a)
  | 0x2B => need (m == 0 && b == 0) (.ffsD h d a)
  | 0x2C => need (m == 0 && b == 0) (.popB h d a)
  | 0x2D => need (m == 0 && b == 0) (.popH h d a)
  | 0x2E => need (m == 0 && b == 0) (.popW h d a)
  | 0x2F => need (m == 0 && b == 0) (.popD h d a)
  | 0x36 => need (m == 0 && b == 0) (.fclassS h d a)
  | 0x37 => need (m == 0 && b == 0) (.fclassD h d a)
  | 0x1C => need (m == 0 && d0) (.cmpEq h pd a b)
  | 0x1D => need (m == 0 && d0) (.cmpNe h pd a b)
  | 0x1E => need (m == 0 && d0) (.cmpLt h pd a b)
  | 0x1F => need (m == 0 && d0) (.cmpGe h pd a b)
  | 0x20 => need (m == 0 && d0) (.cmpLtz h pd a b)
  | 0x21 => need (m == 0 && d0) (.cmpGez h pd a b)
  | 0x22 => need (m.extractLsb' 2 7 == 0) (.lea h d a b (m.extractLsb' 0 2))
  | 0x30 => .ok (.fminS h d a b fm)
  | 0x31 => .ok (.fminD h d a b fm)
  | 0x32 => .ok (.fmaxS h d a b fm)
  | 0x33 => .ok (.fmaxD h d a b fm)
  | 0x34 => need (m == 0) (.fcmpS h (w.extractLsb' 44 2) pd a b)
  | 0x35 => need (m == 0) (.fcmpD h (w.extractLsb' 44 2) pd a b)
  | 0x38 => need (m == 0) (.fcvt h .dyn d a b)
  | 0x39 => need (m == 0) (.fcvt h .rne d a b)
  | 0x3A => need (m == 0) (.fcvt h .rz d a b)
  | 0x3B => need (m == 0) (.fcvt h .ru d a b)
  | 0x3C => need (m == 0) (.fcvt h .rd d a b)
  | 0x3D => .ok (.faddS h .dyn d a b fm)
  | 0x3E => .ok (.faddS h .rne d a b fm)
  | 0x3F => .ok (.faddS h .rz d a b fm)
  | 0x40 => .ok (.faddS h .ru d a b fm)
  | 0x41 => .ok (.faddS h .rd d a b fm)
  | 0x42 => .ok (.faddD h .dyn d a b fm)
  | 0x43 => .ok (.faddD h .rne d a b fm)
  | 0x44 => .ok (.faddD h .rz d a b fm)
  | 0x45 => .ok (.faddD h .ru d a b fm)
  | 0x46 => .ok (.faddD h .rd d a b fm)
  | 0x47 => .ok (.fsubS h .dyn d a b fm)
  | 0x48 => .ok (.fsubS h .rne d a b fm)
  | 0x49 => .ok (.fsubS h .rz d a b fm)
  | 0x4A => .ok (.fsubS h .ru d a b fm)
  | 0x4B => .ok (.fsubS h .rd d a b fm)
  | 0x4C => .ok (.fsubD h .dyn d a b fm)
  | 0x4D => .ok (.fsubD h .rne d a b fm)
  | 0x4E => .ok (.fsubD h .rz d a b fm)
  | 0x4F => .ok (.fsubD h .ru d a b fm)
  | 0x50 => .ok (.fsubD h .rd d a b fm)
  | 0x51 => .ok (.fmulS h .dyn d a b fm)
  | 0x52 => .ok (.fmulS h .rne d a b fm)
  | 0x53 => .ok (.fmulS h .rz d a b fm)
  | 0x54 => .ok (.fmulS h .ru d a b fm)
  | 0x55 => .ok (.fmulS h .rd d a b fm)
  | 0x56 => .ok (.fmulD h .dyn d a b fm)
  | 0x57 => .ok (.fmulD h .rne d a b fm)
  | 0x58 => .ok (.fmulD h .rz d a b fm)
  | 0x59 => .ok (.fmulD h .ru d a b fm)
  | 0x5A => .ok (.fmulD h .rd d a b fm)
  | 0x5B => .ok (.fdivS h .dyn d a b fm)
  | 0x5C => .ok (.fdivS h .rne d a b fm)
  | 0x5D => .ok (.fdivS h .rz d a b fm)
  | 0x5E => .ok (.fdivS h .ru d a b fm)
  | 0x5F => .ok (.fdivS h .rd d a b fm)
  | 0x60 => .ok (.fdivD h .dyn d a b fm)
  | 0x61 => .ok (.fdivD h .rne d a b fm)
  | 0x62 => .ok (.fdivD h .rz d a b fm)
  | 0x63 => .ok (.fdivD h .ru d a b fm)
  | 0x64 => .ok (.fdivD h .rd d a b fm)
  | 0x65 => .ok (.ffmaS h .dyn d a b fm)
  | 0x66 => .ok (.ffmaS h .rne d a b fm)
  | 0x67 => .ok (.ffmaS h .rz d a b fm)
  | 0x68 => .ok (.ffmaS h .ru d a b fm)
  | 0x69 => .ok (.ffmaS h .rd d a b fm)
  | 0x6A => .ok (.ffmaD h .dyn d a b fm)
  | 0x6B => .ok (.ffmaD h .rne d a b fm)
  | 0x6C => .ok (.ffmaD h .rz d a b fm)
  | 0x6D => .ok (.ffmaD h .ru d a b fm)
  | 0x6E => .ok (.ffmaD h .rd d a b fm)
  | 0x6F => need (b == 0 && !fm.nb && !fm.ab) (.fsqrtS h .dyn d a fm)
  | 0x70 => need (b == 0 && !fm.nb && !fm.ab) (.fsqrtS h .rne d a fm)
  | 0x71 => need (b == 0 && !fm.nb && !fm.ab) (.fsqrtS h .rz d a fm)
  | 0x72 => need (b == 0 && !fm.nb && !fm.ab) (.fsqrtS h .ru d a fm)
  | 0x73 => need (b == 0 && !fm.nb && !fm.ab) (.fsqrtS h .rd d a fm)
  | 0x74 => need (b == 0 && !fm.nb && !fm.ab) (.fsqrtD h .dyn d a fm)
  | 0x75 => need (b == 0 && !fm.nb && !fm.ab) (.fsqrtD h .rne d a fm)
  | 0x76 => need (b == 0 && !fm.nb && !fm.ab) (.fsqrtD h .rz d a fm)
  | 0x77 => need (b == 0 && !fm.nb && !fm.ab) (.fsqrtD h .ru d a fm)
  | 0x78 => need (b == 0 && !fm.nb && !fm.ab) (.fsqrtD h .rd d a fm)
  | _ => .ok (.unassignedControlOpcode w)

/-! ### Class I -/

def decodeI (h : Hdr) (w : W64) : Except DecodeError Instr :=
  let d := w.extractLsb' 41 5; let a := w.extractLsb' 36 5; let imm := w.extractLsb' 16 20
  let pos := w.extractLsb' 16 6; let lm1 := w.extractLsb' 22 6
  match (w.extractLsb' 46 7).toNat with
  | 0x00 => .ok (.addi h d a imm)
  | 0x01 => .ok (.andi h d a imm)
  | 0x02 => .ok (.ori h d a imm)
  | 0x03 => .ok (.xori h d a imm)
  | 0x04 => need (imm.extractLsb' 6 14 == 0) (.shli h d a pos)
  | 0x05 => need (imm.extractLsb' 6 14 == 0) (.shri h d a pos)
  | 0x06 => need (imm.extractLsb' 6 14 == 0) (.srai h d a pos)
  | 0x07 => need (imm.extractLsb' 12 8 == 0) (.extS h d a lm1 pos)
  | 0x08 => need (imm.extractLsb' 12 8 == 0) (.extZ h d a lm1 pos)
  | 0x09 => need (imm.extractLsb' 12 8 == 0) (.ins h d a lm1 pos)
  | _ => .ok (.unassignedControlOpcode w)

/-! ### Class M -/

def decodeM (h : Hdr) (w : W64) : Except DecodeError Instr :=
  let d := w.extractLsb' 41 5; let a := w.extractLsb' 36 5; let c := w.extractLsb' 32 4
  let sc := w.extractLsb' 30 2; let off := w.extractLsb' 16 14
  let cd := w.extractLsb' 41 4; let d4 := w.extractLsb' 45 1 == 0
  let o : MemOp := ⟨a, c, sc, off⟩
  let s := w.extractLsb' 46 2; let none5 := d == 0 && a == 0 && c == 0 && sc == 0 && off == 0
  match (w.extractLsb' 46 7).toNat with
  | 0x00 => .ok (.ldBs h d o)
  | 0x01 => .ok (.ldBz h d o)
  | 0x02 => .ok (.ldHs h d o)
  | 0x03 => .ok (.ldHz h d o)
  | 0x04 => .ok (.ldWs h d o)
  | 0x05 => .ok (.ldWz h d o)
  | 0x06 => .ok (.ldD h d o)
  | 0x08 => .ok (.stB h d o)
  | 0x09 => .ok (.stH h d o)
  | 0x0A => .ok (.stW h d o)
  | 0x0B => .ok (.stD h d o)
  | 0x07 => need d4 (.ldc h cd o)
  | 0x0C => need d4 (.stc h cd o)
  | 0x0D => need (d == 0) (.mark h o)
  | 0x10 => need (sc == 0) (.amoAdd h s d a c off)
  | 0x11 => need (sc == 0) (.amoAdd h s d a c off)
  | 0x12 => need (sc == 0) (.amoAdd h s d a c off)
  | 0x13 => need (sc == 0) (.amoAdd h s d a c off)
  | 0x14 => need (sc == 0) (.amoAnd h s d a c off)
  | 0x15 => need (sc == 0) (.amoAnd h s d a c off)
  | 0x16 => need (sc == 0) (.amoAnd h s d a c off)
  | 0x17 => need (sc == 0) (.amoAnd h s d a c off)
  | 0x18 => need (sc == 0) (.amoOr h s d a c off)
  | 0x19 => need (sc == 0) (.amoOr h s d a c off)
  | 0x1A => need (sc == 0) (.amoOr h s d a c off)
  | 0x1B => need (sc == 0) (.amoOr h s d a c off)
  | 0x1C => need (sc == 0) (.amoXor h s d a c off)
  | 0x1D => need (sc == 0) (.amoXor h s d a c off)
  | 0x1E => need (sc == 0) (.amoXor h s d a c off)
  | 0x1F => need (sc == 0) (.amoXor h s d a c off)
  | 0x20 => need (sc == 0) (.amoMin h s d a c off)
  | 0x21 => need (sc == 0) (.amoMin h s d a c off)
  | 0x22 => need (sc == 0) (.amoMin h s d a c off)
  | 0x23 => need (sc == 0) (.amoMin h s d a c off)
  | 0x24 => need (sc == 0) (.amoMax h s d a c off)
  | 0x25 => need (sc == 0) (.amoMax h s d a c off)
  | 0x26 => need (sc == 0) (.amoMax h s d a c off)
  | 0x27 => need (sc == 0) (.amoMax h s d a c off)
  | 0x28 => need (sc == 0) (.amoSwap h s d a c off)
  | 0x29 => need (sc == 0) (.amoSwap h s d a c off)
  | 0x2A => need (sc == 0) (.amoSwap h s d a c off)
  | 0x2B => need (sc == 0) (.amoSwap h s d a c off)
  | 0x2C => need (sc == 0) (.cas h s d a c off)
  | 0x2D => need (sc == 0) (.cas h s d a c off)
  | 0x2E => need (sc == 0) (.cas h s d a c off)
  | 0x2F => need (sc == 0) (.cas h s d a c off)
  | 0x30 => need none5 (.fence h s)
  | 0x31 => need none5 (.fence h s)
  | 0x32 => need none5 (.fence h s)
  | 0x33 => need none5 (.fence h s)
  | 0x34 => need none5 (.acq h s)
  | 0x35 => need none5 (.acq h s)
  | 0x36 => need none5 (.acq h s)
  | 0x37 => need none5 (.acq h s)
  | 0x38 => need none5 (.rel h s)
  | 0x39 => need none5 (.rel h s)
  | 0x3A => need none5 (.rel h s)
  | 0x3B => need none5 (.rel h s)
  | 0x3C => need (sc == 0) (.mwait h d a c off)
  | 0x3D => need (d == 0) (.cfl h o)
  | 0x3E => need (d == 0) (.cinv h o)
  | 0x40 => need (d4 && sc == 0 && off == 0) (.capBnd h cd a c)
  | 0x41 => need (d4 && sc == 0 && off == 0) (.capPrm h cd a c)
  | 0x42 => need d4 (.capOff h cd o)
  | 0x43 => need (a == 0 && sc == 0 && off.extractLsb' 3 11 == 0) (.capGet h d c (off.extractLsb' 0 3))
  | 0x44 => need (w.extractLsb' 44 2 == 0 && sc == 0 && off == 0) (.capTst h (w.extractLsb' 41 3) a c)
  | 0x45 => need (d4 && a == 0 && sc == 0 && off == 0) (.capClr h cd c)
  | 0x48 => need (c == 0 && sc == 0 && off.extractLsb' 6 8 == 0) (.bufDecl h d a (off.extractLsb' 0 6))
  | 0x49 => need (d == 0 && a == 0 && c == 0 && sc == 0 && off.extractLsb' 8 6 == 0) (.bufSet h (off.extractLsb' 0 6) (off.extractLsb' 6 2))
  | 0x4A => need (a == 0 && c == 0 && sc == 0 && off.extractLsb' 6 8 == 0) (.bufGet h d (off.extractLsb' 0 6))
  | _ => .ok (.unassignedControlOpcode w)

/-! ### Class E -/

/-- An instruction that names an engine: ENG 0b00 is reserved (R47). -/
def withEng (c : BitVec 2) (zero : Bool) (f : Eng → Instr) : Except DecodeError Instr :=
  match engOf c with
  | some e => need zero (f e)
  | none => .error .reservedField

def decodeE (h : Hdr) (w : W64) : Except DecodeError Instr :=
  let eng := w.extractLsb' 44 2; let a := w.extractLsb' 39 5; let b := w.extractLsb' 34 5
  let k := w.extractLsb' 43 3; let n := w.extractLsb' 39 4
  let sw := w.extractLsb' 28 6; let sr := w.extractLsb' 22 6
  let swn := w.extractLsb' 28 5; let srn := w.extractLsb' 22 5
  let sw0 := sw == 0; let sr0 := sr == 0
  match (w.extractLsb' 46 7).toNat with
  | 0x00 => withEng eng (sw0 && sr0) (fun e => .enq h e a b)
  | 0x01 => need (sw0 && sr0) (.sdSet h k n b)
  | 0x02 => need (sw0 && sr0) (.sdGet h k n b)
  | 0x03 => need (eng == 0 && a == 0 && b == 0 && sw0 && decide (sr.toNat < 32)) (.semSig h srn)
  | 0x04 => need (eng == 0 && a == 0 && b == 0 && sr0 && decide (sw.toNat < 32)) (.semWait h swn)
  | 0x05 => need (eng == 0 && b == 0 && sr0 && decide (sw.toNat < 32)) (.semGet h a swn)
  | 0x06 => withEng eng (b == 0 && sw0 && sr0) (fun e => .seqWait h e a)
  | 0x07 => withEng eng (b == 0 && sw0 && sr0) (fun e => .seqGet h e a)
  | 0x08 => need (eng == 0 && b == 0 && sw0 && sr0) (.condPop h a)
  | 0x09 => withEng eng (a == 0 && b == 0 && sw0 && sr0) (fun e => .xfence h e)
  | 0x10 => need (n == 0 && sw0 && sr0) (.mcfg h k b)
  | 0x11 => need (k == 0 && n == 0 && b == 0 && sw0 && sr0) (.mgo h)
  | 0x12 => need (k == 0 && b == 0 && sw0 && sr0) (.mkey h n)
  | 0x13 => need (eng == 0 && sw0 && sr0) (.mstat h a b)
  | _ => .ok (.unassignedControlOpcode w)

/-! ### Class S -/

def decodeS (h : Hdr) (w : W64) : Except DecodeError Instr :=
  let d := w.extractLsb' 41 5; let a := w.extractLsb' 36 5; let sp := w.extractLsb' 24 12
  let d0 := d == 0; let a0 := a == 0; let s0 := sp == 0
  match (w.extractLsb' 46 7).toNat with
  | 0x00 => need (d0 && a0 && s0) (.nop h)
  | 0x01 => need a0 (.gsr h d sp)
  | 0x02 => need d0 (.ssr h a sp)
  | 0x03 => needSeq h.nas (need (d0 && s0) (.raise h a))
  | 0x10 => need (d0 && a0 && sp.extractLsb' 4 8 == 0) (.barC h (sp.extractLsb' 0 4))
  | 0x11 => need (d0 && a0 && s0) (.barL h)
  | 0x12 => need (d0 && a0 && s0) (.step h)
  | 0x13 => need (a0 && sp.extractLsb' 3 9 == 0) (.itemNext h d (sp.extractLsb' 0 3))
  | 0x14 => need (d0 && s0) (.estAdd h a)
  | 0x15 => need (d0 && a0 && s0) (.estFlush h)
  | 0x16 => need a0 (.estState h d sp)
  | 0x17 => need (d0 && a0 && s0) (.yield h)
  | 0x20 => needSeq h.nas (need (d0 && sp.extractLsb' 8 4 == 0) (.trap h a (sp.extractLsb' 0 8)))
  | 0x21 => needSeq h.nas (need (d0 && a0 && s0) (.tret h))
  | 0x22 => needSeq h.nas (need (d0 && a0) (.kcall h sp))
  | 0x23 =>
    match (sp.extractLsb' 0 2).toNat with
    | 0 => need (sp.extractLsb' 3 9 == 0) (.tlbiPage h d a (sp.getLsbD 2))
    | 1 => need (sp.extractLsb' 3 9 == 0 && a0) (.tlbiAsid h d (sp.getLsbD 2))
    | 2 => need (sp.extractLsb' 3 9 == 0 && d0 && a0) (.tlbiAll h (sp.getLsbD 2))
    | _ => if sp.extractLsb' 3 9 == 0 then .error (.tlbiForm h) else .error .reservedField
  | 0x24 => need (d0 && a0 && s0) (.tlbsync h)
  | 0x25 => need (d0 && s0) (.ctxSave h a)
  | 0x26 => needSeq h.nas (need (d0 && s0) (.ctxLoad h a))
  | 0x27 => need (d0 && a0 && s0) (.safe h)
  | 0x28 => need (d0 && a0) (.brk h sp)
  | 0x29 => need (d0 && a0 && s0) (.idle h)
  | _ => .ok (.unassignedControlOpcode w)

/-- Class L has no target field and allows SEQ, RET and END only (R51). -/
def decodeL (n : Nas) (w : W64) : Except DecodeError Instr :=
  if n = .seq ∨ n = .ret ∨ n = .endp then
    match (w.extractLsb' 46 7).toNat with
    | 0x00 => .ok (.li ⟨n, w.extractLsb' 56 4, 0⟩ (w.extractLsb' 41 5) (w.extractLsb' 0 41))
    | _ => .ok (.unassignedControlOpcode w)
  else .error .illegalNas

/-- Whether the instruction is the row of unassigned codes, whose target field means nothing. -/
def isUnassigned : Instr → Bool
  | .unassignedControlOpcode _ => true
  | _ => false

/-- The reserved target bits (R47), checked after the operation is known; both faults are
ILLEGAL_OPCODE. -/
def withTarget (h : Hdr) (tw : Nat) (r : Except DecodeError Instr) : Except DecodeError Instr :=
  match r with
  | .ok i => if h.targetOk tw || isUnassigned i then .ok i else .error .reservedField
  | .error (.tlbiForm _) => if h.targetOk tw then r else .error .reservedField
  | .error e => .error e

/-- A control word, in the order of R31 and R52. Total: every 64 bits decode to an instruction or to
a named error. -/
def decode (w : W64) : Except DecodeError Instr :=
  match nasOf (w.extractLsb' 60 4) with
  | none => .error .illegalNas
  | some n =>
    match (w.extractLsb' 53 3).toNat with
    | 0 => withTarget (hdrOf n w 22) 22 (decodeA (hdrOf n w 22) w)
    | 1 => withTarget (hdrOf n w 16) 16 (decodeI (hdrOf n w 16) w)
    | 2 => decodeL n w
    | 3 => withTarget (hdrOf n w 16) 16 (decodeM (hdrOf n w 16) w)
    | 4 => withTarget (hdrOf n w 22) 22 (decodeE (hdrOf n w 22) w)
    | 5 => withTarget (hdrOf n w 24) 24 (decodeS (hdrOf n w 24) w)
    | _ => .ok (.unassignedControlOpcode w)

/-! ### Engine commands -/

/-- A V region word (10). -/
def regionOf (w : W64) : Region :=
  ⟨w.extractLsb' 39 25, w.extractLsb' 23 16, w.extractLsb' 7 16, w.getLsbD 6, w.getLsbD 5, w.extractLsb' 3 2, w.extractLsb' 0 3⟩

def regionCode (r : Region) : W64 :=
  r.base ++ r.stride ++ r.count ++ BitVec.ofBool r.neg ++ BitVec.ofBool r.abs ++ r.clamp ++ r.scale

/-- The V opcode map (10). -/
def vOf (opc : Nat) (c : VCmd) : Option Instr :=
  match opc with
  | 0x01 => some (.vAdd c)
  | 0x02 => some (.vSub c)
  | 0x03 => some (.vMul c)
  | 0x04 => some (.vFma c)
  | 0x05 => some (.vMin c)
  | 0x06 => some (.vMax c)
  | 0x07 => some (.vDiv c)
  | 0x08 => some (.vSqrt c)
  | 0x09 => some (.vRsq c)
  | 0x10 => some (.vCmp c)
  | 0x11 => some (.vSel c)
  | 0x18 => some (.vAnd c)
  | 0x19 => some (.vOr c)
  | 0x1A => some (.vXor c)
  | 0x1B => some (.vNot c)
  | 0x1C => some (.vShl c)
  | 0x1D => some (.vShr c)
  | 0x1E => some (.vSra c)
  | 0x20 => some (.vClz c)
  | 0x21 => some (.vFfs c)
  | 0x22 => some (.vPop c)
  | 0x28 => some (.vCvt c)
  | 0x29 => some (.vQblk c)
  | 0x2A => some (.vDq c)
  | 0x30 => some (.vTolog c)
  | 0x31 => some (.vFromlog c)
  | 0x32 => some (.vLmul c)
  | 0x33 => some (.vLdiv c)
  | 0x34 => some (.vLpow c)
  | 0x35 => some (.vLsqrt c)
  | 0x36 => some (.vLadd c)
  | 0x38 => some (.vAct c)
  | 0x40 => some (.vRed c)
  | 0x41 => some (.vScan c)
  | 0x48 => some (.vFill c)
  | 0x49 => some (.vIdx c)
  | 0x4A => some (.vPerm c)
  | 0x4B => some (.vMov c)
  | 0x50 => some (.vSpush c)
  | 0x51 => some (.vSpop c)
  | 0x58 => some (.vEst c)
  | 0x59 => some (.vRnd c)
  | _ => none

/-- How many words a V command takes (R206): its head and NREG region words. -/
def vWords (head : W64) : Nat := 1 + (head.extractLsb' 38 2).toNat

/-- A V command from its words in ring order. -/
def decodeV : List W64 → Except DecodeError Instr
  | [] => .error .moreWords
  | head :: rest =>
    let n := (head.extractLsb' 38 2).toNat
    let c : VCmd := ⟨head.extractLsb' 50 6, head.extractLsb' 44 6, head.extractLsb' 40 4, head.extractLsb' 32 6,
      head.extractLsb' 0 32, (rest.take n).map regionOf⟩
    if rest.length < n then .error .moreWords
    else
      match vOf (head.extractLsb' 56 8).toNat c with
      | some i => .ok i
      | none => .ok (.unassignedEngineOpcode .v (head.zeroExtend 128))

/-- The fields of an M word (10). -/
def mcmdOf (w : W64) : MCmd :=
  ⟨w.extractLsb' 52 6, w.extractLsb' 46 6, w.extractLsb' 42 4, w.extractLsb' 38 4, w.extractLsb' 34 4, w.getLsbD 33, w.getLsbD 32,
   w.extractLsb' 25 7, w.getLsbD 24, w.getLsbD 23, w.getLsbD 22, w.extractLsb' 17 4, w.getLsbD 16, w.extractLsb' 9 7, w.extractLsb' 0 9⟩

/-- An M word (10, R292). DC on an opcode other than mma is a reserved field. -/
def decodeMx (w : W64) : Except DecodeError Instr :=
  let c := mcmdOf w
  match (w.extractLsb' 58 6).toNat with
  | 1 => .ok (if w.getLsbD 21 then .mmaDc c else .mma c)
  | 2 => need (!w.getLsbD 21) (.accZero c)
  | 3 => need (!w.getLsbD 21) (.accLd c)
  | 4 => need (!w.getLsbD 21) (.accOut c)
  | _ => .ok (.unassignedEngineOpcode .m (w.zeroExtend 128))

/-- The fields of word 0 of an X command (10); the second word, when there is one, adds KEY, LEN40
and FLAGS. -/
def xcmdOf (w0 w1 : BitVec 128) : XCmd :=
  ⟨w0.extractLsb' 114 6, w0.extractLsb' 108 6, w0.extractLsb' 104 4, w0.extractLsb' 100 4, w0.extractLsb' 60 40,
   w0.extractLsb' 56 4, w0.extractLsb' 16 40, w0.extractLsb' 0 16, w1.extractLsb' 64 64, w1.extractLsb' 24 40, w1.extractLsb' 0 24⟩

/-- How many words an X command takes (R206). -/
def xWords (w0 : BitVec 128) : Nat := if (w0.extractLsb' 120 8).toNat < 128 then 1 else 2

/-- The X opcode map (10, R424): one-word commands. -/
def xOf1 (opc : Nat) (c : XCmd) : Option Instr :=
  match opc with
  | 0x01 => some (.xCopy c)
  | 0x02 => some (.xFill c)
  | 0x03 => some (.xGather c)
  | 0x04 => some (.xScatter c)
  | 0x05 => some (.xSend c)
  | 0x06 => some (.xFence c)
  | 0x07 => some (.xWait c)
  | _ => none

/-- The X opcode map (10, R424): two-word commands, with the MODE and OP fields of FLAGS. -/
def xOf2 (opc : Nat) (c : XCmd) : Option Instr :=
  match opc with
  | 0x81 => some (.xPget c)
  | 0x82 => some (.xPput c)
  | 0x83 => some (.xPatom c)
  | 0x85 => some (.xRcopy c)
  | 0x86 => some (.xRst c)
  | 0x89 => some (.xSfence c)
  | 0x8A => some (.xPref c)
  | 0x84 =>
    match c.flags.toNat % 4 with
    | 0 => some (.xLeaseRd c) | 1 => some (.xLeaseWr c) | 2 => some (.xLeaseRenew c) | _ => some (.xLeaseRel c)
  | 0x87 =>
    match c.flags.toNat % 4 with
    | 0 => some (.xCollBcast c) | 1 => some (.xCollGather c) | 2 => some (.xCollRscat c) | _ => some (.xCollAllred c)
  | 0x88 => if c.flags.toNat % 2 = 0 then some (.xCircRes c) else some (.xCircRel c)
  | _ => none

/-- An X command from its 128-bit words in ring order. -/
def decodeX : List (BitVec 128) → Except DecodeError Instr
  | [] => .error .moreWords
  | w0 :: rest =>
    if (w0.extractLsb' 120 8).toNat < 128 then
      match xOf1 (w0.extractLsb' 120 8).toNat (xcmdOf w0 0) with
      | some i => .ok i
      | none => .ok (.unassignedEngineOpcode .x w0)
    else
      match rest with
      | [] => .error .moreWords
      | w1 :: _ =>
        match xOf2 (w0.extractLsb' 120 8).toNat (xcmdOf w0 w1) with
        | some i => .ok i
        | none => .ok (.unassignedEngineOpcode .x w0)

/-! ### The encoder -/

/-- Class A (R45, R46): NAS, PRED, class, function, D, A, B, MODS, TARGET. -/
def mkA (h : Hdr) (fn : BitVec 7) (d a b : BitVec 5) (mods : BitVec 9) : W64 :=
  nasCode h.nas ++ h.pred ++ 0#3 ++ fn ++ d ++ a ++ b ++ mods ++ h.tgt.truncate 22

/-- Class I. -/
def mkI (h : Hdr) (fn : BitVec 7) (d a : BitVec 5) (imm : BitVec 20) : W64 :=
  nasCode h.nas ++ h.pred ++ 1#3 ++ fn ++ d ++ a ++ imm ++ h.tgt.truncate 16

/-- Class L. -/
def mkL (h : Hdr) (d : BitVec 5) (imm : BitVec 41) : W64 :=
  nasCode h.nas ++ h.pred ++ 2#3 ++ 0#7 ++ d ++ imm

/-- Class M. -/
def mkM (h : Hdr) (fn : BitVec 7) (d a : BitVec 5) (c : BitVec 4) (sc : BitVec 2) (off : BitVec 14) : W64 :=
  nasCode h.nas ++ h.pred ++ 3#3 ++ fn ++ d ++ a ++ c ++ sc ++ off ++ h.tgt.truncate 16

/-- Class E; `ea` is ENG and A together, bits 45:39 (R229). -/
def mkE (h : Hdr) (fn : BitVec 7) (ea : BitVec 7) (b : BitVec 5) (semw semr : BitVec 6) : W64 :=
  nasCode h.nas ++ h.pred ++ 4#3 ++ fn ++ ea ++ b ++ semw ++ semr ++ h.tgt.truncate 22

/-- Class S. -/
def mkS (h : Hdr) (fn : BitVec 7) (d a : BitVec 5) (spec : BitVec 12) : W64 :=
  nasCode h.nas ++ h.pred ++ 5#3 ++ fn ++ d ++ a ++ spec ++ h.tgt

/-- A predicate number in a 5-bit register field (R47). -/
def pf (p : PReg) : BitVec 5 := 0#2 ++ p

/-- A capability number in a 5-bit register field (R182). -/
def cf (c : CReg) : BitVec 5 := 0#1 ++ c

/-- A V command's words. -/
def encV (opc : BitVec 8) (c : VCmd) : List W64 :=
  (opc ++ c.semw ++ c.semr ++ c.pred ++ BitVec.ofNat 2 c.regs.length ++ c.typ ++ c.ops : BitVec 64) :: c.regs.map regionCode

/-- An M word. -/
def encM (opc : BitVec 6) (dc : Bool) (c : MCmd) : W64 :=
  opc ++ c.semw ++ c.semr ++ c.pred ++ c.sa ++ c.sb ++ BitVec.ofBool c.g ++ BitVec.ofBool c.bank ++ c.acc ++ BitVec.ofBool c.na
    ++ BitVec.ofBool c.nb ++ BitVec.ofBool c.nacc ++ BitVec.ofBool dc ++ c.dcf ++ BitVec.ofBool c.dcbank ++ c.acca ++ c.rsv

/-- Word 0 of an X command. -/
def encX0 (opc : BitVec 8) (c : XCmd) : BitVec 128 :=
  opc ++ c.semw ++ c.semr ++ c.pred ++ c.scap ++ c.soff ++ c.dcap ++ c.doff ++ c.len16

/-- Word 1 of a two-word X command. -/
def encX1 (c : XCmd) : BitVec 128 := c.key ++ c.len40 ++ c.flags

/-- The words of an instruction: a control word; a V command's head and regions; an M word; an X
command's words as 128-bit values. Events have no words. -/
inductive Words where
  | control (w : W64)
  | v (ws : List W64)
  | m (w : W64)
  | x (ws : List (BitVec 128))
  | none
deriving DecidableEq, Repr

def encode : Instr → Words
  | .add h d a b => .control (mkA h 0x00 d a b 0)
  | .sub h d a b => .control (mkA h 0x01 d a b 0)
  | .mul h d a b => .control (mkA h 0x02 d a b 0)
  | .mulhS h d a b => .control (mkA h 0x03 d a b 0)
  | .mulhZ h d a b => .control (mkA h 0x04 d a b 0)
  | .divS h d a b => .control (mkA h 0x05 d a b 0)
  | .divZ h d a b => .control (mkA h 0x06 d a b 0)
  | .remS h d a b => .control (mkA h 0x07 d a b 0)
  | .remZ h d a b => .control (mkA h 0x08 d a b 0)
  | .and h d a b => .control (mkA h 0x09 d a b 0)
  | .or h d a b => .control (mkA h 0x0A d a b 0)
  | .xor h d a b => .control (mkA h 0x0B d a b 0)
  | .andn h d a b => .control (mkA h 0x0C d a b 0)
  | .shl h d a b => .control (mkA h 0x0D d a b 0)
  | .shr h d a b => .control (mkA h 0x0E d a b 0)
  | .sra h d a b => .control (mkA h 0x0F d a b 0)
  | .rol h d a b => .control (mkA h 0x10 d a b 0)
  | .minS h d a b => .control (mkA h 0x11 d a b 0)
  | .minZ h d a b => .control (mkA h 0x12 d a b 0)
  | .maxS h d a b => .control (mkA h 0x13 d a b 0)
  | .maxZ h d a b => .control (mkA h 0x14 d a b 0)
  | .sel h d a b inv n => .control (mkA h 0x15 d a b (BitVec.ofBool inv ++ 0#5 ++ n))
  | .pand h d a b => .control (mkA h 0x16 (pf d) (pf a) (pf b) 0)
  | .por h d a b => .control (mkA h 0x17 (pf d) (pf a) (pf b) 0)
  | .pnot h d a => .control (mkA h 0x18 (pf d) (pf a) 0 0)
  | .bswapH h d a => .control (mkA h 0x19 d a 0 0)
  | .bswapW h d a => .control (mkA h 0x1A d a 0 0)
  | .bswapD h d a => .control (mkA h 0x1B d a 0 0)
  | .clzB h d a => .control (mkA h 0x24 d a 0 0)
  | .clzH h d a => .control (mkA h 0x25 d a 0 0)
  | .clzW h d a => .control (mkA h 0x26 d a 0 0)
  | .clzD h d a => .control (mkA h 0x27 d a 0 0)
  | .ffsB h d a => .control (mkA h 0x28 d a 0 0)
  | .ffsH h d a => .control (mkA h 0x29 d a 0 0)
  | .ffsW h d a => .control (mkA h 0x2A d a 0 0)
  | .ffsD h d a => .control (mkA h 0x2B d a 0 0)
  | .popB h d a => .control (mkA h 0x2C d a 0 0)
  | .popH h d a => .control (mkA h 0x2D d a 0 0)
  | .popW h d a => .control (mkA h 0x2E d a 0 0)
  | .popD h d a => .control (mkA h 0x2F d a 0 0)
  | .fclassS h d a => .control (mkA h 0x36 d a 0 0)
  | .fclassD h d a => .control (mkA h 0x37 d a 0 0)
  | .cmpEq h d a b => .control (mkA h 0x1C (pf d) a b 0)
  | .cmpNe h d a b => .control (mkA h 0x1D (pf d) a b 0)
  | .cmpLt h d a b => .control (mkA h 0x1E (pf d) a b 0)
  | .cmpGe h d a b => .control (mkA h 0x1F (pf d) a b 0)
  | .cmpLtz h d a b => .control (mkA h 0x20 (pf d) a b 0)
  | .cmpGez h d a b => .control (mkA h 0x21 (pf d) a b 0)
  | .lea h d a b sh => .control (mkA h 0x22 d a b (0#7 ++ sh))
  | .fminS h d a b m => .control (mkA h 0x30 d a b (fmodsCode m))
  | .fminD h d a b m => .control (mkA h 0x31 d a b (fmodsCode m))
  | .fmaxS h d a b m => .control (mkA h 0x32 d a b (fmodsCode m))
  | .fmaxD h d a b m => .control (mkA h 0x33 d a b (fmodsCode m))
  | .fcmpS h cc d a b => .control (mkA h 0x34 (cc ++ d) a b 0)
  | .fcmpD h cc d a b => .control (mkA h 0x35 (cc ++ d) a b 0)
  | .fcvt h rm d a k => .control (mkA h (0x38 + rmCode rm) d a k 0)
  | .faddS h rm d a b m => .control (mkA h (0x3D + rmCode rm) d a b (fmodsCode m))
  | .faddD h rm d a b m => .control (mkA h (0x42 + rmCode rm) d a b (fmodsCode m))
  | .fsubS h rm d a b m => .control (mkA h (0x47 + rmCode rm) d a b (fmodsCode m))
  | .fsubD h rm d a b m => .control (mkA h (0x4C + rmCode rm) d a b (fmodsCode m))
  | .fmulS h rm d a b m => .control (mkA h (0x51 + rmCode rm) d a b (fmodsCode m))
  | .fmulD h rm d a b m => .control (mkA h (0x56 + rmCode rm) d a b (fmodsCode m))
  | .fdivS h rm d a b m => .control (mkA h (0x5B + rmCode rm) d a b (fmodsCode m))
  | .fdivD h rm d a b m => .control (mkA h (0x60 + rmCode rm) d a b (fmodsCode m))
  | .ffmaS h rm d a b m => .control (mkA h (0x65 + rmCode rm) d a b (fmodsCode m))
  | .ffmaD h rm d a b m => .control (mkA h (0x6A + rmCode rm) d a b (fmodsCode m))
  | .fsqrtS h rm d a m => .control (mkA h (0x6F + rmCode rm) d a 0 (fmodsCode m))
  | .fsqrtD h rm d a m => .control (mkA h (0x74 + rmCode rm) d a 0 (fmodsCode m))
  | .addi h d a imm => .control (mkI h 0x00 d a imm)
  | .andi h d a imm => .control (mkI h 0x01 d a imm)
  | .ori h d a imm => .control (mkI h 0x02 d a imm)
  | .xori h d a imm => .control (mkI h 0x03 d a imm)
  | .shli h d a n => .control (mkI h 0x04 d a (0#14 ++ n))
  | .shri h d a n => .control (mkI h 0x05 d a (0#14 ++ n))
  | .srai h d a n => .control (mkI h 0x06 d a (0#14 ++ n))
  | .extS h d a lm1 pos => .control (mkI h 0x07 d a (0#8 ++ lm1 ++ pos))
  | .extZ h d a lm1 pos => .control (mkI h 0x08 d a (0#8 ++ lm1 ++ pos))
  | .ins h d a lm1 pos => .control (mkI h 0x09 d a (0#8 ++ lm1 ++ pos))
  | .li h d imm => .control (mkL h d imm)
  | .nop h => .control (mkS h 0x00 0 0 0)
  | .gsr h d sp => .control (mkS h 0x01 d 0 sp)
  | .ssr h a sp => .control (mkS h 0x02 0 a sp)
  | .raise h a => .control (mkS h 0x03 0 a 0)
  | .barC h n => .control (mkS h 0x10 0 0 (0#8 ++ n))
  | .barL h => .control (mkS h 0x11 0 0 0)
  | .step h => .control (mkS h 0x12 0 0 0)
  | .itemNext h d p => .control (mkS h 0x13 d 0 (0#9 ++ p))
  | .estAdd h a => .control (mkS h 0x14 0 a 0)
  | .estFlush h => .control (mkS h 0x15 0 0 0)
  | .estState h d sel => .control (mkS h 0x16 d 0 sel)
  | .yield h => .control (mkS h 0x17 0 0 0)
  | .ldBs h d o => .control (mkM h 0x00 d o.a o.c o.sc o.off)
  | .ldBz h d o => .control (mkM h 0x01 d o.a o.c o.sc o.off)
  | .ldHs h d o => .control (mkM h 0x02 d o.a o.c o.sc o.off)
  | .ldHz h d o => .control (mkM h 0x03 d o.a o.c o.sc o.off)
  | .ldWs h d o => .control (mkM h 0x04 d o.a o.c o.sc o.off)
  | .ldWz h d o => .control (mkM h 0x05 d o.a o.c o.sc o.off)
  | .ldD h d o => .control (mkM h 0x06 d o.a o.c o.sc o.off)
  | .stB h d o => .control (mkM h 0x08 d o.a o.c o.sc o.off)
  | .stH h d o => .control (mkM h 0x09 d o.a o.c o.sc o.off)
  | .stW h d o => .control (mkM h 0x0A d o.a o.c o.sc o.off)
  | .stD h d o => .control (mkM h 0x0B d o.a o.c o.sc o.off)
  | .ldc h d o => .control (mkM h 0x07 (cf d) o.a o.c o.sc o.off)
  | .stc h d o => .control (mkM h 0x0C (cf d) o.a o.c o.sc o.off)
  | .mark h o => .control (mkM h 0x0D 0 o.a o.c o.sc o.off)
  | .amoAdd h s d a c off => .control (mkM h (BitVec.extractLsb' 2 5 (0x10 : BitVec 7) ++ s) d a c 0 off)
  | .amoAnd h s d a c off => .control (mkM h (BitVec.extractLsb' 2 5 (0x14 : BitVec 7) ++ s) d a c 0 off)
  | .amoOr h s d a c off => .control (mkM h (BitVec.extractLsb' 2 5 (0x18 : BitVec 7) ++ s) d a c 0 off)
  | .amoXor h s d a c off => .control (mkM h (BitVec.extractLsb' 2 5 (0x1C : BitVec 7) ++ s) d a c 0 off)
  | .amoMin h s d a c off => .control (mkM h (BitVec.extractLsb' 2 5 (0x20 : BitVec 7) ++ s) d a c 0 off)
  | .amoMax h s d a c off => .control (mkM h (BitVec.extractLsb' 2 5 (0x24 : BitVec 7) ++ s) d a c 0 off)
  | .amoSwap h s d a c off => .control (mkM h (BitVec.extractLsb' 2 5 (0x28 : BitVec 7) ++ s) d a c 0 off)
  | .cas h s d a c off => .control (mkM h (BitVec.extractLsb' 2 5 (0x2C : BitVec 7) ++ s) d a c 0 off)
  | .fence h s => .control (mkM h (BitVec.extractLsb' 2 5 (0x30 : BitVec 7) ++ s) 0 0 0 0 0)
  | .acq h s => .control (mkM h (BitVec.extractLsb' 2 5 (0x34 : BitVec 7) ++ s) 0 0 0 0 0)
  | .rel h s => .control (mkM h (BitVec.extractLsb' 2 5 (0x38 : BitVec 7) ++ s) 0 0 0 0 0)
  | .mwait h d a c off => .control (mkM h 0x3C d a c 0 off)
  | .cfl h o => .control (mkM h 0x3D 0 o.a o.c o.sc o.off)
  | .cinv h o => .control (mkM h 0x3E 0 o.a o.c o.sc o.off)
  | .capBnd h d a c => .control (mkM h 0x40 (cf d) a c 0 0)
  | .capPrm h d a c => .control (mkM h 0x41 (cf d) a c 0 0)
  | .capOff h d o => .control (mkM h 0x42 (cf d) o.a o.c o.sc o.off)
  | .capGet h d c sel => .control (mkM h 0x43 d 0 c 0 (0#11 ++ sel))
  | .capTst h d a c => .control (mkM h 0x44 (pf d) a c 0 0)
  | .capClr h d c => .control (mkM h 0x45 (cf d) 0 c 0 0)
  | .bufDecl h d a id => .control (mkM h 0x48 d a 0 0 (0#8 ++ id))
  | .bufSet h id st => .control (mkM h 0x49 0 0 0 0 (0#6 ++ st ++ id))
  | .bufGet h d id => .control (mkM h 0x4A d 0 0 0 (0#8 ++ id))
  | .enq h e a b => .control (mkE h 0x00 (engCode e ++ a) b 0 0)
  | .sdSet h k n b => .control (mkE h 0x01 (k ++ n) b 0 0)
  | .sdGet h k n b => .control (mkE h 0x02 (k ++ n) b 0 0)
  | .semSig h n => .control (mkE h 0x03 0 0 0 (0#1 ++ n))
  | .semWait h n => .control (mkE h 0x04 0 0 (0#1 ++ n) 0)
  | .semGet h a n => .control (mkE h 0x05 (0#2 ++ a) 0 (0#1 ++ n) 0)
  | .seqWait h e a => .control (mkE h 0x06 (engCode e ++ a) 0 0 0)
  | .seqGet h e a => .control (mkE h 0x07 (engCode e ++ a) 0 0 0)
  | .condPop h a => .control (mkE h 0x08 (0#2 ++ a) 0 0 0)
  | .xfence h e => .control (mkE h 0x09 (engCode e ++ 0#5) 0 0 0)
  | .mcfg h lvl b => .control (mkE h 0x10 (lvl ++ 0#4) b 0 0)
  | .mgo h => .control (mkE h 0x11 0 0 0 0)
  | .mkey h n => .control (mkE h 0x12 (0#3 ++ n) 0 0 0)
  | .mstat h a sel => .control (mkE h 0x13 (0#2 ++ a) sel 0 0)
  | .trap h a code => .control (mkS h 0x20 0 a (0#4 ++ code))
  | .tret h => .control (mkS h 0x21 0 0 0)
  | .kcall h svc => .control (mkS h 0x22 0 0 svc)
  | .tlbiPage h d a pod => .control (mkS h 0x23 d a (0#9 ++ BitVec.ofBool pod ++ 0#2))
  | .tlbiAsid h d pod => .control (mkS h 0x23 d 0 (0#9 ++ BitVec.ofBool pod ++ 1#2))
  | .tlbiAll h pod => .control (mkS h 0x23 0 0 (0#9 ++ BitVec.ofBool pod ++ 2#2))
  | .tlbsync h => .control (mkS h 0x24 0 0 0)
  | .ctxSave h a => .control (mkS h 0x25 0 a 0)
  | .ctxLoad h a => .control (mkS h 0x26 0 a 0)
  | .safe h => .control (mkS h 0x27 0 0 0)
  | .brk h tag => .control (mkS h 0x28 0 0 tag)
  | .idle h => .control (mkS h 0x29 0 0 0)
  | .unassignedControlOpcode w => .control w
  | .vAdd c => .v (encV 0x01 c)
  | .vSub c => .v (encV 0x02 c)
  | .vMul c => .v (encV 0x03 c)
  | .vFma c => .v (encV 0x04 c)
  | .vMin c => .v (encV 0x05 c)
  | .vMax c => .v (encV 0x06 c)
  | .vDiv c => .v (encV 0x07 c)
  | .vSqrt c => .v (encV 0x08 c)
  | .vRsq c => .v (encV 0x09 c)
  | .vCmp c => .v (encV 0x10 c)
  | .vSel c => .v (encV 0x11 c)
  | .vAnd c => .v (encV 0x18 c)
  | .vOr c => .v (encV 0x19 c)
  | .vXor c => .v (encV 0x1A c)
  | .vNot c => .v (encV 0x1B c)
  | .vShl c => .v (encV 0x1C c)
  | .vShr c => .v (encV 0x1D c)
  | .vSra c => .v (encV 0x1E c)
  | .vClz c => .v (encV 0x20 c)
  | .vFfs c => .v (encV 0x21 c)
  | .vPop c => .v (encV 0x22 c)
  | .vCvt c => .v (encV 0x28 c)
  | .vQblk c => .v (encV 0x29 c)
  | .vDq c => .v (encV 0x2A c)
  | .vTolog c => .v (encV 0x30 c)
  | .vFromlog c => .v (encV 0x31 c)
  | .vLmul c => .v (encV 0x32 c)
  | .vLdiv c => .v (encV 0x33 c)
  | .vLpow c => .v (encV 0x34 c)
  | .vLsqrt c => .v (encV 0x35 c)
  | .vLadd c => .v (encV 0x36 c)
  | .vAct c => .v (encV 0x38 c)
  | .vRed c => .v (encV 0x40 c)
  | .vScan c => .v (encV 0x41 c)
  | .vFill c => .v (encV 0x48 c)
  | .vIdx c => .v (encV 0x49 c)
  | .vPerm c => .v (encV 0x4A c)
  | .vMov c => .v (encV 0x4B c)
  | .vSpush c => .v (encV 0x50 c)
  | .vSpop c => .v (encV 0x51 c)
  | .vEst c => .v (encV 0x58 c)
  | .vRnd c => .v (encV 0x59 c)
  | .mma c => .m (encM 1 false c)
  | .mmaDc c => .m (encM 1 true c)
  | .accZero c => .m (encM 2 false c)
  | .accLd c => .m (encM 3 false c)
  | .accOut c => .m (encM 4 false c)
  | .xCopy c => .x [encX0 0x01 c]
  | .xFill c => .x [encX0 0x02 c]
  | .xGather c => .x [encX0 0x03 c]
  | .xScatter c => .x [encX0 0x04 c]
  | .xSend c => .x [encX0 0x05 c]
  | .xFence c => .x [encX0 0x06 c]
  | .xWait c => .x [encX0 0x07 c]
  | .xPget c => .x [encX0 0x81 c, encX1 c]
  | .xPput c => .x [encX0 0x82 c, encX1 c]
  | .xPatom c => .x [encX0 0x83 c, encX1 c]
  | .xRcopy c => .x [encX0 0x85 c, encX1 c]
  | .xRst c => .x [encX0 0x86 c, encX1 c]
  | .xSfence c => .x [encX0 0x89 c, encX1 c]
  | .xPref c => .x [encX0 0x8A c, encX1 c]
  | .xLeaseRd c => .x [encX0 0x84 c, encX1 c]
  | .xLeaseWr c => .x [encX0 0x84 c, encX1 c]
  | .xLeaseRenew c => .x [encX0 0x84 c, encX1 c]
  | .xLeaseRel c => .x [encX0 0x84 c, encX1 c]
  | .xCollBcast c => .x [encX0 0x87 c, encX1 c]
  | .xCollGather c => .x [encX0 0x87 c, encX1 c]
  | .xCollRscat c => .x [encX0 0x87 c, encX1 c]
  | .xCollAllred c => .x [encX0 0x87 c, encX1 c]
  | .xCircRes c => .x [encX0 0x88 c, encX1 c]
  | .xCircRel c => .x [encX0 0x88 c, encX1 c]
  | .unassignedEngineOpcode .v w => .v (w.extractLsb' 0 64 :: List.replicate (w.extractLsb' 38 2).toNat 0)
  | .unassignedEngineOpcode .m w => .m (w.extractLsb' 0 64)
  | .unassignedEngineOpcode .x w => .x (w :: List.replicate (xWords w - 1) 0)
  | _ => .none

/-- What the decoder reads from the words an instruction is encoded in. -/
def decodeWords : Words → Except DecodeError Instr
  | .control w => decode w
  | .v ws => decodeV ws
  | .m w => decodeMx w
  | .x ws => decodeX ws
  | .none => .error .moreWords

/-- The instruction that the decoder reads from an instruction whose bits are `w`, numbered from the
first word on: 64 bits are a control word (R45); 128 or more bits are an X command, whose words are
128 bits (R206). V and M commands are words of their own streams and are not told apart from a
control word by their bits (assumption log 6). -/
def decodeTableWord (nbits w : Nat) : Option Instr :=
  if nbits ≤ 64 then
    match decode (BitVec.ofNat 64 w) with
    | .ok i => some i
    | .error _ => none
  else
    match decodeX [BitVec.ofNat 128 w, BitVec.ofNat 128 (w >>> 128)] with
    | .ok i => some i
    | .error _ => none

end Sys2Proof
end

