-- ==== Sys2Proof/Machine/Crypto.lean ====
section
/-! DEFINITION. The published algorithms that the spec names: SHA-384 (R350), AES-256 with GCM (R157)
and AES key wrap (R454), written from their standards (assumption log 7: PRESUMED). -/

namespace Sys2Proof.Machine

/-! ### Bytes and numbers -/

/-- A number as n bytes, least significant first (R7). -/
def leBytes : Nat → Nat → List Byte
  | 0, _ => []
  | n + 1, x => BitVec.ofNat 8 x :: leBytes n (x / 256)

/-- The number that bytes hold, least significant first (R7). -/
def leNat : List Byte → Nat
  | [] => 0
  | b :: bs => b.toNat + 256 * leNat bs

/-- A number as n bytes, most significant first. -/
def beBytes (n x : Nat) : List Byte := (leBytes n x).reverse

def beNat (bs : List Byte) : Nat := leNat bs.reverse

/-- Bytes in groups of n. -/
def chunksGo (n : Nat) : Nat → List Byte → List (List Byte)
  | 0, _ => []
  | fuel + 1, bs => if bs.isEmpty then [] else bs.take n :: chunksGo n fuel (bs.drop n)

def chunks (n : Nat) (bs : List Byte) : List (List Byte) := chunksGo n bs.length bs

/-! ### SHA-384 -/

/-- The round constants: 64 fraction bits of the cube roots of the first 80 primes. -/
def shaK1 : List W64 := [
  0x428A2F98D728AE22, 0x7137449123EF65CD, 0xB5C0FBCFEC4D3B2F, 0xE9B5DBA58189DBBC,
  0x3956C25BF348B538, 0x59F111F1B605D019, 0x923F82A4AF194F9B, 0xAB1C5ED5DA6D8118,
  0xD807AA98A3030242, 0x12835B0145706FBE, 0x243185BE4EE4B28C, 0x550C7DC3D5FFB4E2,
  0x72BE5D74F27B896F, 0x80DEB1FE3B1696B1, 0x9BDC06A725C71235, 0xC19BF174CF692694,
  0xE49B69C19EF14AD2, 0xEFBE4786384F25E3, 0x0FC19DC68B8CD5B5, 0x240CA1CC77AC9C65]
def shaK2 : List W64 := [
  0x2DE92C6F592B0275, 0x4A7484AA6EA6E483, 0x5CB0A9DCBD41FBD4, 0x76F988DA831153B5,
  0x983E5152EE66DFAB, 0xA831C66D2DB43210, 0xB00327C898FB213F, 0xBF597FC7BEEF0EE4,
  0xC6E00BF33DA88FC2, 0xD5A79147930AA725, 0x06CA6351E003826F, 0x142929670A0E6E70,
  0x27B70A8546D22FFC, 0x2E1B21385C26C926, 0x4D2C6DFC5AC42AED, 0x53380D139D95B3DF,
  0x650A73548BAF63DE, 0x766A0ABB3C77B2A8, 0x81C2C92E47EDAEE6, 0x92722C851482353B]
def shaK3 : List W64 := [
  0xA2BFE8A14CF10364, 0xA81A664BBC423001, 0xC24B8B70D0F89791, 0xC76C51A30654BE30,
  0xD192E819D6EF5218, 0xD69906245565A910, 0xF40E35855771202A, 0x106AA07032BBD1B8,
  0x19A4C116B8D2D0C8, 0x1E376C085141AB53, 0x2748774CDF8EEB99, 0x34B0BCB5E19B48A8,
  0x391C0CB3C5C95A63, 0x4ED8AA4AE3418ACB, 0x5B9CCA4F7763E373, 0x682E6FF3D6B2B8A3,
  0x748F82EE5DEFB2FC, 0x78A5636F43172F60, 0x84C87814A1F0AB72, 0x8CC702081A6439EC]
def shaK4 : List W64 := [
  0x90BEFFFA23631E28, 0xA4506CEBDE82BDE9, 0xBEF9A3F7B2C67915, 0xC67178F2E372532B,
  0xCA273ECEEA26619C, 0xD186B8C721C0C207, 0xEADA7DD6CDE0EB1E, 0xF57D4F7FEE6ED178,
  0x06F067AA72176FBA, 0x0A637DC5A2C898A6, 0x113F9804BEF90DAE, 0x1B710B35131C471B,
  0x28DB77F523047D84, 0x32CAAB7B40C72493, 0x3C9EBE0A15C9BEBC, 0x431D67C49C100D4C,
  0x4CC5D4BECB3E42B6, 0x597F299CFC657E2A, 0x5FCB6FAB3AD6FAEC, 0x6C44198C4A475817]
def shaK : List W64 := shaK1 ++ shaK2 ++ shaK3 ++ shaK4

/-- The initial hash: 64 fraction bits of the square roots of the ninth to sixteenth primes. -/
def shaInit : List W64 := [
  0xCBBB9D5DC1059ED8, 0x629A292A367CD507, 0x9159015A3070DD17, 0x152FECD8F70E5939,
  0x67332667FFC00B31, 0x8EB44A8768581511, 0xDB0C2E0D64F98FA7, 0x47B5481DBEFA4FA4]

def shaSmall0 (x : W64) : W64 := x.rotateRight 1 ^^^ x.rotateRight 8 ^^^ (x >>> 7)
def shaSmall1 (x : W64) : W64 := x.rotateRight 19 ^^^ x.rotateRight 61 ^^^ (x >>> 6)
def shaBig0 (x : W64) : W64 := x.rotateRight 28 ^^^ x.rotateRight 34 ^^^ x.rotateRight 39
def shaBig1 (x : W64) : W64 := x.rotateRight 14 ^^^ x.rotateRight 18 ^^^ x.rotateRight 41

/-- The message schedule, newest word first. -/
def shaExtend : Nat → List W64 → List W64
  | 0, w => w
  | n + 1, w =>
    shaExtend n ((shaSmall1 (w.getD 1 0) + w.getD 6 0 + shaSmall0 (w.getD 14 0) + w.getD 15 0) :: w)

/-- One block of 128 bytes. -/
def shaRounds : List (W64 × W64) → W64 → W64 → W64 → W64 → W64 → W64 → W64 → W64 → List W64
  | [], a, b, c, d, e, f, g, h => [a, b, c, d, e, f, g, h]
  | (k, w) :: r, a, b, c, d, e, f, g, h =>
    let t1 := h + shaBig1 e + ((e &&& f) ^^^ (~~~e &&& g)) + k + w
    let t2 := shaBig0 a + ((a &&& b) ^^^ (a &&& c) ^^^ (b &&& c))
    shaRounds r (t1 + t2) a b c (d + t1) e f g

def shaBlock (h : List W64) (blk : List Byte) : List W64 :=
  let w0 := (chunks 8 blk).map (fun b => BitVec.ofNat 64 (beNat b))
  let w := (shaExtend 64 w0.reverse).reverse
  let o := shaRounds (shaK.zip w) (h.getD 0 0) (h.getD 1 0) (h.getD 2 0) (h.getD 3 0) (h.getD 4 0) (h.getD 5 0) (h.getD 6 0) (h.getD 7 0)
  h.zipWith (· + ·) o

/-- SHA-384 of a byte string (FIPS 180-4): 48 bytes. -/
def sha384 (m : List Byte) : List Byte :=
  let pad := (239 - m.length % 128) % 128
  let msg := m ++ [0x80] ++ List.replicate pad 0 ++ beBytes 16 (8 * m.length)
  (((chunks 128 msg).foldl shaBlock shaInit).take 6).flatMap (fun w => beBytes 8 w.toNat)

/-! ### AES-256 -/

/-- Multiplication by x in GF(2^8). -/
def gfX (a : Byte) : Byte := (a <<< 1) ^^^ (if a.getLsbD 7 then 0x1B else 0)

def gfMulGo : Nat → Byte → Byte → Byte
  | 0, _, _ => 0
  | n + 1, a, b => (if b.getLsbD 0 then a else 0) ^^^ gfMulGo n (gfX a) (b >>> 1)

def gfMul (a b : Byte) : Byte := gfMulGo 8 a b

def gfPow (a : Byte) : Nat → Byte
  | 0 => 1
  | n + 1 => gfMul a (gfPow a n)

/-- The substitution box: the inverse in GF(2^8), then the affine map. -/
def aesSub (a : Byte) : Byte :=
  let i := gfPow a 254
  i ^^^ i.rotateLeft 1 ^^^ i.rotateLeft 2 ^^^ i.rotateLeft 3 ^^^ i.rotateLeft 4 ^^^ 0x63

def xorBytes (a b : List Byte) : List Byte := a.zipWith (· ^^^ ·) b

/-- The words of the expanded key, newest first; i counts them from 8. -/
def aesExpand : Nat → Nat → Byte → List (List Byte) → List (List Byte)
  | 0, _, _, ws => ws
  | n + 1, i, rcon, ws =>
    let prev := ws.getD 0 []
    let back := ws.getD 7 []
    if i % 8 = 0 then
      let t := (prev.drop 1 ++ prev.take 1).map aesSub
      aesExpand n (i + 1) (gfX rcon) (xorBytes back (xorBytes t [rcon, 0, 0, 0]) :: ws)
    else if i % 8 = 4 then aesExpand n (i + 1) rcon (xorBytes back (prev.map aesSub) :: ws)
    else aesExpand n (i + 1) rcon (xorBytes back prev :: ws)

/-- The 15 round keys of a 32-byte key. -/
def aesKeys (key : List Byte) : List (List Byte) :=
  chunks 16 ((aesExpand 52 8 1 (chunks 4 key).reverse).reverse.flatten)

def aesShift (s : List Byte) : List Byte :=
  (List.range 16).map (fun i => s.getD ((i + 4 * (i % 4)) % 16) 0)

def aesMixCol (c : List Byte) : List Byte :=
  (List.range 4).map (fun i =>
    gfX (c.getD i 0) ^^^ gfX (c.getD ((i + 1) % 4) 0) ^^^ c.getD ((i + 1) % 4) 0 ^^^ c.getD ((i + 2) % 4) 0 ^^^ c.getD ((i + 3) % 4) 0)

/-- The rounds after the first key addition. -/
def aesRounds : List (List Byte) → List Byte → List Byte
  | [], s => s
  | [k], s => xorBytes (aesShift (s.map aesSub)) k
  | k :: k2 :: ks, s => aesRounds (k2 :: ks) (xorBytes ((chunks 4 (aesShift (s.map aesSub))).flatMap aesMixCol) k)

/-- AES-256 of a block (FIPS 197). -/
def aesEncrypt (keys : List (List Byte)) (blk : List Byte) : List Byte :=
  aesRounds (keys.drop 1) (xorBytes blk (keys.getD 0 []))

/-- The inverse substitution: the one byte that maps to b. -/
def aesUnsub (b : Byte) : Byte := gfPow (b.rotateLeft 1 ^^^ b.rotateLeft 3 ^^^ b.rotateLeft 6 ^^^ 0x05) 254

def aesUnshift (s : List Byte) : List Byte :=
  (List.range 16).map (fun i => s.getD ((i + 12 * (i % 4)) % 16) 0)

def aesUnmixCol (c : List Byte) : List Byte :=
  (List.range 4).map (fun i =>
    gfMul 14 (c.getD i 0) ^^^ gfMul 11 (c.getD ((i + 1) % 4) 0) ^^^ gfMul 13 (c.getD ((i + 2) % 4) 0) ^^^ gfMul 9 (c.getD ((i + 3) % 4) 0))

/-- The inverse rounds, round keys last first. -/
def aesUnrounds : List (List Byte) → List Byte → List Byte
  | [], s => s
  | [k], s => xorBytes ((aesUnshift s).map aesUnsub) k
  | k :: k2 :: ks, s => aesUnrounds (k2 :: ks) ((chunks 4 (xorBytes ((aesUnshift s).map aesUnsub) k)).flatMap aesUnmixCol)

/-- The inverse of AES-256. -/
def aesDecrypt (keys : List (List Byte)) (blk : List Byte) : List Byte :=
  let r := keys.reverse
  aesUnrounds (r.drop 1) (xorBytes blk (r.getD 0 []))

/-! ### GCM (SP 800-38D) -/

def ghMulGo : Nat → BitVec 128 → BitVec 128 → BitVec 128 → BitVec 128
  | 0, _, _, z => z
  | n + 1, x, v, z =>
    let z := if x.getLsbD n then z ^^^ v else z
    let v' := (v >>> 1) ^^^ (if v.getLsbD 0 then 0xE1000000000000000000000000000000 else 0)
    ghMulGo n x v' z

/-- The product in GF(2^128), the most significant bit of the block first. -/
def ghMul (x y : BitVec 128) : BitVec 128 := ghMulGo 128 x y 0

def blockPad (bs : List Byte) : List Byte := bs ++ List.replicate ((16 - bs.length % 16) % 16) 0

def ghash (h : BitVec 128) (bs : List Byte) : BitVec 128 :=
  (chunks 16 bs).foldl (fun y b => ghMul (y ^^^ BitVec.ofNat 128 (beNat b)) h) 0

/-- The key stream and data of GCM from counter value c on. -/
def gcmStream (keys : List (List Byte)) (iv : List Byte) : Nat → List (List Byte) → List Byte
  | _, [] => []
  | c, b :: bs => xorBytes b (aesEncrypt keys (iv ++ beBytes 4 c)) ++ gcmStream keys iv (c + 1) bs

/-- The 128-bit tag over associated data and ciphertext. -/
def gcmTag (keys : List (List Byte)) (iv aad ct : List Byte) : List Byte :=
  let h := BitVec.ofNat 128 (beNat (aesEncrypt keys (List.replicate 16 0)))
  let g := ghash h (blockPad aad ++ blockPad ct ++ beBytes 8 (8 * aad.length) ++ beBytes 8 (8 * ct.length))
  xorBytes (beBytes 16 g.toNat) (aesEncrypt keys (iv ++ beBytes 4 1))

/-- GCM under a 32-byte key and a 12-byte IV: the other text and the tag over the ciphertext. -/
def gcmDecrypt (key iv aad ct : List Byte) : List Byte × List Byte :=
  let keys := aesKeys key
  (gcmStream keys iv 2 (chunks 16 ct), gcmTag keys iv aad ct)

def gcmEncrypt (key iv aad pt : List Byte) : List Byte × List Byte :=
  let keys := aesKeys key
  let ct := gcmStream keys iv 2 (chunks 16 pt)
  (ct, gcmTag keys iv aad ct)

/-! ### Key wrap (SP 800-38F) -/

/-- One unwrapping step: t counts down, the registers are rotated. -/
def unwrapStep (keys : List (List Byte)) : Nat → List Byte → List (List Byte) → List Byte × List (List Byte)
  | 0, a, r => (a, r)
  | t + 1, a, r =>
    let n := r.length
    let i := t % n
    let b := aesDecrypt keys (xorBytes a (beBytes 8 (t + 1)) ++ r.getD i [])
    unwrapStep keys t (b.take 8) (r.set i (b.drop 8))

/-- A wrapped key opened under a key-wrapping key: none where the check value is wrong. -/
def keyUnwrap (kek wrapped : List Byte) : Option (List Byte) :=
  let keys := aesKeys kek
  let rs := chunks 8 (wrapped.drop 8)
  let (a, r) := unwrapStep keys (6 * rs.length) (wrapped.take 8) rs
  if a = List.replicate 8 0xA6 then some r.flatten else none

end Sys2Proof.Machine
end

