-- ==== Sys2Proof/Machine/Mem.lean ====
section
/-! DEFINITION. Memories and who holds what: sparse bytes in canonical form, the near space of a tile
with its tags and scrub marks (R143, R147), the homes, the memory behind them, the L1 copies and
their coherence (R138 to R141, R169 to R172), the forwarding of frame lines (R380). -/

namespace Sys2Proof.Machine

/-! ### Sparse bytes -/

/-- The byte listed at an address. -/
def Cells.get? : List Host.Cell → Nat → Option Byte
  | [], _ => none
  | (b, v) :: r, a => if b = a then some v else if a < b then none else Cells.get? r a

/-- A byte listed at an address, replacing the one that was. -/
def Cells.set : List Host.Cell → Nat → Byte → List Host.Cell
  | [], a, x => [(a, x)]
  | (b, v) :: r, a, x =>
    if b = a then (a, x) :: r else if a < b then (a, x) :: (b, v) :: r else (b, v) :: Cells.set r a x

/-- No byte listed at an address. -/
def Cells.erase : List Host.Cell → Nat → List Host.Cell
  | [], _ => []
  | (b, v) :: r, a => if b = a then r else if a < b then (b, v) :: r else (b, v) :: Cells.erase r a

/-- The byte at an address: 0 where nothing is listed (R143; log 2). -/
def Memory.read (m : Memory) (a : Nat) : Byte := (Cells.get? m a).getD 0

/-- A byte written; a zero byte is not listed. -/
def Memory.write (m : Memory) (a : Nat) (x : Byte) : Memory := if x = 0 then Cells.erase m a else Cells.set m a x

/-- n bytes from an address on. -/
def Memory.readN (m : Memory) (a : Nat) : Nat → List Byte
  | 0 => []
  | n + 1 => Memory.read m a :: Memory.readN m (a + 1) n

/-- Bytes written from an address on. -/
def Memory.writeN (m : Memory) (a : Nat) : List Byte → Memory
  | [] => m
  | b :: bs => Memory.writeN (Memory.write m a b) (a + 1) bs

/-- Bytes of an overlay set from an address on. -/
def Overlay.setN (m : Overlay) (a : Nat) : List Byte → Overlay
  | [] => m
  | b :: bs => Overlay.setN (Cells.set m a b) (a + 1) bs

/-- The cells of an overlay in a half-open range of addresses. -/
def Overlay.within (m : Overlay) (lo hi : Nat) : Overlay := m.filter (fun c => decide (lo ≤ c.1) && decide (c.1 < hi))
def Overlay.without (m : Overlay) (lo hi : Nat) : Overlay := m.filter (fun c => !(decide (lo ≤ c.1) && decide (c.1 < hi)))

/-! ### Sets of numbers and of ranges -/

/-- A number in a half-open range of the list. -/
def inRanges (rs : List (Nat × Nat)) (a : Nat) : Bool := rs.any (fun r => decide (r.1 ≤ a) && decide (a < r.2))

/-- Whether [lo, hi) meets a range of the list. -/
def meetsRanges (rs : List (Nat × Nat)) (lo hi : Nat) : Bool := rs.any (fun r => decide (r.1 < hi) && decide (lo < r.2))

/-- [lo, hi) taken out of every range of the list. -/
def cutRanges (rs : List (Nat × Nat)) (lo hi : Nat) : List (Nat × Nat) :=
  rs.flatMap (fun r =>
    if r.1 < hi ∧ lo < r.2 then
      (if r.1 < lo then [(r.1, lo)] else []) ++ (if hi < r.2 then [(hi, r.2)] else [])
    else [r])

/-- A number in, or out of, a list used as a set in rising order. -/
def setInsert : List Nat → Nat → List Nat
  | [], x => [x]
  | y :: ys, x => if x = y then y :: ys else if x < y then x :: y :: ys else y :: setInsert ys x

def setErase (ys : List Nat) (x : Nat) : List Nat := ys.filter (fun y => y != x)

/-- The 32-byte granules and 64-byte lines that [a, a + n) touches. -/
def granulesOf (a n : Nat) : List Nat := (List.range ((a + n - 1) / 32 + 1 - a / 32)).map (fun i => a / 32 + i)
def linesOf (a n : Nat) : List Nat := (List.range ((a + n - 1) / 64 + 1 - a / 64)).map (fun i => a / 64 + i)

/-! ### The near space of a tile (R133, R143, R147) -/

/-- First address of the lane window, the accumulator and the cluster memory (R133). -/
def laneBase : Nat := 0x200000
def accBase : Nat := 0x400000
def accEnd : Nat := 0x430000
def clusterBase : Nat := 0x1000000
def sliceSize : Nat := 0x100000

/-- A byte of a tile's near space. A scrub-pending line reads zero. -/
def Near.read (n : Near) (a : Nat) : Byte := if inRanges n.scrub a then 0 else Memory.read n.mem a

def Near.readN (n : Near) (a : Nat) : Nat → List Byte
  | 0 => []
  | k + 1 => n.read a :: n.readN (a + 1) k

/-- A write first fills the rest of a scrub-pending line with zero (R143). -/
def Near.settle (n : Near) (line : Nat) : Near :=
  if meetsRanges n.scrub (64 * line) (64 * line + 64) then
    { n with mem := Memory.writeN n.mem (64 * line) (List.replicate 64 0), scrub := cutRanges n.scrub (64 * line) (64 * line + 64),
             tags := n.tags.filter (fun g => g / 2 != line) }
  else n

/-- Bytes written to the near space: the tags of the granules they touch are cleared (R147). -/
def Near.writeN (n : Near) (a : Nat) (bs : List Byte) : Near :=
  let n := (linesOf a bs.length).foldl Near.settle n
  { n with mem := Memory.writeN n.mem a bs, tags := (granulesOf a bs.length).foldl setErase n.tags }

/-- The tag of a granule; clear in a scrub-pending line. -/
def Near.tag (n : Near) (a : Nat) : Bool := n.tags.contains (a / 32) && !inRanges n.scrub a

def Near.setTag (n : Near) (a : Nat) (t : Bool) : Near :=
  { n with tags := if t then setInsert n.tags (a / 32) else setErase n.tags (a / 32) }

/-- The kind of the accumulator block that holds an address becomes RAW (R297). -/
def Near.rawBlocks (n : Near) (a len : Nat) : Near :=
  { n with kinds := Vector.ofFn (fun i =>
      if accBase ≤ a ∧ a + len ≤ accEnd ∧ a < accBase + (i.val + 1) * 0x400 ∧ accBase + i.val * 0x400 < a + len
      then .raw else n.kinds[i]) }

/-- A control-core or V write: as writeN, and RAW in the accumulator. -/
def Near.store (n : Near) (a : Nat) (bs : List Byte) : Near :=
  let n := n.writeN a bs
  if accBase ≤ a ∧ a < accEnd then n.rawBlocks a bs.length else n

/-! ### Tiles of the package -/

/-- The tile in focus changed. -/
def State.updT (s : State) (f : Tile → Tile) : State := { s with tile := f s.tile }

/-- The package in focus changed. -/
def State.updP (s : State) (f : Package → Package) : State := { s with pkg := f s.pkg }

def State.mapCore (s : State) (f : Core → Core) : State := s.updT (fun t => { t with core := f t.core })
def State.mapSys (s : State) (f : Sys → Sys) : State := s.updT (fun t => { t with sys := f t.sys })
def State.mapPar (s : State) (f : Par → Par) : State := s.updT (fun t => { t with par := f t.par })
def State.mapOrd (s : State) (f : OrdSt → OrdSt) : State := s.updT (fun t => { t with ord := f t.ord })
def State.mapEng (s : State) (f : Engs → Engs) : State := s.updT (fun t => { t with eng := f t.eng })
def State.mapNear (s : State) (f : Near → Near) : State := s.updT (fun t => { t with near := f t.near })
def State.mapTask (s : State) (f : TaskCtx → TaskCtx) : State := s.updT (fun t => { t with task := f t.task })
def State.mapDisp (s : State) (f : Disp → Disp) : State := s.updT (fun t => { t with disp := f t.disp })

/-- The launch that a tile runs, or ran last. -/
def Tile.handle (t : Tile) : Nat := t.par.launch.toNat

/-- A tile of the package in focus, by physical number. -/
def State.tileAt (s : State) (phys : Nat) : Option Tile :=
  if s.tile.phys = phys then some s.tile else s.pkg.tiles.find? (fun t => t.phys == phys)

/-- A tile changed, wherever it stands. -/
def State.updTile (s : State) (phys : Nat) (f : Tile → Tile) : State :=
  if s.tile.phys = phys then s.updT f
  else s.updP (fun p => { p with tiles := p.tiles.map (fun t => if t.phys = phys then f t else t) })

/-- Every tile of the package. -/
def State.allTiles (s : State) : List Tile := s.tile :: s.pkg.tiles

/-- Every tile of the package changed. -/
def State.mapTiles (s : State) (f : Tile → Tile) : State :=
  { s with tile := f s.tile, pkg := { s.pkg with tiles := s.pkg.tiles.map f } }

/-- The next value of the counter that free values are applied to (log 1). -/
def State.draw (s : State) : State := { s with fresh := s.fresh + 1 }

/-! ### Homes (R135 to R141, R169 to R172) -/

/-- The parts of the physical address map (R135). -/
inductive PaKind where
  | hbmLocal | hbmPool | chip | regs | host | none
deriving DecidableEq, Repr, Inhabited

/-- A stack of HBM, 64 GiB of it, that has left the memory map (R464). -/
def Package.stackGone (p : Package) (pa : Nat) : Bool := p.life.gone.contains (pa / 0x1000000000)

def Package.paKind (p : Package) (pa : Nat) : PaKind :=
  if pa < 0x8000000000 ∧ p.stackGone pa then .none
  else if pa < p.bound then .hbmLocal
  else if pa < 0x8000000000 then .hbmPool
  else if 0x10000000000 ≤ pa ∧ pa < 0x10004000000 then .chip
  else if 0x20000000000 ≤ pa ∧ pa < 0x20040000000 then .regs
  else if 0x8000000000000 ≤ pa ∧ pa < 0x10000000000000 then .host
  else .none

/-- Memory that carries tags (R147). -/
def Package.tagged (p : Package) (pa : Nat) : Bool :=
  match p.paKind pa with
  | .hbmLocal | .chip => true
  | _ => false

/-- The home of a line: an L2 slice number (R137). -/
def homeSlice (pa : Nat) : Nat :=
  (List.range 7).foldl (fun g i => g ^^^ (pa / 2 ^ (6 * i + 6) % 64)) (pa / 2 ^ 48 % 16)

/-- The home value of a byte (R170): what L2 holds for the line, or the memory behind the home. -/
def Package.home (p : Package) (pa : Nat) : Byte :=
  if inRanges p.scrub pa then 0
  else match Cells.get? p.l2 pa with
    | some b => b
    | none => (Cells.get? p.l2kept pa).getD (Memory.read p.mem pa)

def Package.homeN (p : Package) (pa : Nat) : Nat → List Byte
  | 0 => []
  | n + 1 => p.home pa :: p.homeN (pa + 1) n

/-- The memory behind the home, which an uncached mapping reads (R172). -/
def Package.behindN (p : Package) (pa : Nat) : Nat → List Byte
  | 0 => []
  | n + 1 => (if inRanges p.scrub pa then 0 else Memory.read p.mem pa) :: p.behindN (pa + 1) n

/-- Nothing of a range of addresses in L2. -/
def Package.dropL2 (p : Package) (lo hi : Nat) : Package :=
  { p with l2 := Overlay.without p.l2 lo hi, l2kept := Overlay.without p.l2kept lo hi,
           l2lines := p.l2lines.filter (fun l => !(decide (lo ≤ 64 * l) && decide (64 * l < hi))) }

/-- A scrub-pending line filled with zero before a write (R143). -/
def Package.settle (p : Package) (line : Nat) : Package :=
  if meetsRanges p.scrub (64 * line) (64 * line + 64) then
    { p.dropL2 (64 * line) (64 * line + 64) with
      mem := Memory.writeN p.mem (64 * line) (List.replicate 64 0),
      scrub := cutRanges p.scrub (64 * line) (64 * line + 64), tags := p.tags.filter (fun g => g / 2 != line) }
  else p

def Package.clearTags (p : Package) (pa n : Nat) : Package := { p with tags := (granulesOf pa n).foldl setErase p.tags }

def Package.setTag (p : Package) (pa : Nat) (t : Bool) : Package :=
  { p with tags := if t then setInsert p.tags (pa / 32) else setErase p.tags (pa / 32) }

def Package.tag (p : Package) (pa : Nat) : Bool := p.tags.contains (pa / 32) && !inRanges p.scrub pa

/-- The L2 copy of a line reaches the memory behind the home (R172), and leaves L2. -/
def Package.l2Back (p : Package) (line : Nat) : Package :=
  let cs := Overlay.within p.l2 (64 * line) (64 * line + 64)
  { p.dropL2 (64 * line) (64 * line + 64) with mem := cs.foldl (fun m c => Memory.write m c.1 c.2) p.mem }

/-- Lines of one L2 slice: 2 MiB (R4, R132). -/
def sliceLines : Nat := 32768

/-- The line that the slice of a line gives up to take it in, if the slice is full: its oldest (log 106). -/
def Package.l2Victim (p : Package) (line : Nat) : Option Nat :=
  if p.l2lines.length < sliceLines then none
  else
    let mine := p.l2lines.filter (fun l => homeSlice (64 * l) == homeSlice (64 * line))
    if mine.length < sliceLines then none else mine.head?

/-- A line of HBM or host memory is held by its L2 slice from now on. -/
def Package.l2Fill (p : Package) (line : Nat) : Package :=
  match p.paKind (64 * line) with
  | .hbmLocal | .hbmPool | .host =>
    if p.l2lines.contains line then p
    else
      let p := match p.l2Victim line with
        | some v => p.l2Back v
        | none => p
      { p with l2lines := p.l2lines ++ [line] }
  | _ => p

/-- One byte put at its home: into L2 for HBM and host memory, into the bank for chip scratchpad. -/
def Package.homeCell (p : Package) (c : Host.Cell) : Package :=
  match p.paKind c.1 with
  | .chip => { p with mem := Memory.write p.mem c.1 c.2 }
  | _ => let p := p.l2Fill (c.1 / 64); { p with l2 := Cells.set p.l2 c.1 c.2 }

/-- Bytes put at their homes. -/
def Package.homeCells (p : Package) (cs : List Host.Cell) : Package := cs.foldl Package.homeCell p

/-- The resident frame that holds a physical address (R379). -/
def Package.frameAt (p : Package) (pa : Nat) : Option Frame :=
  p.frames.find? (fun f => decide (f.pa ≤ pa) && decide (pa < f.pa + 0x40000))

def pageSize : Nat := 0x40000

/-- A pool message that a word of the control core has sent; one of neither a word nor an X command carries a
forwarded line (R380). -/
def PoolMsg.byWord (m : PoolMsg) : Bool :=
  m.eng.isNone && (match m.op with
    | .put _ _ => false
    | _ => true)

/-- A changed frame line is forwarded to the pool with the token of the store (R380), for the launch that made it. -/
def Package.forward (p : Package) (src : Nat) (launch : Option Nat) (line : Nat) (tok : W64) : Package :=
  match p.frameAt (64 * line) with
  | some f =>
    let off := f.page * pageSize + (64 * line - f.pa)
    { p with poolCh := p.poolCh ++ [{ obj := f.obj, op := .put off (p.homeN (64 * line) 64), token := tok, src := src, pc := 0, eng := none, seq := 0, launch := launch }] }
  | none => p

/-- Dirty bytes of a line written to its home, and forwarded (R140, R170, R380). -/
def Package.writeBack (p : Package) (src : Nat) (l : L1Line) : Package :=
  if l.dirty.isEmpty then p else ((p.settle l.line).homeCells l.dirty).forward src l.launch l.line l.tok

/-- The line an L1 holds, if any. -/
def OrdSt.line (o : OrdSt) (line : Nat) : Option L1Line := o.l1.find? (fun l => l.line == line)

def OrdSt.setLine (o : OrdSt) (l : L1Line) : OrdSt := { o with l1 := o.l1.filter (fun x => x.line != l.line) ++ [l] }
def OrdSt.dropLine (o : OrdSt) (line : Nat) : OrdSt := { o with l1 := o.l1.filter (fun x => x.line != line) }

/-- The dirty bytes of a line among all L1s, and the token of their store (at most one L1 holds the
line in M or O). -/
def State.dirtyOf (s : State) (line : Nat) : Option (Nat × L1Line) :=
  (s.allTiles.findSome? (fun t => (t.ord.line line).bind (fun l => if l.st = .m ∨ l.st = .o then some (t.phys, l) else none))).or
    ((s.pkg.host.find? (fun l => l.line == line && (l.st == .m || l.st == .o))).map (fun l => (256, l)))

/-- The bytes that an owner's copy of a line holds dirty, and keeps. -/
def State.ownerDirty (s : State) (line : Nat) : Overlay := (s.dirtyOf line).elim [] (·.2.dirty)
def State.ownerKept (s : State) (line : Nat) : Overlay := (s.dirtyOf line).elim [] (·.2.kept)

/-- The coherent value of n bytes (R169), as an agent with these copies reads it: the owner's dirty bytes, over what its own
copy keeps, over the home value. -/
def State.coherentBy (s : State) (own : List L1Line) (pa : Nat) : Nat → List Byte
  | 0 => []
  | n + 1 =>
    (match (s.dirtyOf (pa / 64)).bind (fun o => Cells.get? o.2.dirty pa) with
     | some b => b
     | none => (((own.find? (fun l => l.line == pa / 64)).bind (fun l => Cells.get? l.kept pa)).getD (s.pkg.home pa))) :: s.coherentBy own (pa + 1) n

/-- The lines of a range of package memory that some L1 or the host holds. -/
def State.heldLines (s : State) (lo hi : Nat) : List Nat :=
  ((s.allTiles.flatMap (fun t => t.ord.l1.map (·.line))) ++ s.pkg.host.map (·.line)).eraseDups.filter (fun l =>
    decide (lo ≤ 64 * l + 63) && decide (64 * l < hi))

/-- The coherent value as the core in focus reads it. -/
def State.coherentN (s : State) (pa n : Nat) : List Byte := s.coherentBy s.tile.ord.l1 pa n

/-- The package as the cached reads of an Acorn core find it (R140): every owner's dirty bytes over the homes. It keeps no
copy of its own (log 107). -/
def State.acornPkg (s : State) : Package :=
  let owners := (s.allTiles.flatMap (fun t => t.ord.l1) ++ s.pkg.host).filter (fun l => l.st == .m || l.st == .o)
  { s.pkg with l2 := (owners.flatMap (·.dirty)).foldl (fun m c => Cells.set m c.1 c.2) s.pkg.l2 }

/-- Every L1 and host copy of a line removed, the owner's dirty bytes at the home (R141 step 1). -/
def State.recall (s : State) (line : Nat) : State :=
  let s := match s.dirtyOf line with
    | some (src, l) => s.updP (fun p => p.writeBack src l)
    | none => s
  (s.mapTiles (fun t => { t with ord := t.ord.dropLine line })).updP
    (fun p => { p with host := p.host.filter (fun x => x.line != line) })

/-- The host's copy of a line snooped (R445): dirty data goes home, and the host keeps S or takes I. -/
def State.hostFlush (s : State) (line : Nat) (keep : Bool) : State :=
  match s.pkg.host.find? (fun l => l.line == line) with
  | some l =>
    let rest (p : Package) : List L1Line := p.host.filter (fun x => x.line != line)
    s.updP (fun p => let q := p.writeBack 256 l
                     { q with host := if keep then rest q ++ [{ l with st := .s, dirty := [] }] else rest q })
  | none => s

/-- Which agents' monitors a write to package memory or to a slice wakes (R180, R194): every tile
whose monitor is on the line, but the writer's own unless `own`. -/
def State.wake (s : State) (own : Bool) (hit : Loc → Bool) : State :=
  let me := s.tile.phys
  s.mapTiles (fun t =>
    match t.ord.mon with
    | some m => if hit m.loc && (own || t.phys != me) then { t with ord := { t.ord with mon := some { m with woken := true } } } else t
    | none => t)

/-- A location on the line of a physical address, or of a slice offset. -/
def Loc.onLine (line : Nat) : Loc → Bool
  | .pkgMem pa _ => pa / 64 == line
  | .frame pa _ _ => pa / 64 == line
  | _ => false

def Loc.onSlice (tile line : Nat) : Loc → Bool
  | .cluster t off => t == tile && off / 64 == line
  | _ => false

/-- The core's monitor wakes if it is on a line that its L1 evicts (R180). -/
def OrdSt.evicted (o : OrdSt) (line : Nat) : OrdSt :=
  { o.dropLine line with mon := o.mon.map (fun m => if m.loc.onLine line then { m with woken := true } else m) }

/-- The L1 of the core in focus evicts a line that it holds (R140, R170, R180). -/
def State.evict (s : State) (l : L1Line) : State :=
  let src := s.tile.phys
  (s.updP (fun p => p.writeBack src l)).mapOrd (fun o => o.evicted l.line)

/-- The set of a line in an L1 of 64 KiB with 8 ways (R138): 128 sets, by the low bits of the line number (log 106). -/
def OrdSt.set (o : OrdSt) (line : Nat) : List L1Line := o.l1.filter (fun l => l.line % 128 == line % 128)

/-- A line that is not held needs a way of its set: a full set gives up its oldest (log 106). -/
def State.makeRoom (s : State) (line : Nat) : State :=
  if (s.tile.ord.line line).isSome || decide ((s.tile.ord.set line).length < 8) then s
  else match (s.tile.ord.set line).head? with
    | some v => s.evict v
    | none => s

/-- A read by a cached agent: an owner in M becomes O, in E becomes S, and the reader holds the line
in S, or in E where nobody held it (R140); the host keeps S (R445). The line is in L2 too. -/
def State.share (s : State) (line : Nat) : State :=
  match s.tile.ord.line line with
  | some _ => s
  | none =>
    let s := ((s.makeRoom line).hostFlush line true).updP (fun p => p.l2Fill line)
    let kept := s.ownerKept line
    let held := s.allTiles.any (fun t => (t.ord.line line).isSome) || s.pkg.host.any (fun l => l.line == line)
    let lower (l : L1Line) : L1Line :=
      if l.line = line then { l with st := match l.st with | .m => .o | .e => .s | x => x } else l
    let s := (s.mapTiles (fun t => { t with ord := { t.ord with l1 := t.ord.l1.map lower } })).updP
      (fun p => { p with host := p.host.map lower })
    s.mapOrd (fun o => o.setLine { line := line, st := if held then .s else .e, dirty := [], tok := 0, kept := kept })

/-- A write by a cached agent: every other copy is invalidated, the writer takes over the dirty bytes
and holds the line in M (R140, R169); the host's go home (R445). -/
def State.own (s : State) (line : Nat) : State :=
  let s := ((s.makeRoom line).hostFlush line false).updP (fun p => p.l2Fill line)
  let d : Overlay × W64 × Option Nat := match s.dirtyOf line with
    | some (_, l) => (l.dirty, l.tok, l.launch)
    | none => ([], 0, none)
  let kept := (s.tile.ord.line line).elim (s.ownerKept line) (·.kept)
  let s := (s.mapTiles (fun t => { t with ord := t.ord.dropLine line })).updP
    (fun p => { p with host := p.host.filter (fun x => x.line != line) })
  s.mapOrd (fun o => o.setLine { line := line, st := .m, dirty := d.1, tok := d.2.1, launch := d.2.2, kept := kept })

/-- A store's bytes into a line that is held in M: what the copy kept of them is gone. -/
def State.dirty (s : State) (pa : Nat) (bs : List Byte) (tok : W64) : State :=
  s.mapOrd (fun o => match o.line (pa / 64) with
    | some l => o.setLine { l with dirty := Overlay.setN l.dirty pa bs, tok := tok, launch := some s.tile.handle,
                                   kept := Overlay.without l.kept pa (pa + bs.length) }
    | none => o)

/-- A copy of a line keeps n of its bytes from an address on, which an uncached store is about to change behind the home:
those that no dirty byte covers (R172). -/
def Overlay.keep (k dirty : Overlay) (a n : Nat) (old : Nat → Byte) : Overlay :=
  (List.range n).foldl (fun k i =>
    if (Cells.get? dirty (a + i)).isSome || (Cells.get? k (a + i)).isSome then k else Cells.set k (a + i) (old (a + i))) k

/-- Every cached copy of the line of n bytes keeps them (R172). -/
def State.keepCopies (s : State) (pa n : Nat) : State :=
  let line := pa / 64
  let dirty := s.ownerDirty line
  let home := s.pkg.home
  let f (l : L1Line) : L1Line := if l.line = line then { l with kept := l.kept.keep dirty pa n home } else l
  (s.mapTiles (fun t => { t with ord := { t.ord with l1 := t.ord.l1.map f } })).updP (fun p => { p with
    host := p.host.map f,
    l2kept := if p.l2lines.contains line then p.l2kept.keep p.l2 pa n home else p.l2kept })

/-- The first line of host memory (R135). -/
def hostLine (line : Nat) : Bool := decide (0x8000000000000 ≤ 64 * line)

/-- A control-core store to package memory performs (R169, R172). The accesses of stc and mark, wider than 8 bytes, perform
whole, and so does the load of ldc: one of the interleavings that R171 lets the machine take (log 15). -/
def State.storePkg (s : State) (pa : Nat) (cached : Bool) (bs : List Byte) (tag : Option Bool) (tok : W64) : State :=
  let s :=
    if cached then
      -- a 64-byte mark or an aligned access stays inside one line
      let s := (s.own (pa / 64)).updP (fun p => if meetsRanges p.scrub (pa / 64 * 64) (pa / 64 * 64 + 64) then p.settle (pa / 64) else p)
      (s.dirty pa bs tok).mapOrd (fun o => if hostLine (pa / 64) then { o with hostOpen := setInsert o.hostOpen (pa / 64) } else o)
    else ((s.updP (fun p => p.settle (pa / 64))).keepCopies pa bs.length).updP (fun p => { p with mem := Memory.writeN p.mem pa bs })
  let s := s.updP (fun p => let p := p.clearTags pa bs.length
                            match tag with
                            | some t => p.setTag pa t
                            | none => p)
  s.wake false (Loc.onLine (pa / 64))

/-- A non-snooping agent reads home values (R141). -/
def State.readHome (s : State) (pa n : Nat) : List Byte := s.pkg.homeN pa n

/-- A read of a line by an Acorn core, a cached agent that keeps no copy (R140; log 107): an owner in M becomes O, in E
becomes S, and the host keeps S. -/
def State.acornRead (s : State) (line : Nat) : State :=
  let lower (l : L1Line) : L1Line := if l.line = line then { l with st := match l.st with | .m => .o | .e => .s | x => x } else l
  (s.hostFlush line true).mapTiles (fun t => { t with ord := { t.ord with l1 := t.ord.l1.map lower } })

/-- A non-snooping agent writes: recall, then the bytes at the home, then forwarding (R141, R380).
`tok` is the token a forwarded line carries. -/
def State.writeHomeLine (s : State) (pa : Nat) (bs : List Byte) (tok : W64) : State :=
  let line := pa / 64
  let src := s.tile.phys
  let s := s.recall line
  let s := s.updP (fun p => (((p.settle line).homeCells (bs.mapIdx (fun i b => (pa + i, b)))).clearTags pa bs.length).forward src (some s.tile.handle) line tok)
  s.wake true (Loc.onLine line)

/-- Bytes cut at line ends. -/
def lineCuts (pa : Nat) (bs : List Byte) : List (Nat × List Byte) :=
  if bs.isEmpty then []
  else
    let first := min bs.length (64 - pa % 64)
    (pa, bs.take first) :: (chunks 64 (bs.drop first)).mapIdx (fun i c => (pa + first + 64 * i, c))

def State.writeHome (s : State) (pa : Nat) (bs : List Byte) (tok : W64) : State :=
  (lineCuts pa bs).foldl (fun s c => s.writeHomeLine c.1 c.2 tok) s

/-- A release of the core in focus taken and completed in one step (R174): every line in M or O written back, M to E and O
to S. So where a barrier word, a commit or a context save has waited for the queues (log 15). -/
def State.releaseAll (s : State) : State :=
  let src := s.tile.phys
  let d := s.tile.ord.l1.filter (fun l => l.st = .m ∨ l.st = .o)
  let s := d.foldl (fun s l => s.updP (fun p => p.writeBack src l)) s
  s.mapOrd (fun o => { o with l1 := o.l1.map (fun l =>
    match l.st with
    | .m => { l with st := .e, dirty := [] }
    | .o => { l with st := .s, dirty := [] }
    | _ => l) })

/-- One line of the core in focus written back, M to E and O to S (R174, R196). -/
def State.releaseLine (s : State) (line : Nat) : State :=
  match s.tile.ord.line line with
  | some l =>
    if l.st = .m ∨ l.st = .o then
      let src := s.tile.phys
      (s.updP (fun p => p.writeBack src l)).mapOrd
        (fun o => o.setLine { l with st := if l.st = .m then .e else .s, dirty := [] })
    else s
  | none => s


/-! ### Cluster slices -/

/-- n bytes of the slice of a physical tile. -/
def State.sliceN (s : State) (tile off n : Nat) : List Byte :=
  match s.tileAt tile with
  | some t => t.near.readN (clusterBase + off) n
  | none => List.replicate n 0

/-- Bytes written to a slice; they perform there and wake monitors of every tile (R167, R194). -/
def State.storeSlice (s : State) (tile off : Nat) (bs : List Byte) (tag : Option Bool) (own : Bool) : State :=
  let s := s.updTile tile (fun t =>
    let n := t.near.store (clusterBase + off) bs
    { t with near := match tag with
                     | some g => n.setTag (clusterBase + off) g
                     | none => n })
  (linesOf off bs.length).foldl (fun s l => s.wake own (Loc.onSlice tile l)) s

/-! ### Values of a capability in memory (R144) -/

/-- The 256 bits of a capability as a number. -/
def Cap.bits (c : Cap) : BitVec 256 := c.typ ++ c.perm ++ c.base ++ c.len ++ c.cursor ++ c.pol ++ c.tenant

def Cap.ofBits (w : BitVec 256) (tag : Bool) : Cap :=
  ⟨w.extractLsb' 252 4, w.extractLsb' 240 12, w.extractLsb' 176 64, w.extractLsb' 112 64, w.extractLsb' 48 64, w.extractLsb' 16 32, w.extractLsb' 0 16, tag⟩

def Cap.toBytes (c : Cap) : List Byte := leBytes 32 c.bits.toNat
def Cap.ofBytes (bs : List Byte) (tag : Bool) : Cap := Cap.ofBits (BitVec.ofNat 256 (leNat bs)) tag

def leWord (bs : List Byte) : W64 := BitVec.ofNat 64 (leNat bs)

end Sys2Proof.Machine
end

