-- ==== Sys2Proof/Machine/Ops.lean ====
section
/-! DEFINITION. The named operations of the control core: registers, faults and taking an exception
(R328 to R338), the return (R334), the return stack and NAS (R27 to R35), and the shape every control
word shares (R25, R26, R31). -/

namespace Sys2Proof.Machine

/-! ### Registers (R18) -/

/-- s[r]: s0 reads zero. -/
def State.reg (s : State) (r : Reg) : W64 := if r = 0 then 0 else s.tile.core.s[r.toFin]

/-- s[r] := v: a write to s0 is discarded. -/
def State.setReg (s : State) (r : Reg) (v : W64) : State :=
  if r = 0 then s else s.mapCore (fun c => { c with s := c.s.set r.toFin v })

/-- p[n]: p0 is true. -/
def State.pred (s : State) (n : PReg) : Bool := if n = 0 then true else s.tile.core.p[n.toFin]

def State.setPred (s : State) (n : PReg) (v : Bool) : State :=
  if n = 0 then s else s.mapCore (fun c => { c with p := c.p.set n.toFin v })

/-- The predicate a PRED field selects (R46). -/
def State.predField (s : State) (f : BitVec 4) : Bool := s.pred (f.extractLsb' 0 3) ^^ f.getLsbD 3

/-- c[n]: c0 holds the null capability (R147). -/
def State.cap (s : State) (n : CReg) : Cap := if n = 0 then {} else s.tile.caps[n.toFin]

def State.setCap (s : State) (n : CReg) (c : Cap) : State :=
  if n = 0 then s else s.updT (fun t => { t with caps := t.caps.set n.toFin c })

def State.setPc (s : State) (v : W64) : State := s.mapCore (fun c => { c with pc := v })

/-- TIME (R24, R88). -/
def State.time (s : State) : W64 := BitVec.ofNat 64 s.pkg.time

def Level.num : Level → Nat
  | .u => 0 | .k => 1 | .f => 2

/-- An action that requires K is allowed at K and F (R16). -/
def Level.atLeastK (l : Level) : Bool := l != .u

/-! ### Fault codes (R329) -/

def FaultCode.num : FaultCode → Nat
  | .illegalOpcode => 0x01 | .illegalNas => 0x02 | .privilege => 0x03 | .misaligned => 0x04 | .stackLimit => 0x05 | .unhandledException => 0x06
  | .capTag => 0x10 | .capBounds => 0x11 | .capPerm => 0x12 | .capType => 0x13
  | .sealedPath => 0x18 | .sealedIntegrity => 0x19 | .sealedPolicy => 0x1A | .sealedDebug => 0x1B
  | .bufState => 0x20 | .regionAlign => 0x21 | .regionCount => 0x22 | .streamFormat => 0x23 | .accRange => 0x28
  | .pageNotPresent => 0x30 | .pagePerm => 0x31 | .poolMiss => 0x32 | .leaseLost => 0x33 | .fenced => 0x34
  | .codeWrite => 0x38 | .collTimeout => 0x40 | .peerUnreachable => 0x41 | .stopped => 0x48
  | .watchdog => 0x50 | .memUncorrectable => 0x60 | .linkDown => 0x61

/-- The kinds of R328 that a fault can have. -/
inductive FaultKind where | trap | abort | fatal | event | status
deriving DecidableEq, Repr, Inhabited

def FaultCode.kind : FaultCode → FaultKind
  | .sealedPath | .sealedIntegrity | .sealedPolicy | .fenced | .codeWrite | .watchdog | .memUncorrectable => .fatal
  | .pageNotPresent | .poolMiss | .leaseLost => .abort
  | .sealedDebug | .linkDown => .event
  | .stopped => .status
  | _ => .trap

/-- The code of kind Trap with a number (R361). -/
def trapCodeOf (n : Nat) : Option FaultCode :=
  [FaultCode.illegalOpcode, .illegalNas, .privilege, .misaligned, .stackLimit, .unhandledException, .capTag, .capBounds, .capPerm, .capType,
   .bufState, .regionAlign, .regionCount, .streamFormat, .accRange, .pagePerm, .collTimeout, .peerUnreachable].find? (fun c => c.num == n)

/-- A fault of a word or a command. `eval` is what the fault's rule states for EVAL, none where it
states nothing (a free value then, log 8); `page` is the object and page of a pool fault and whether
the access writes, `acc` the access of a translation fault (0 load, 1 store, 2 fetch). -/
structure FaultInfo where
  code : FaultCode
  eval : Option W64 := none
  page : Option (Nat × Nat × Bool) := none
  acc : Nat := 0
deriving DecidableEq, Repr, Inhabited

/-- A value that depends on a word's result or a fault. -/
abbrev Try (α : Type) := Except FaultInfo α

/-! ### Fields of KSTAT (R330) -/

def kstatNest (k : W64) : Bool := k.getLsbD 6
def kstatArr (k : W64) : Bool := k.getLsbD 7
def kstatIe (k : W64) : Bool := k.getLsbD 2
def kstatPie (k : W64) : Bool := k.getLsbD 3
def kstatKind (k : W64) : Nat := (k.extractLsb' 4 2).toNat
def kstatPpriv (k : W64) : Nat := (k.extractLsb' 0 2).toNat

/-- The 8 used bits of KSTAT. -/
def mkKstat (arr nest : Bool) (kind : BitVec 2) (pie ie : Bool) (ppriv : BitVec 2) : W64 :=
  (BitVec.ofBool arr ++ BitVec.ofBool nest ++ kind ++ BitVec.ofBool pie ++ BitVec.ofBool ie ++ ppriv : BitVec 8).zeroExtend 64

/-! ### Fatal faults and aborts (R337, R338) -/

/-- A fault that ends the launch: the tile stops with its first fault on record (R94, R338). -/
def State.fatal (s : State) (code : FaultCode) (epc : W64) : State :=
  s.mapDisp (fun d => { d with run := .faulted, fault := some (d.fault.getD ⟨code, epc, s.pkg.time⟩) })

/-- CAUSE, EPC and EVAL written (R32). An unstated EVAL is a free value (log 8). -/
def State.writeCause (s : State) (fi : FaultInfo) (epc : W64) : State :=
  match fi.eval with
  | some v => s.mapCore (fun c => { c with cause := BitVec.ofNat 64 fi.code.num, epc := epc, eval := v })
  | none => (s.mapCore (fun c => { c with cause := BitVec.ofNat 64 fi.code.num, epc := epc, eval := Config.openWord s.fresh })).draw

/-- A started X command that has not faulted and has accesses still to come (R337 step 3). An x.wait has none
that anything reads: it is dropped. -/
def Engs.lasts (e : Engs) (c : Cmd) : Bool :=
  (c.eng == .x && c.started && !c.performed && !c.done && !e.faults.any (fun f => f.eng == .x && f.idx == c.idx)
    && (c.raw.headD 0).extractLsb' 120 8 != 0x07)
  || !c.writes.isEmpty

/-- The engines' pending work dropped: rings emptied, commands forgotten but for started X commands, which
complete and raise nothing (R337 step 3). -/
def Engs.drop (e : Engs) : Engs :=
  { e with ringV := { e.ringV with rp := e.ringV.wp }, ringM := { e.ringM with rp := e.ringM.wp }, ringX := { e.ringX with rp := e.ringX.wp },
           stopV := none, stopM := none, stopX := none, mPoint := 0, faults := [],
           cmds := (e.cmds.filter e.lasts).map (fun c => { c with semr := 0x3F, prod := [], cons := [], uses := [] }) }

/-! ### The roles of pending commands on the declared buffers (R155, R220) -/

/-- Commands by timestamp. -/
def insertCmd (c : Cmd) : List Cmd → List Cmd
  | [] => [c]
  | x :: r => if c.ts < x.ts then c :: x :: r else x :: insertCmd c r

def Engs.byRank (e : Engs) : List Cmd := e.cmds.foldr insertCmd []

/-- The role of a command on buffer `id`: producer (true), consumer (false), or none. -/
def Cmd.role (c : Cmd) (id : Nat) : Option Bool :=
  if c.prod.any (fun b => b.toNat == id) || c.uses.any (fun u => u.1 == id && u.2.2) then some true
  else if c.cons.any (fun b => b.toNat == id) || c.uses.any (fun u => u.1 == id && u.2.1) then some false
  else none

/-- Whether a started command holds buffer `id`. -/
def Cmd.holds (c : Cmd) (id : Nat) : Bool := c.prod.any (fun b => b.toNat == id) || c.cons.any (fun b => b.toNat == id)

/-- The commands with a role on a buffer that have not completed, by timestamp. -/
def Engs.users (e : Engs) (id : Nat) (before : Cmd → Bool) : List Cmd :=
  e.byRank.filter (fun c => !c.done && c.predTrue && before c && (c.role id).isSome)

/-- The state of a buffer once a command has completed; none where the command will fault. -/
def bufAfter (id : Nat) (st : BufSt) (c : Cmd) : Option BufSt :=
  if c.uses.any (fun u => u.1 == id && u.2.1 && u.2.2) then none
  else
  match c.role id, st with
  | some true, .empty => some .full
  | some true, .filling => if c.holds id then some .full else none
  | some false, .full => some .empty
  | some false, .draining => if c.holds id then some .empty else none
  | none, st => some st
  | _, _ => none

/-- The state of a buffer at a place in timestamp order, after the commands that stand before it (R155); none where an
earlier command will fault. -/
def Tile.bufStAt (t : Tile) (id : Nat) (before : Cmd → Bool) : Option BufSt :=
  (t.eng.users id before).foldl (fun o c => o.bind (fun st => bufAfter id st c)) (some (t.bufs.toList.getD id {}).st)

def Package.launch (p : Package) (h : Nat) : Option Launch := p.launches.find? (fun l => l.handle == h)

def Package.updLaunch (p : Package) (h : Nat) (f : Launch → Launch) : Package :=
  { p with launches := p.launches.map (fun l => if l.handle = h then f l else l) }

/-- Loads under way for a tile write no register any more: the task they belong to is gone. -/
def Package.forgetLoads (p : Package) (phys : Nat) : Package :=
  { p with
    chans := p.chans.filter (fun c => !(c.src == phys && (match c.e.op with
      | .load _ _ _ _ | .loadCap _ _ | .loadWait _ _ _ => true
      | _ => false)))
    poolCh := p.poolCh.map (fun m => if m.src = phys then
      { m with op := match m.op with
                     | .load8 o _ => .load8 o 0
                     | .atomic o f b x k _ r => .atomic o f b x k none r
                     | op => op } else m) }

/-- An entry of the queues when its task is gone: loads and semaphore raises go, an atomic returns nothing, and
the other accesses and their markers perform in their order (log 94). -/
def QOp.orphan : QOp → Option QOp
  | .load _ _ _ _ | .loadCap _ _ | .loadWait _ _ _ | .sem _ => none
  | .amo l op b x _ sc key tok => some (.amo l op b x 0 sc key tok)
  | op => some op

def QEntry.orphan (e : QEntry) : Option QEntry := e.op.orphan.map (fun op => { e with op := op })

/-- The queues of a task that is gone, with no word under way. -/
def OrdSt.orphan (o : OrdSt) : OrdSt :=
  { o with lq := o.lq.filterMap QEntry.orphan, sq := o.sq.filterMap QEntry.orphan, hold := none, mon := none, nasWait := none, bar := .idle, arrs := [] }

/-- The task's effects discarded and the bind free for another task (R337 steps 1 to 3, R126). -/
def State.leaveTask (s : State) : State :=
  (s.updP (fun p => p.forgetLoads s.tile.phys)).updT (fun t => { t with
                            task := { stop := t.task.stop }, eng := t.eng.drop,
                            ord := t.ord.orphan,
                            disp := { t.disp with run := .between } })

/-- Where an aborted task waits (R337 step 5). -/
def abortWait (p : Package) (fi : FaultInfo) : TaskSt :=
  match fi.code, fi.page, fi.eval with
  | .pageNotPresent, _, some va => .waitVa va fi.acc
  | _, some (o, pg, w), _ =>
    if p.dir.any (fun d => d.valid && d.objid == o && !d.direct) then .waitPage o pg w else .ready
  | _, _, _ => .ready

/-- A task abort (R337): the task goes back to its launch's ready set at its list index; the 64th
abort in succession ends the launch; a stopped batch is discarded. -/
def State.abortTask (s : State) (fi : FaultInfo) (epc : W64) : State :=
  let h := s.tile.handle
  let s := s.writeCause fi epc
  match s.tile.task.index with
  | none => s.fatal fi.code epc
  | some i =>
    let n := ((s.pkg.launch h).bind (fun l => l.tasks[i]?)).elim 0 (fun r => r.aborts) + 1
    let st := abortWait s.pkg fi
    let gone := s.tile.task.stop
    let s := s.mapSys (fun y => { y with abcnt := y.abcnt + 1 })
    let s := s.updP (fun p =>
      let p := p.updLaunch h (fun l => { l with tasks := l.tasks.modify i (fun r => { r with st := if gone then .committed else st, aborts := n }) })
      -- firmware asks Sprout for the lease that the access needed
      match st with
      | .waitPage o pg _ => { p with prefetch := p.prefetch ++ [(o, pg)] }
      | _ => p)
    let s := s.leaveTask
    if n ≥ 64 && !gone then s.fatal fi.code epc else s

/-! ### Frames of the pool-page cache (R379) -/

/-- The frame of a page. -/
def Package.frameOf (p : Package) (obj page : Nat) : Option Frame := p.frames.find? (fun f => f.obj == obj && f.page == page)

/-- The lines of a frame that some L1 or the host holds. -/
def State.frameLines (s : State) (f : Frame) : List Nat :=
  ((s.allTiles.flatMap (fun t => t.ord.l1.map (·.line))) ++ s.pkg.host.map (·.line)).eraseDups.filter (fun l =>
    decide (f.pa ≤ 64 * l) && decide (64 * l < f.pa + pageSize))

/-- A frame dropped: recall, forwarding of dirty bytes, the frame freed (R379), and its mark as sealed gone with it (R455). -/
def State.dropFrame (s : State) (f : Frame) : State :=
  let s := (s.frameLines f).foldl State.recall s
  s.updP (fun p => { p.dropL2 f.pa (f.pa + pageSize) with
    frames := p.frames.filter (fun g => !(g.obj == f.obj && g.page == f.page)),
    sealedFrames := p.sealedFrames.filter (fun x => x.1 != f.pa / pageSize),
    mem := Overlay.without p.mem f.pa (f.pa + pageSize),
    tags := p.tags.filter (fun g => !(decide (f.pa ≤ 32 * g) && decide (32 * g < f.pa + pageSize))) })

/-- Whether some of n bytes lie in a line with an uncorrectable error (R339). -/
def Package.eccIn (p : Package) (pa n : Nat) : Bool := (linesOf pa n).any (fun l => p.ecc.contains l)

/-- A frame without a dirty line (R339). -/
def State.frameClean (s : State) (f : Frame) : Bool := (s.frameLines f).all (fun l => (s.dirtyOf l).isNone)

/-- An uncorrectable error met in a clean frame (R339): the frame is dropped and its 256 KiB of HBM retired (R464). -/
def State.dropBad (s : State) (fi : FaultInfo) : State :=
  match fi.page with
  | none => s
  | some (obj, page, _) =>
    match s.pkg.frameOf obj page with
    | none => s
    | some f =>
      if fi.code = .poolMiss ∧ s.frameClean f ∧ s.pkg.eccIn f.pa pageSize then
        (s.dropFrame f).updP (fun p => { p with life := { p.life with retired := p.life.retired.filter (· != f.pa / pageSize) ++ [f.pa / pageSize] } })
      else s

/-! ### Taking an exception (R331 to R333) -/

/-- The tile stands halted for debug from a TIME on, if it does not already (R340). -/
def Disp.haltedAt (d : Disp) (now : Nat) : Disp := { d with haltAt := some (d.haltAt.getD now) }

/-- A core whose HALT is set is halted at this boundary (R348, R349). -/
def State.haltIf (s : State) : State :=
  (s.mapSys (fun y => if y.dbgctl.getLsbD 0 then { y with dbgctl := y.dbgctl ||| 2 } else y)).mapDisp
    (fun d => if s.tile.sys.dbgctl.getLsbD 0 then d.haltedAt s.pkg.time else d)

/-- An arrival that has counted for the word at PC, or for one that an area says to have arrived. -/
def BarSt.counted : BarSt → Bool
  | .arrived _ _ _ | .released _ | .rejoin => true
  | _ => false

/-- The barrier word at `pc` is interrupted: an arrival that has counted stays with the tile, so that the generation completes
without it and the word is entered again without arriving (R332). -/
def OrdSt.keepArrival (o : OrdSt) (pc : W64) : OrdSt :=
  match o.bar with
  | .arrived _ _ _ | .released _ => { o with bar := .idle, arrs := (pc, o.bar) :: o.arrs.filter (fun x => x.1 != pc) }
  | _ => { o with bar := .idle }

/-- Where the word at `pc` stands that a return goes back to: with ARR, at the arrival that the tile keeps for it (R332,
R334); an arrival that the tile knows nothing of, from an area, is made again. -/
def OrdSt.backToArrival (o : OrdSt) (pc : W64) (arr : Bool) : OrdSt :=
  { o with arrs := o.arrs.filter (fun x => x.1 != pc),
           bar := if !arr then .idle else match o.arrs.find? (fun x => x.1 == pc) with
             | some x => x.2
             | none => if o.arrs.isEmpty then .rejoin else .idle }

/-- Entry to the trap handler (R331), `arr` set for a barrier word whose arrival has counted (R332). -/
def State.enter (s : State) (kind : BitVec 2) (resume : W64) (arr : Bool) : State :=
  let k := s.tile.sys.kstat
  let s := s.mapSys (fun y => { y with
    kpc := resume,
    kstat := mkKstat (arr || kstatArr k) true kind (kstatIe k) false (BitVec.ofNat 2 s.tile.core.level.num) })
  let s := s.mapOrd (fun o => let o := { o with hold := none, mon := none, nasWait := none }
                              if arr then o.keepArrival resume else { o with bar := .idle })
  let s := s.mapEng (fun e => { e with settling := false })
  let s := s.mapCore (fun c => { c with level := .k, pc := s.tile.sys.kvec &&& ~~~7 })
  -- a halted debugger stays in charge: a stepped word that traps halts at KVEC (R349)
  s.haltIf

/-- Whether a trap can be delivered (R331). -/
def State.canTrap (s : State) : Bool := s.tile.sys.kvec &&& ~~~7 != 0 && !kstatNest s.tile.sys.kstat

/-- EFAULT.ENG for a control-core fault (R211). -/
def State.coreFaultMark (s : State) : State := s.mapSys (fun y => { y with efault := y.efault &&& 0x3FFFFFFFFFFFFFFF })

/-- A trap of the control core, or the end of the launch where it cannot be delivered. -/
def State.trapCore (s : State) (fi : FaultInfo) (epc resume : W64) : State :=
  let s := s.coreFaultMark
  if s.canTrap then (s.writeCause fi epc).enter 0 resume false
  else (s.writeCause fi epc).fatal fi.code epc

/-- A fault of the control word at `epc` taken by its kind (R328): a trap, an abort of the running task
(a trap in a SINGLE launch), or the end of the launch. -/
def State.takeFault (s : State) (fi : FaultInfo) (epc : W64) : State :=
  let s := s.dropBad fi
  match fi.code.kind with
  | .trap => s.trapCore fi epc epc
  | .abort =>
    if s.tile.par.kind ≠ .single ∧ s.tile.task.index.isSome then s.coreFaultMark.abortTask fi epc
    else s.trapCore fi epc epc
  | _ => (s.coreFaultMark.writeCause fi epc).fatal fi.code epc

/-- A message or a kernel call (R331, R362, R363). -/
def State.enterMessage (s : State) (msg resume : W64) (arr : Bool) : State :=
  (s.mapSys (fun y => { y with kmsg := msg })).enter 2 resume arr

/-- The trap return (R334, R364): the level from PPRIV, IE from PIE, NEST and ARR cleared, the streams
released, PC := KPC. With ARR set the core waits at the barrier word without arriving again. -/
def State.trapReturn (s : State) : State :=
  let k := s.tile.sys.kstat
  let back : W64 := s.tile.sys.kpc
  let s := s.mapCore (fun c => { c with level := if kstatPpriv k = 0 then .u else .k, pc := back })
  let s := s.mapSys (fun y => { y with kstat := mkKstat false false (BitVec.ofNat 2 (kstatKind k)) (kstatPie k) (kstatPie k) (BitVec.ofNat 2 (kstatPpriv k)) })
  s.mapEng (fun e => { e with heldStreams := false })

/-! ### Pending work of the tile -/

/-- A queue entry's destination register, if its value is still to come. -/
def QOp.dest : QOp → Option Reg
  | .load _ _ _ d => some d
  | .loadWait _ d _ => some d
  | .amo _ _ _ _ d _ _ _ => some d
  | _ => none

def QOp.destCap : QOp → Option CReg
  | .loadCap _ d => some d
  | _ => none

/-- A pool message's destination register. -/
def PoolOp.dest : PoolOp → Option Reg
  | .load8 _ d => some d
  | .atomic _ _ _ _ _ d _ => d
  | _ => none

/-- Whether s[r] waits for an access of an earlier word. -/
def State.pendingReg (s : State) (r : Reg) : Bool :=
  r != 0 &&
    (s.tile.ord.lq.any (fun e => e.op.dest == some r) || s.tile.ord.sq.any (fun e => e.op.dest == some r)
      || s.pkg.chans.any (fun c => c.src == s.tile.phys && c.e.op.dest == some r)
      || s.pkg.poolCh.any (fun m => m.src == s.tile.phys && m.op.dest == some r && m.eng == none))

def State.pendingCap (s : State) (c : CReg) : Bool :=
  c != 0 && (s.tile.ord.lq.any (fun e => e.op.destCap == some c)
    || s.pkg.chans.any (fun x => x.src == s.tile.phys && x.e.op.destCap == some c))

/-- Whether a near access of the control core must wait for an engine command (R219): every pending
command has a lower timestamp. -/
def State.nearBusy (s : State) (lo hi : Nat) (wr : Bool) : Bool :=
  s.tile.eng.cmds.any (fun c => !c.done && c.predTrue && c.rngs.any (fun r => decide (r.lo < hi) && decide (lo < r.hi) && (wr || r.wr)))

/-! ### What a word's operation answers -/

/-- `done`: the operation has its effect, NAS follows. `goto`: the operation has set PC itself.
`hold`: the issue point is held and the word runs again from this state. `await`: the same, but the word's access has
issued or its arrival has counted in this state, so that the faults of NAS come first (R29); `late` says that NAS takes
its target from the value still to come. `fault`: a fault, with no
effect. `stop`: the task ends with STOPPED (R126). `wait`: NAS waits for the register that the word's
own access delivers (R29). -/
inductive OpRes where
  | done (s : State)
  | goto (s : State)
  | hold (s : State)
  | await (s : State) (late : Bool)
  | fault (fi : FaultInfo)
  | stop
  | wait (s : State) (r : Reg) (old : W64)

/-- A fault without a stated EVAL, and one with it. -/
def raiseF (c : FaultCode) : OpRes := .fault { code := c }
def raiseV (c : FaultCode) (v : W64) : OpRes := .fault { code := c, eval := some v }

/-- The operation's result from a step that may fault. -/
def OpRes.ofTry : Try State → OpRes
  | .ok s => .done s
  | .error fi => .fault fi

/-! ### Return stack (R33 to R35) -/

/-- Core scratchpad address of a return-stack entry (log 9: SSP's low 21 bits). -/
def stackAddr (v : W64) : Nat := v.toNat % laneBase

/-- One entry pushed (R33): stored at SSP, and SSP moves on by 8. -/
def State.push (s : State) (v : W64) : State :=
  (s.mapNear (fun n => n.writeN (stackAddr s.tile.core.ssp) (leBytes 8 v.toNat))).mapCore (fun c => { c with ssp := c.ssp + 8 })

/-- A push of entries, lowest first. -/
def State.pushAll (s : State) (vs : List W64) : State := vs.foldl State.push s

/-- The stack word at an address. -/
def State.stackWord (s : State) (a : W64) : W64 := leWord (s.tile.near.readN (stackAddr a) 8)

/-- Room for n entries (R33), on exact numbers. -/
def State.canPush (s : State) (n : Nat) : Bool :=
  decide (s.tile.core.ssbase.toNat ≤ s.tile.core.ssp.toNat) && decide (s.tile.core.ssp.toNat + 8 * n ≤ s.tile.core.sslim.toNat)

/-- An entry to pop above SSBASE, n entries down. -/
def State.canPop (s : State) (n : Nat) : Bool :=
  decide (s.tile.core.ssbase.toNat + 8 * n ≤ s.tile.core.ssp.toNat) && decide (s.tile.core.ssp.toNat ≤ s.tile.core.sslim.toNat)

/-- NAS applied: the state, a fault, a hold, the end of the program, or STOPPED. -/
inductive NasRes where
  | next (s : State)
  | ended (s : State)
  | fault (fi : FaultInfo)
  | hold
  | stop

/-- Whether n entries of the return stack from an address on must wait for an engine command (R219). -/
def State.stackBusy (s : State) (a : W64) (n : Nat) (wr : Bool) : Bool :=
  (List.range n).any (fun i =>
    let lo := stackAddr (a + BitVec.ofNat 64 (8 * i))
    s.nearBusy lo (lo + 8) wr)

/-- The fault of the memory that holds n entries from an address on: an uncorrectable error (R339), or a write to a
write-locked line (R353). EVAL is the entry's address. -/
def State.stackFault (s : State) (a : W64) (n : Nat) (wr : Bool) : Option FaultInfo :=
  (List.range n).findSome? (fun i =>
    let b := a + BitVec.ofNat 64 (8 * i)
    let lo := stackAddr b
    if (linesOf lo 8).any (fun l => s.tile.near.ecc.contains l) then some { code := .memUncorrectable, eval := some b }
    else if wr && meetsRanges s.tile.near.locked lo (lo + 8) then some { code := .codeWrite, eval := some b }
    else none)

/-- The next word's address, and the target of a jump (R27). -/
def nextPc (pc : W64) : W64 := pc + 8
def jumpPc (pc : W64) (h : Hdr) : W64 := pc + (h.tgt.signExtend 64 <<< 3)

/-- The register a CALLI or JMPI names (R28). -/
def nasReg (h : Hdr) : Reg := h.tgt.extractLsb' 0 5

/-- NAS names a register that waits for an access of an earlier word. -/
def State.nasPending (s : State) (h : Hdr) : Bool := (h.nas == .calli || h.nas == .jmpi) && s.pendingReg (nasReg h)

/-- RET (R35). EXH takes the whole second entry, as R35 writes it; a raise clears bits 2:0 where it takes EXH as PC
(log 98). -/
def State.nasRet (s : State) : NasRes :=
  if !s.canPop 1 then .fault { code := .stackLimit, eval := some 1 }
  else
    let e := s.stackWord (s.tile.core.ssp - 8)
    match s.stackFault (s.tile.core.ssp - 8) 1 false with
    | some fi => .fault fi
    | none =>
      if s.stackBusy (s.tile.core.ssp - 8) 1 false then .hold
      else if !e.getLsbD 0 then
        .next (s.mapCore (fun c => { c with ssp := c.ssp - 8, pc := e &&& ~~~7 }))
      else if !s.canPop 2 then .fault { code := .stackLimit, eval := some 1 }
      else
        match s.stackFault (s.tile.core.ssp - 16) 1 false with
        | some fi => .fault fi
        | none =>
          if s.stackBusy (s.tile.core.ssp - 16) 1 false then .hold
          else
            let x := s.stackWord (s.tile.core.ssp - 16)
            .next (s.mapCore (fun c => { c with ssp := c.ssp - 16, exh := x, pc := e &&& ~~~7 }))

/-- A call to an address (R27, R33). -/
def State.nasCall (s : State) (pc target : W64) : NasRes :=
  if !s.canPush 1 then .fault { code := .stackLimit, eval := some 0 }
  else
    match s.stackFault s.tile.core.ssp 1 true with
    | some fi => .fault fi
    | none => if s.stackBusy s.tile.core.ssp 1 true then .hold else .next ((s.pushAll [nextPc pc]).setPc target)

/-! ### The estimator's flush (R128, R129) -/

/-- Items of the running batch: min((TASK + 1)·B, N) − TASK·B (R115). -/
def State.batchItems (s : State) : Nat :=
  match s.pkg.launch s.tile.handle with
  | some l =>
    let c := s.tile.par.task.toNat
    min ((c + 1) * l.rc.eb) l.rc.en - c * l.rc.eb
  | none => 0

/-- The pseudo-range of the estimator registers (R290), above the near space. -/
def estRange : Nat × Nat := (0x4000000, 0x4000001)

/-- est.flush: the stop test, the check, the queued moments. -/
def State.flush (s : State) : OpRes :=
  if s.nearBusy estRange.1 estRange.2 false then .hold s
  else if s.tile.task.stop then .stop
  else if s.tile.task.flush.isSome ∨ s.tile.par.estN.toNat ≠ s.batchItems then
    .fault { code := .illegalOpcode, eval := some s.tile.par.estN }
  else .done (s.mapTask (fun t => { t with flush := some (s.tile.par.estN, s.tile.par.estMean, s.tile.par.estM2) }))

/-! ### Applying NAS (R25 step 5, R27 to R29) -/

/-- END: in a batch that has not flushed, the word performs est.flush first (R129). -/
def State.nasEnd (s : State) : NasRes :=
  if s.tile.par.kind = .estimating ∧ s.tile.task.index.isSome ∧ s.tile.task.flush = none then
    match s.flush with
    | .done t => .ended t
    | .fault fi => .fault fi
    | .stop => .stop
    | _ => .hold
  else .ended s

/-- NAS of the word at `pc`, on the state that its operation leaves. -/
def State.applyNas (s : State) (h : Hdr) (pc : W64) (predTrue : Bool) : NasRes :=
  match h.nas with
  | .seq => .next (s.setPc (nextPc pc))
  | .jmp => .next (s.setPc (jumpPc pc h))
  | .jt => .next (s.setPc (if predTrue then jumpPc pc h else nextPc pc))
  | .jf => .next (s.setPc (if predTrue then nextPc pc else jumpPc pc h))
  | .call => s.nasCall pc (jumpPc pc h)
  | .calli =>
    let v := s.reg (nasReg h)
    -- the push is checked before the target (R29 names STACK_LIMIT first)
    if !s.canPush 1 then .fault { code := .stackLimit, eval := some 0 }
    else if v &&& 7 ≠ 0 then .fault { code := .misaligned, eval := some v }
    else s.nasCall pc v
  | .jmpi =>
    let v := s.reg (nasReg h)
    if v &&& 7 ≠ 0 then .fault { code := .misaligned, eval := some v } else .next (s.setPc v)
  | .ret => s.nasRet
  | .loop =>
    let n := s.tile.core.lc - 1
    .next ((s.mapCore (fun c => { c with lc := n })).setPc (if n ≠ 0 then jumpPc pc h else nextPc pc))
  | .endp => s.nasEnd

/-! ### One control word (R25, R26, R31) -/

/-- A word has completed: no hold is left, and the launch has made progress (R340). -/
def State.finish (s : State) : State :=
  (s.mapOrd (fun o => { o with hold := none, nasWait := none })).mapDisp (fun d => { d with lastDone := s.pkg.time })

/-- The issue point is held (R230, R332): the hold keeps the time it began. -/
def State.held (s : State) : State :=
  s.mapOrd (fun o => { o with hold := match o.hold with
    | some x => if x.pc = s.tile.core.pc then some x else some ⟨s.tile.core.pc, s.pkg.time⟩
    | none => some ⟨s.tile.core.pc, s.pkg.time⟩ })

/-- The core has applied END (R27). -/
def State.atEnd (s : State) : State := s.mapDisp (fun d => { d with run := .ended })

/-- The task ends at the word with STOPPED (R126): its effects are dropped, the tile frees. -/
def State.stopTask (s : State) : State :=
  let h := s.tile.handle
  let s := match s.tile.task.index with
    | some i => s.updP (fun p => p.updLaunch h (fun l => { l with tasks := l.tasks.modify i (fun r => { r with st := .committed }) }))
    | none => s
  s.leaveTask.mapDisp (fun d => { d with run := .free, bind := none })

/-- A core that a debugger steps or halts stops at this boundary (R348, R349). -/
def State.boundary (s : State) : State := s.haltIf

/-- NAS after an operation that left `t`; `s` is the state before the word, to which a fault of NAS
returns (R29). -/
def State.nasAfter (s t : State) (h : Hdr) (predTrue : Bool) : State :=
  match t.applyNas h s.tile.core.pc predTrue with
  | .next u => u.finish.boundary
  | .ended u => u.finish.atEnd.boundary
  | .fault fi => s.takeFault fi s.tile.core.pc
  | .hold => s.held
  | .stop => s.stopTask

/-- NAS that waited for the word's own load, mwait, amo or cas (R29): a misaligned target leaves the
destination as it was. -/
def State.nasResume (s : State) (w : NasWait) : State :=
  if s.pendingReg w.reg then s.held
  else
    -- a faulting word takes no key (R377)
    let old := (s.setReg w.reg w.old).mapSys (fun y => { y with pkseq := w.pkseq })
    old.nasAfter s w.h (s.predField w.h.pred)

/-- A word that holds the issue point with its access issued, from the state `t`: a fault of NAS, or the stop of a batch,
cancels it before the access (R29, R129); a flush that must wait for v.est holds it with nothing issued. Where NAS takes
its target from the value still to come, only the push is checked. -/
def State.awaits (s t : State) (h : Hdr) (predTrue late : Bool) : State :=
  if late then
    if h.nas == .calli && !t.canPush 1 then s.takeFault { code := .stackLimit, eval := some 0 } s.tile.core.pc else t.held
  else
    match t.applyNas h s.tile.core.pc predTrue with
    | .fault fi => s.takeFault fi s.tile.core.pc
    | .stop => s.stopTask
    | .hold => if h.nas == .endp then s.held else t.held
    | _ => t.held

/-- Whether the operation is performed (R25 step 4): predicated true, or NAS JT or JF. -/
def State.performs (s : State) (h : Hdr) : Bool := s.predField h.pred || h.nas == .jt || h.nas == .jf

/-- One control word: `rs` and `cs` are the registers it uses, which must not wait for an earlier
access; `needK` the level of R360; `op` its operation. -/
def State.coreWord (s : State) (h : Hdr) (rs : List Reg) (cs : List CReg) (needK : Bool) (op : State → OpRes) :
    Host.Outcome State Fault Refusal :=
  match s.tile.ord.nasWait with
  | some w => .next (s.nasResume w)
  | none =>
    if needK && !s.tile.core.level.atLeastK then .next (s.takeFault { code := .privilege } s.tile.core.pc)
    else if rs.any s.pendingReg || cs.any s.pendingCap || s.nasPending h then .next s.held
    else if s.performs h then
      match op s with
      | .done t => .next (s.nasAfter t h (s.predField h.pred))
      | .goto t => .next t.finish.boundary
      | .hold t => .next t.held
      | .await t late => .next (s.awaits t h (s.predField h.pred) late)
      | .fault fi => .next (s.takeFault fi s.tile.core.pc)
      | .stop => .next s.stopTask
      | .wait t r old =>
        -- the push of a CALLI is checked before the access issues (R29)
        if h.nas == .calli && !t.canPush 1 then .next (s.takeFault { code := .stackLimit, eval := some 0 } s.tile.core.pc)
        else .next (t.mapOrd (fun o => { o with nasWait := some ⟨h, r, old, s.tile.sys.pkseq⟩ })).held
    else .next (s.nasAfter s h (s.predField h.pred))

/-- The common case: a word at any level that uses only s registers and always completes. -/
def State.plainWord (s : State) (h : Hdr) (rs : List Reg) (op : State → State) : Host.Outcome State Fault Refusal :=
  s.coreWord h rs [] false (fun s => .done (op s))

/-- A decode fault of the word at PC (R31 steps 1 and 2): raised even when predicated false. -/
def State.decodeFault (s : State) (c : FaultCode) : State := s.takeFault { code := c } s.tile.core.pc

/-! ### Timestamps (R168) -/

/-- A near access of the control core takes the next timestamp. -/
def State.stamp (s : State) : State := s.mapEng (fun e => { e with ts := e.ts + 1 })

/-- The next place in program order. -/
def State.nextSeq (s : State) : State := s.mapOrd (fun o => { o with seq := o.seq + 1 })

def State.pushLq (s : State) (op : QOp) : State :=
  s.mapOrd (fun o => { o with lq := o.lq ++ [⟨o.seq, s.tile.core.pc, op⟩] })

def State.pushSq (s : State) (op : QOp) : State :=
  s.mapOrd (fun o => { o with sq := o.sq ++ [⟨o.seq, s.tile.core.pc, op⟩] })

/-- A marker stands in both queues (R164). -/
def State.pushMarker (s : State) (k : MarkKind) (scope : BitVec 2) : State :=
  ((s.pushLq (.marker k scope)).pushSq (.marker k scope)).nextSeq

/-- A rel marker holds back SQ only (R173): in LQ the loads behind it go on. -/
def QOp.isRel : QOp → Bool
  | .marker .rel _ => true
  | _ => false

/-- The entry that heads LQ for reading: the first that is no rel marker (R165, R173). -/
def OrdSt.lqHead (o : OrdSt) : Option QEntry := o.lq.find? (fun e => !e.op.isRel)

/-- LQ without that entry. -/
def OrdSt.lqRest (o : OrdSt) : List QEntry := o.lq.eraseP (fun e => !e.op.isRel)

end Sys2Proof.Machine
end

