-- ==== Sys2Proof/Machine/Operands.lean ====
section
/-! DEFINITION. Every operand form of the control core's memory words: the address (R148, R183), the
checks in their order (R148, R184), translation (R354 to R358), declared buffers (R155), rings (R212),
task ranges (R159), pool objects (R374 to R376). -/

namespace Sys2Proof.Machine

/-! ### Translation -/

/-- What an access does to a page: loads, stores and atomics and mark, fetch, cinv (R355). -/
inductive XAcc where | rd | wr | ex | inval
deriving DecidableEq, Repr, Inhabited

/-- The access as FaultInfo records it. -/
def XAcc.num : XAcc → Nat
  | .rd => 0 | .wr => 1 | .inval => 1 | .ex => 2

def pteV (e : W64) : Bool := e.getLsbD 63
def pteL (e : W64) : Bool := e.getLsbD 62
def pteC (e : W64) : Bool := e.getLsbD 61
def pteScrub (e : W64) : Bool := e.getLsbD 60
def pteRd (e : W64) : Bool := e.getLsbD 59
def pteWr (e : W64) : Bool := e.getLsbD 58
def pteEx (e : W64) : Bool := e.getLsbD 57
def pteCa (e : W64) : Bool := e.getLsbD 56
def pteG (e : W64) : Bool := e.getLsbD 55
def pteLk (e : W64) : Bool := e.getLsbD 54
/-- Physical address bits 51:18 of an entry. -/
def ptePa (e : W64) : Nat := (e.extractLsb' 18 34).toNat * 2 ^ 18
/-- Reserved bits of any entry (R355). -/
def pteReserved (e : W64) : Bool := e.extractLsb' 52 2 != 0 || e.extractLsb' 16 2 != 0

/-- A fault of an access to an address. -/
def at' (c : FaultCode) (a : W64) : FaultInfo := { code := c, eval := some a }

/-- A leaf found by a walk: the entry's address, the entry, whether it maps 8 GiB. -/
structure Leaf where
  where_ : Nat
  pte : W64
  big : Bool
deriving DecidableEq, Repr, Inhabited

/-- The first-level table (R355; log 10: PTB's bits below the table's alignment are ignored). -/
def tableBase (ptb : W64) : Nat := ptb.toNat / 0x10000 * 0x10000 % 2 ^ 52

/-- A walk through the home values (R355, R356 steps 1 and 2). An uncorrectable error in an entry that it reads is
MEM_UNCORRECTABLE (R339). -/
def Package.walk (p : Package) (ptb va : W64) (acc : Nat) : Try Leaf :=
  let perm : Try Leaf := .error { code := .pagePerm, eval := some va, acc := acc }
  let missing : Try Leaf := .error { code := .pageNotPresent, eval := some va, acc := acc }
  let a1 := tableBase ptb + 8 * (va.extractLsb' 33 13).toNat
  let e1 := leWord (p.homeN a1 8)
  if p.eccIn a1 8 then .error { code := .memUncorrectable, eval := some va, acc := acc }
  else if !pteV e1 then missing
  else if pteReserved e1 then perm
  else if pteL e1 then
    if e1.extractLsb' 18 15 != 0 then perm else .ok ⟨a1, e1, true⟩
  else if pteC e1 then perm
  else
    let a2 := ptePa e1 + 8 * (va.extractLsb' 18 15).toNat
    let e2 := leWord (p.homeN a2 8)
    if p.eccIn a2 8 then .error { code := .memUncorrectable, eval := some va, acc := acc }
    else if !pteV e2 then missing
    else if pteReserved e2 || !pteL e2 then perm
    else .ok ⟨a2, e2, false⟩

/-- The physical address of a virtual one under a leaf entry. -/
def leafPa (pte va : W64) (big : Bool) : Nat :=
  if big then ptePa pte / 2 ^ 33 * 2 ^ 33 + (va.extractLsb' 0 33).toNat else ptePa pte + (va.extractLsb' 0 18).toNat

/-- Steps 3 to 5 of R356. -/
def Package.checkLeaf (p : Package) (pte va : W64) (big : Bool) (x : XAcc) : Try (Nat × Bool) :=
  let allowed := match x with
    | .rd => pteRd pte
    | .wr | .inval => pteWr pte
    | .ex => pteEx pte
  if !allowed then .error { code := .pagePerm, eval := some va, acc := x.num }
  else if x = .wr ∧ pteLk pte then .error (at' .codeWrite va)
  else if p.paKind (leafPa pte va big) = .none then .error { code := .pagePerm, eval := some va, acc := x.num }
  else .ok (leafPa pte va big, pteCa pte)

/-- The page number of an address by size. -/
def pageNo (big : Bool) (va : W64) : Nat := if big then (va.extractLsb' 33 13).toNat else (va.extractLsb' 18 28).toNat

/-- A TLB entry that covers an address (R358). One with the contiguous hint may stand for its group of 64
pages (R357). -/
def TlbEntry.covers (e : TlbEntry) (va : W64) : Bool :=
  e.vpn == pageNo e.big va || (!e.big && pteC e.pte && e.vpn / 64 == pageNo false va / 64)

def TlbEntry.hits (e : TlbEntry) (va : W64) (asid : W64) : Bool :=
  e.covers va && (pteG e.pte || e.asid.extractLsb' 0 16 == asid.extractLsb' 0 16)

/-- The first `n` entries of a list that satisfy `f`, and all that do not. -/
def keepFirst (f : α → Bool) : Nat → List α → List α
  | _, [] => []
  | 0, x :: r => if f x then keepFirst f 0 r else x :: keepFirst f 0 r
  | n + 1, x :: r => if f x then x :: keepFirst f n r else x :: keepFirst f (n + 1) r

/-- A translation that a TLB of a size takes in; a full TLB gives up its oldest (log 101). -/
def tlbTake (size : Nat) (e : TlbEntry) (tlb : List TlbEntry) : List TlbEntry := if tlb.contains e then tlb else (e :: tlb).take size

/-- A translation that the L2 TLB of a cluster takes in. -/
def l2tlbTake (clus : Nat) (e : TlbEntry) (tlb : List (Nat × TlbEntry)) : List (Nat × TlbEntry) :=
  if tlb.contains (clus, e) then tlb else keepFirst (fun x => x.1 == clus) 4096 ((clus, e) :: tlb)

/-- The leaf that an entry gives for an address: in a group, the page at the same place of the 16 MiB. -/
def TlbEntry.leaf (e : TlbEntry) (va : W64) : W64 :=
  if e.vpn = pageNo e.big va then e.pte
  else (e.pte &&& ~~~(0x3F#64 <<< 18)) ||| (va &&& (0x3F#64 <<< 18))

/-- The scrub bit of a found frame (R356): its lines marked, the bit cleared at its home. -/
def State.scrubFrame (s : State) (l : Leaf) (va : W64) : State :=
  let lo := leafPa l.pte va l.big / (if l.big then 2 ^ 33 else 2 ^ 18) * (if l.big then 2 ^ 33 else 2 ^ 18)
  let hi := lo + (if l.big then 2 ^ 33 else 2 ^ 18)
  let gone (x : L1Line) : Bool := decide (lo ≤ 64 * x.line) && decide (64 * x.line < hi)
  let s := s.mapTiles (fun t => { t with ord := { t.ord with l1 := t.ord.l1.filter (fun x => !gone x) } })
  let s := s.updP (fun p => { p with scrub := cutRanges p.scrub lo hi ++ [(lo, hi)], host := p.host.filter (fun x => !gone x) })
  s.writeHomeLine l.where_ (leBytes 8 (l.pte &&& ~~~(1#64 <<< 60)).toNat) 0

/-- Local addresses (R354). -/
def localVa (pkg : Nat) (va : W64) : Bool :=
  va.extractLsb' 56 8 == 0 && (va.extractLsb' 46 10 == 0x3FF || (va.extractLsb' 46 10).toNat == pkg)

/-- The cluster of a tile, by physical number (R86). -/
def clusOf (phys : Nat) : Nat := phys / 16

/-- A package virtual address translated for one access, of the transfer engine where `stream`: the state with what the
TLBs, or its stream translation cache, now hold, the physical address, and whether the mapping is cacheable. Which held
translation is still used is a free value (R358, log 1). -/
def State.translateBy (s : State) (stream : Bool) (va : W64) (x : XAcc) : Try (State × Nat × Bool) :=
  if !localVa s.pkg.num va then .error { code := .pagePerm, eval := some va, acc := x.num }
  else
    let asid := s.tile.sys.asid
    let clus := clusOf s.tile.phys
    let own := if stream then s.tile.ord.xtlb else s.tile.ord.tlb
    let held := (own ++ (s.pkg.l2tlb.filter (fun e => e.1 == clus)).map (·.2)).find? (fun e => e.hits va asid)
    let walk : Try (State × Nat × Bool) :=
      match s.pkg.walk s.tile.sys.ptb va x.num with
      | .error fi => .error fi
      | .ok l =>
        match s.pkg.checkLeaf l.pte va l.big x with
        | .error fi => .error fi
        | .ok (pa, ca) =>
          let s := if pteScrub l.pte then s.scrubFrame l va else s
          let e : TlbEntry := ⟨l.big, pageNo l.big va, asid, l.pte &&& ~~~(1#64 <<< 60)⟩
          let s := s.mapOrd (fun o => if stream then { o with xtlb := tlbTake 128 e o.xtlb } else { o with tlb := tlbTake 128 e o.tlb })
          let s := s.updP (fun p => { p with l2tlb := l2tlbTake clus e p.l2tlb })
          .ok (s, pa, ca)
    match held with
    | none => walk
    | some e =>
      if Config.tlbKeep s.fresh then
        match s.pkg.checkLeaf (e.leaf va) va e.big x with
        | .error fi => .error fi
        | .ok (pa, ca) => .ok (s.draw, pa, ca)
      else
        match walk with
        | .ok (t, r) => .ok (t.draw, r)
        | .error fi => .error fi

/-- A translation through the TLBs. -/
def State.translate (s : State) (va : W64) (x : XAcc) : Try (State × Nat × Bool) := s.translateBy false va x

/-! ### Kinds of access -/

/-- The accesses of the memory words (R148, R185). -/
inductive AccKind where
  | ld | st | amo | ldc | stc | mark | cfl | cinv | mwait
deriving DecidableEq, Repr, Inhabited

/-- The permissions of R145 an access needs. -/
def AccKind.perms : AccKind → BitVec 12
  | .ld | .mwait | .cfl => 0x800
  | .st | .mark | .cinv => 0x400
  | .amo => 0xD00
  | .ldc => 0x880
  | .stc => 0x440

/-- Accesses that write bytes. -/
def AccKind.writes : AccKind → Bool
  | .st | .amo | .stc | .mark => true
  | _ => false

/-- The permission of R355 an access needs. -/
def AccKind.xacc : AccKind → XAcc
  | .ld | .ldc | .cfl | .mwait => .rd
  | .cinv => .inval
  | _ => .wr

/-- What a type allows at step 3 (R146, R184). -/
def AccKind.typeOk (k : AccKind) (t : Nat) : Bool :=
  match t with
  | 1 | 2 => true
  | 7 => k == .ld
  | 3 | 6 => k == .ld || k == .st || k == .amo || k == .ldc || k == .stc
  | _ => false

/-- A near address that the control core may use (R133, R134). -/
def coreNear (ntile a : Nat) : Bool :=
  decide (a < laneBase) || (decide (accBase ≤ a) && decide (a < accEnd))
    || (decide (clusterBase ≤ a) && decide (a < 2 * clusterBase) && decide ((a - clusterBase) / sliceSize < ntile))

/-- The address of class M (R148, R183): cursor, index, offset. -/
def memAddr (c : Cap) (index : W64) (sc : BitVec 2) (off : BitVec 14) : W64 :=
  c.cursor + (index <<< sc.toNat) + off.signExtend 64

/-- Step 5 of R148 on exact numbers: none if the access lies inside, else the address that EVAL names.
NEAR accesses are also held to the map (R134); POOL offsets run from 0 (R374). -/
def boundsFault (ntile : Nat) (c : Cap) (a : W64) (n : Nat) (k : AccKind) : Option W64 :=
  let lo := a.toNat
  match c.typ.toNat with
  | 3 => if lo + n > c.len.toNat then some a else none
  | 1 =>
    if lo < c.base.toNat ∨ lo + n > c.base.toNat + c.len.toNat ∨ lo + n > 0x2000000 then some a
    else if (k = .amo ∨ k = .mwait) ∧ accBase ≤ lo ∧ lo < accEnd then some a
    else ((List.range n).find? (fun i => !coreNear ntile (lo + i))).map (fun i => BitVec.ofNat 64 (lo + i))
  | _ => if lo < c.base.toNat ∨ lo + n > c.base.toNat + c.len.toNat then some a else none

/-- Steps 1 to 5 of R148. -/
def State.checkCap (s : State) (c : Cap) (a : W64) (n : Nat) (k : AccKind) : Try Unit :=
  if !c.tag then .error (at' .capTag a)
  else if c.typ == 4 || c.typ == 5 then .error (at' .sealedPath a)
  else if !k.typeOk c.typ.toNat then .error (at' .capType a)
  else if c.perm &&& k.perms != k.perms || c.tenant != s.tile.tenant then .error (at' .capPerm a)
  else
    match boundsFault s.tile.par.ntile.toNat c a n k with
    | some v => .error (at' .capBounds v)
    | none => .ok ()

/-- Step 6: alignment, and the widths of the accumulator window (R134). cfl and cinv need none. -/
def aligned (c : Cap) (a : W64) (n : Nat) (k : AccKind) : Bool :=
  k == .cfl || k == .cinv ||
    (a.toNat % n == 0 && (!(c.typ == 1 && decide (accBase ≤ a.toNat) && decide (a.toNat < accEnd)) || n == 4 || n == 8))

/-! ### Task rules (R159, R184) -/

/-- Whether R159 covers an access: NEAR outside the tile's own memories, or LOCAL. -/
def taskCovers (c : Cap) (a : W64) : Bool :=
  (c.typ == 1 && decide (clusterBase ≤ a.toNat)) || c.typ == 2

def State.inTask (s : State) : Bool := s.tile.par.kind != .single && s.tile.task.index.isSome

/-- An access inside one range of a list; near and virtual ranges are told apart by their base, but for the bounds of a
root (R326), which `virt` says name virtual addresses. -/
def inTaskRange (rs : List (Nat × Nat)) (virt near : Bool) (a n : Nat) : Bool :=
  rs.any (fun r => ((!virt && decide (r.1 < 0x2000000)) == near) && decide (r.1 ≤ a) && decide (a + n ≤ r.1 + r.2))

/-- An access inside the declared ranges of the running task: a write range, or for a read any (R159). -/
def TaskCtx.covers (t : TaskCtx) (wr near : Bool) (a n : Nat) : Bool :=
  inTaskRange t.wrs t.virt near a n || (!wr && inTaskRange t.rds t.virt near a n)

/-- The ILLEGAL_OPCODE of R159 for an atomic whose D is `d`. -/
def State.taskAtomic (s : State) (c : Cap) (a : W64) (k : AccKind) (d : Reg) : Try Unit :=
  if s.inTask && k == .amo && taskCovers c a then
    if d ≠ 0 then .error { code := .illegalOpcode }
    else if s.tile.task.deferred.length ≥ 256 then .error { code := .illegalOpcode, eval := some 256 }
    else .ok ()
  else .ok ()

def State.taskRange (s : State) (c : Cap) (a : W64) (n : Nat) (k : AccKind) : Try Unit :=
  if s.inTask && taskCovers c a then
    if s.tile.task.covers (k.writes || k == .cfl || k == .cinv) (c.typ == 1) a.toNat n then .ok ()
    else .error (at' .capBounds a)
  else .ok ()

/-! ### stc (R147, R184) -/

/-- Memory without tags, and a capability without G outside the tile's own scratchpad. -/
def State.stcCheck (s : State) (c : Cap) (a : W64) (k : AccKind) (stored : Cap) : Try Unit :=
  if k ≠ .stc then .ok ()
  else
    let untagged :=
      if c.typ == 1 then decide (accBase ≤ a.toNat) && decide (a.toNat < accEnd)
      else if c.typ == 2 then
        -- the translation that the access will use; its own faults come at step 7
        match s.translate a .wr with
        | .ok (t, pa, _) => !t.pkg.tagged pa
        | .error _ => false
      else false
    if untagged then .error (at' .capType a)
    else if c.typ != 3 && c.typ != 6 && !stored.perm.getLsbD 5 && !(c.typ == 1 && decide (a.toNat < laneBase)) then .error (at' .capPerm a)
    else .ok ()

/-! ### Declared buffers and rings (R154, R155, R212) -/

def Buf.lo (b : Buf) : Nat := 64 * b.base.toNat
def Buf.hi (b : Buf) : Nat := 64 * b.base.toNat + 64 * b.len.toNat

/-- The declared buffers that [lo, hi) of core scratchpad touches, lowest id first. -/
def Tile.bufsIn (t : Tile) (lo hi : Nat) : List (Nat × Buf) :=
  (t.bufs.toList.mapIdx (fun i b => (i, b))).filter (fun x => x.2.v && decide (x.2.lo < hi) && decide (lo < x.2.hi))

/-- Whether the control core may load, or store, in a buffer of a state (R155). -/
def coreBufOk (write : Bool) (st : BufSt) : Bool :=
  match st with
  | .empty => false
  | .filling => write
  | .full | .draining => !write

/-- BUF_STATE of a control-core access, by the states at its place in timestamp order: after every pending command. -/
def Tile.bufFault (t : Tile) (lo hi : Nat) (write : Bool) : Option W64 :=
  ((t.bufsIn lo hi).find? (fun x => (t.bufStAt x.1 (fun _ => true)).any (fun st => !coreBufOk write st))).map (fun x => BitVec.ofNat 64 x.1)

/-- A buffer whose state at the access's place is not settled: an earlier command will fault first. -/
def Tile.bufOpen (t : Tile) (lo hi : Nat) : Bool := (t.bufsIn lo hi).any (fun x => (t.bufStAt x.1 (fun _ => true)).isNone)

/-- Word size of a ring in bytes, and the ring of an engine (R207). -/
def engWordSize : Eng → Nat
  | .v | .m => 8
  | .x => 16

def Engs.ring (e : Engs) : Eng → Ring
  | .v => e.ringV | .m => e.ringM | .x => e.ringX

def Engs.setRing (e : Engs) (eg : Eng) (r : Ring) : Engs :=
  match eg with
  | .v => { e with ringV := r } | .m => { e with ringM := r } | .x => { e with ringX := r }

def Ring.cap (r : Ring) : Nat := 2 ^ r.q.toNat
/-- The near address of word n of the stream (R207). -/
def Ring.addr (r : Ring) (eg : Eng) (n : W32) : Nat := r.base.toNat + (n.toNat % r.cap) * engWordSize eg
/-- Words between RP and WP. -/
def Ring.used (r : Ring) : Nat := (r.wp - r.rp).toNat

/-- Whether [lo, hi) touches a ring word between RP and WP. -/
def Ring.touched (r : Ring) (eg : Eng) (lo hi : Nat) : Bool :=
  r.q != 0 &&
    (List.range ((hi - lo) / engWordSize eg + 2)).any (fun i =>
      let a := (lo / engWordSize eg + i) * engWordSize eg
      let b := r.base.toNat
      decide (lo < a + engWordSize eg) && decide (a < hi) && decide (b ≤ a) && decide (a < b + r.cap * engWordSize eg)
        && decide (((a - b) / engWordSize eg + r.cap - r.rp.toNat % r.cap) % r.cap < r.used))

/-- BUF_STATE of a store into a ring's pending words (R212). -/
def Tile.ringFault (t : Tile) (lo hi : Nat) : Option W64 :=
  if t.eng.ringV.touched .v lo hi then some 0x41
  else if t.eng.ringM.touched .m lo hi then some 0x42
  else if t.eng.ringX.touched .x lo hi then some 0x43
  else none

/-! ### Pool objects (R373 to R383) -/

/-- The directory entry of an object that is open on this package (R375). -/
def Package.object (p : Package) (obj : Nat) : Option DirEntry := p.dir.find? (fun d => d.valid && d.objid == obj)

/-- Whether the holder's own clock has passed a lease (R382): grant + LDUR − 2 µs. LDUR is in µs. -/
def leaseOver (grant ldur now : Nat) : Bool := decide (now + 2000 ≥ grant + 1000 * ldur)

def Frame.expired (f : Frame) (now : Nat) : Bool := leaseOver f.grant f.ldur now

/-- A fault of a pool access at an offset. -/
def poolFault (c : FaultCode) (obj : Nat) (a : W64) (write : Bool) : FaultInfo :=
  { code := c, eval := some a, page := some (obj, a.toNat / pageSize, write) }

/-- The pages that n bytes from an offset touch. -/
def pagesOf (off n : Nat) : List Nat := (List.range ((off + n - 1) / pageSize + 1 - off / pageSize)).map (fun i => off / pageSize + i)

/-- An uncorrectable error among n bytes of an object in resident frames (R339): POOL_MISS in a clean frame,
MEM_UNCORRECTABLE in another. -/
def State.objBad (s : State) (obj off n : Nat) (write : Bool) : Option FaultInfo :=
  (pagesOf off n).findSome? (fun g =>
    match s.pkg.frameOf obj g with
    | none => none
    | some f =>
      let lo := max off (g * pageSize)
      if s.pkg.eccIn (f.pa + lo % pageSize) (min (off + n) ((g + 1) * pageSize) - lo) then
        if s.frameClean f then some (poolFault .poolMiss obj (BitVec.ofNat 64 lo) write)
        else some (at' .memUncorrectable (BitVec.ofNat 64 lo))
      else none)

/-- The place in a resident frame (R376, R379): LEASE_LOST after the lease's local expiry (R383), POOL_MISS before it where a
refused renewal has dropped the frame (log 46), and LEASE_LOST to a package that has been removed from the pod (R399; log 112). -/
def Package.frameLoc (p : Package) (obj : Nat) (a : W64) (write : Bool) : Try Loc :=
  let page := a.toNat / pageSize
  match p.frameOf obj page with
  | none => .error (poolFault (if p.lostPages.any (fun x => x.1 == obj && x.2.1 == page && decide (x.2.2 ≤ p.time)) then .leaseLost else .poolMiss) obj a write)
  | some f =>
    if f.expired p.time || !p.member then .error (poolFault .leaseLost obj a write)
    else if write && !f.write then .error (poolFault .poolMiss obj a write)
    else .ok (.frame (f.pa + a.toNat % pageSize) obj a.toNat)

/-- The location of an access through a POOL capability (R376, R379, R383). -/
def State.poolLoc (s : State) (c : Cap) (a : W64) (n : Nat) (k : AccKind) : Try Loc :=
  let obj := c.base.toNat
  let write := k.writes
  if k = .ldc ∨ k = .stc then .error (at' .capType a)
  else
    match s.pkg.object obj with
    | none => .error (poolFault .poolMiss obj a write)
    | some d =>
      if s.pool.any (fun o => o.id == obj && o.direct != d.direct) then .error (at' .capType a)
      else if d.direct then
        if n = 8 then .ok (.direct obj a.toNat) else .error (at' .capType a)
      else if k = .amo then .error (at' .capType a)
      else
        match s.pkg.frameLoc obj a write with
        | .error fi => .error fi
        | .ok l =>
          match s.objBad obj a.toNat n write with
          | some fi => .error fi
          | none => .ok l

/-! ### The location of an access -/

/-- A memory and an address in it. -/
def Loc.key : Loc → Nat × Nat
  | .own a => (0, a)
  | .cluster t off => (1 + t, off)
  | .pkgMem pa _ => (257, pa)
  | .frame pa _ _ => (257, pa)
  | .direct obj off => (259 + obj, off)
  | .regs off => (258, off)

/-- Whether n bytes at a location and k bytes at another have a byte in common. -/
def Loc.meets (l : Loc) (n : Nat) (m : Loc) (k : Nat) : Bool :=
  l.key.1 == m.key.1 && decide (l.key.2 < m.key.2 + k) && decide (m.key.2 < l.key.2 + n)

/-- What the checks of an access answer. -/
inductive LocRes where
  | ok (s : State) (l : Loc)
  | hold
  | fault (fi : FaultInfo)

/-- The physical tile whose slice is that of logical tile t (R133). -/
def State.sliceOwner (s : State) (t : Nat) : Option Nat :=
  if t = s.tile.par.tile.toNat then some s.tile.phys
  else (s.pkg.launch s.tile.handle).bind (fun l => (l.place.find? (fun x => x.1 == s.tile.par.clus.toNat * 16 + t)).map (·.2))

/-- Whether a slice has been marked for the launch (R143). -/
def State.sliceBegun (s : State) (phys : Nat) : Bool :=
  phys == s.tile.phys || (match s.pkg.launch s.tile.handle with
    | some l => l.begun.contains phys
    | none => true)

/-- Steps 7 and 8 for an own or cluster address. A cfl or cinv there performs nothing (R196) and yet holds under R219 as a
load or a store does (log 141). -/
def State.nearLoc (s : State) (a : W64) (n : Nat) (k : AccKind) : LocRes :=
  let lo := a.toNat
  if lo < clusterBase then
    if (linesOf lo n).any (fun l => s.tile.near.ecc.contains l) then .fault (at' .memUncorrectable a)
    else if k.writes && meetsRanges s.tile.near.locked lo (lo + n) then .fault (at' .codeWrite a)
    else if s.nearBusy lo (lo + n) k.writes then .hold
    else
      match (if k.writes then s.tile.ringFault lo (lo + n) else none) with
      | some v => .fault (at' .bufState v)
      | none =>
        match (if k = .cfl ∨ k = .cinv then none else s.tile.bufFault lo (lo + n) k.writes) with
        | some v => .fault (at' .bufState v)
        | none => if k ≠ .cfl ∧ k ≠ .cinv ∧ s.tile.bufOpen lo (lo + n) then .hold else .ok s (.own lo)
  else
    let t := (lo - clusterBase) / sliceSize
    let off := (lo - clusterBase) % sliceSize
    match s.sliceOwner t with
    | none => .fault (at' .capBounds a)
    | some phys =>
      if !s.sliceBegun phys then .hold
      else if ((s.tileAt phys).elim [] (fun x => x.near.ecc)).any (fun l => (linesOf (clusterBase + off) n).contains l) then .fault (at' .memUncorrectable a)
      else if s.nearBusy lo (lo + n) k.writes then .hold
      else .ok s (.cluster phys off)

/-- The location of a physical address. -/
def Package.locOf (p : Package) (pa : Nat) (ca : Bool) : Loc :=
  match p.paKind pa with
  | .regs => .regs (pa - 0x20000000000)
  | _ => .pkgMem pa ca

/-- Held stores of the running task in the page of a virtual address stand where the page stands now: a load finds them
through the mapping that it has used itself (R159). -/
def State.reheld (s : State) (va : W64) (pa : Nat) (ca : Bool) : State :=
  if !s.inTask then s
  else s.mapTask (fun t => { t with held := t.held.map (fun h =>
    if 0x2000000 ≤ h.addr.toNat ∧ h.addr.toNat / pageSize = va.toNat / pageSize
    then { h with loc := s.pkg.locOf (pa / pageSize * pageSize + h.addr.toNat % pageSize) ca } else h) })

/-- A translated access; an uncorrectable error is MEM_UNCORRECTABLE (R339). -/
def State.virtLoc (s : State) (a : W64) (n : Nat) (k : AccKind) : LocRes :=
  match s.translate a k.xacc with
  | .error fi => .fault fi
  | .ok (s, pa, ca) =>
    if (linesOf pa n).any (fun l => s.pkg.ecc.contains l) then .fault (at' .memUncorrectable a)
    else .ok (s.reheld a pa ca) (s.pkg.locOf pa ca)

/-- The place of a held effect of a task, by its address (R159: one below 2^25 is a near address). A virtual one is
translated when the effect performs, so that no old mapping is used (R359, log 104). -/
def State.taskPlace (s : State) (a : W64) : Try (State × Loc) :=
  if a.toNat < 0x2000000 then
    match s.sliceOwner ((a.toNat - clusterBase) / sliceSize) with
    | some p => .ok (s, .cluster p ((a.toNat - clusterBase) % sliceSize))
    | none => .error (at' .capBounds a)
  else
    match s.translate a .wr with
    | .error fi => .error fi
    | .ok (s, pa, ca) => .ok (s, s.pkg.locOf pa ca)

/-- An access to a pool object. -/
def State.poolAccess (s : State) (c : Cap) (a : W64) (n : Nat) (k : AccKind) : LocRes :=
  match s.poolLoc c a n k with
  | .error fi => .fault fi
  | .ok l => .ok s l

/-- All checks of R148 and R184, in order: the location of an access of n bytes at a through c. -/
def State.locate (s : State) (c : Cap) (a : W64) (n : Nat) (k : AccKind) (d : Reg) (stored : Cap) : LocRes :=
  match s.checkCap c a n k with
  | .error fi => .fault fi
  | .ok _ =>
  match s.taskAtomic c a k d with
  | .error fi => .fault fi
  | .ok _ =>
  if !aligned c a n k then .fault (at' .misaligned a)
  else
    match s.stcCheck c a k stored with
    | .error fi => .fault fi
    | .ok _ =>
    match s.taskRange c a n k with
    | .error fi => .fault fi
    | .ok _ =>
    match c.typ.toNat with
    | 1 => s.nearLoc a n k
    | 3 => s.poolAccess c a n k
    | 6 => .fault (at' .capType a)
    | _ => s.virtLoc a n k

/-! ### The operation of a word over a location -/

/-- A memory word: the access is located, then performed or queued. -/
def LocRes.run (r : LocRes) (s : State) (f : State → Loc → OpRes) : OpRes :=
  match r with
  | .ok t l => f t l
  | .hold => .hold s
  | .fault fi => .fault fi

/-- Whether the access is held back until the task commits (R159). -/
def State.holdsBack (s : State) (l : Loc) : Bool :=
  s.inTask && (match l with | .cluster _ _ | .pkgMem _ _ | .regs _ => true | _ => false)

/-! ### Fetch (R25 step 1, R30, R139) -/

/-- What a fetch answers: the state after translation and the word, or the fault of the fetch. -/
def State.fetch (s : State) : Try (State × W64) :=
  let pc := s.tile.core.pc
  let c := s.tile.fetch
  if !c.tag || c.typ != 7 || !c.perm.getLsbD 9 || decide (pc.toNat < c.base.toNat) || decide (pc.toNat + 8 > c.base.toNat + c.len.toNat) then
    .error (at' .capBounds pc)
  else
    match s.translate pc .ex with
    | .error fi => .error fi
    | .ok (t, pa, _) =>
      if t.pkg.ecc.contains (pa / 64) then .error (at' .memUncorrectable pc)
      else .ok (t, leWord (t.pkg.homeN pa 8))

end Sys2Proof.Machine
end

