-- ==== Sys2Proof/Machine/Stream.lean ====
section
/-! DEFINITION. The streams of the engines (R206 to R236): ring words, pending commands, the start of
a command (R214, R216, R219 to R221), its completion (R217), its fault (R228, R335), and the near
accesses that every engine makes. -/

namespace Sys2Proof.Machine

/-! ### Ring words (R207) -/

/-- Word n of a stream, read from core scratchpad. -/
def State.ringWord (s : State) (eg : Eng) (n : W32) : BitVec 128 :=
  BitVec.ofNat 128 (leNat (s.tile.near.readN ((s.tile.eng.ring eg).addr eg n) (engWordSize eg)))

/-- The words from n up to WP, at most k of them. -/
def State.ringWords (s : State) (eg : Eng) (n : W32) (k : Nat) : List (BitVec 128) :=
  (List.range (min k ((s.tile.eng.ring eg).wp - n).toNat)).map (fun i => s.ringWord eg (n + BitVec.ofNat 32 i))

/-- The first of k words of a stream that stands in a line with an uncorrectable error (R339): its near address. -/
def State.ringEcc (s : State) (eg : Eng) (n : W32) (k : Nat) : Option W64 :=
  (List.range k).findSome? (fun i =>
    let a := (s.tile.eng.ring eg).addr eg (n + BitVec.ofNat 32 i)
    if s.tile.near.ecc.contains (a / 64) then some (BitVec.ofNat 64 a) else none)

/-- A command of a stream from its words. -/
def decodeEng (eg : Eng) (ws : List (BitVec 128)) : Except DecodeError Instr :=
  match eg with
  | .v => decodeV (ws.map (fun w => w.extractLsb' 0 64))
  | .m => match ws with
    | [] => .error .moreWords
    | w :: _ => decodeMx (w.extractLsb' 0 64)
  | .x => decodeX ws

/-- How many words a command takes, and its PRED field, by its first word (R206, 10). -/
def cmdWords (eg : Eng) (w : BitVec 128) : Nat :=
  match eg with
  | .v => vWords (w.extractLsb' 0 64)
  | .m => 1
  | .x => xWords w

def cmdPred (eg : Eng) (w : BitVec 128) : BitVec 4 :=
  match eg with
  | .v => w.extractLsb' 40 4
  | .m => w.extractLsb' 42 4
  | .x => w.extractLsb' 104 4

/-- Near address of a command's first word (R228). -/
def State.cmdAddr (s : State) (eg : Eng) (n : W32) : W64 := BitVec.ofNat 64 ((s.tile.eng.ring eg).addr eg n)

/-! ### Pending commands -/

def Engs.cmd (e : Engs) (eg : Eng) (n : W32) : Option Cmd := e.cmds.find? (fun c => c.eng == eg && c.idx == n)

def Engs.updCmd (e : Engs) (eg : Eng) (n : W32) (f : Cmd → Cmd) : Engs :=
  { e with cmds := e.cmds.map (fun c => if c.eng = eg ∧ c.idx = n then f c else c) }

def State.updCmd (s : State) (eg : Eng) (n : W32) (f : Cmd → Cmd) : State := s.mapEng (fun e => e.updCmd eg n f)

/-- The declared buffers: id, first byte, end. -/
def Tile.decls (t : Tile) : List (Nat × Nat × Nat) :=
  ((t.bufs.toList.mapIdx (fun i b => (i, b))).filter (fun x => x.2.v)).map (fun x => (x.1, x.2.lo, x.2.hi))

/-- The record of the command at an index; a command that nothing appended is taken as appended now. -/
def State.cmdAt (s : State) (eg : Eng) (n : W32) (pred : BitVec 4) : Cmd :=
  (s.tile.eng.cmd eg n).getD
    { eng := eg, idx := n, words := 1, ts := s.tile.eng.ts, predTrue := s.predField pred, rngs := [], decls := s.tile.decls }

/-- The command has its record in the list. -/
def State.keepCmd (s : State) (c : Cmd) : State :=
  s.mapEng (fun e => if (e.cmd c.eng c.idx).isSome then e.updCmd c.eng c.idx (fun _ => c) else { e with cmds := e.cmds ++ [c] })

def Engs.stop (e : Engs) : Eng → Option W32
  | .v => e.stopV | .m => e.stopM | .x => e.stopX

def Engs.setStop (e : Engs) (eg : Eng) (v : Option W32) : Engs :=
  match eg with
  | .v => { e with stopV := v } | .m => { e with stopM := v } | .x => { e with stopX := v }

def Engs.seqOf (e : Engs) : Eng → W32
  | .v => e.seqV | .m => e.seqM | .x => e.seqX

def Engs.setSeq (e : Engs) (eg : Eng) (v : W32) : Engs :=
  match eg with
  | .v => { e with seqV := v } | .m => { e with seqM := v } | .x => { e with seqX := v }

/-- Loader-placed commands have timestamps below this one (R219). -/
def firstTs : Nat := 2 ^ 20

/-- A command stands before another in timestamp order (R219). -/
def Cmd.before (d c : Cmd) : Bool := decide (d.ts < c.ts) && !(decide (c.ts < firstTs) && d.eng != c.eng)

/-- Two range sets overlap with a write among them. -/
def rngsMeet (a b : List Rng) : Bool :=
  a.any (fun x => b.any (fun y => decide (x.lo < y.hi) && decide (y.lo < x.hi) && (x.wr || y.wr)))

/-- The SEMW field of a command, by its first word. -/
def cmdSemw (eg : Eng) (w : BitVec 128) : BitVec 6 :=
  match eg with
  | .v => w.extractLsb' 50 6
  | .m => w.extractLsb' 52 6
  | .x => w.extractLsb' 114 6

/-- A command that waits for a semaphore at zero, or stands in its stream behind one that does (R216). -/
def State.semStuck (s : State) (d : Cmd) : Bool :=
  s.tile.eng.cmds.any (fun e => e.eng == d.eng && !e.waited && decide ((d.idx - e.idx).toNat < 2 ^ 31) &&
    (let n := cmdSemw e.eng (s.ringWord e.eng e.idx); n != 0x3F && s.tile.eng.sems[n.toNat % 32] == 0))

/-- R219: an earlier command that has not completed overlaps. Loader-placed commands of different
streams are not ordered, and an appended one does not stand behind a loader-placed one of another stream that a
semaphore still holds: R438 gives that edge to the semaphore (log 127). -/
def State.cmdBlocked (s : State) (c : Cmd) : Bool :=
  s.tile.eng.cmds.any (fun d => !d.done && d.predTrue && d.before c && rngsMeet c.rngs d.rngs
    && !(decide (d.ts < firstTs) && decide (firstTs ≤ c.ts) && d.eng != c.eng && s.semStuck d))

/-- Bytes of the cluster memory that an access of the core's queues or channels touches, as near
addresses, with whether it writes (R168, R219). -/
def State.clusterRng (s : State) (phys off n : Nat) (wr : Bool) : Rng :=
  let t := ((List.range 16).find? (fun i => s.sliceOwner i == some phys)).getD 16
  let a := clusterBase + t * sliceSize + off
  ⟨a, a + n, wr⟩

def State.qRng (s : State) (op : QOp) : List Rng :=
  match op with
  | .load (.cluster t off) n _ _ => [s.clusterRng t off n false]
  | .loadCap (.cluster t off) _ => [s.clusterRng t off 32 false]
  | .loadWait (.cluster t off) _ _ => [s.clusterRng t off 8 false]
  | .store (.cluster t off) bs _ _ => [s.clusterRng t off bs.length true]
  | .amo (.cluster t off) _ _ _ _ _ _ _ => [s.clusterRng t off 8 true]
  | _ => []

/-- An earlier access of the control core to the same cluster bytes is still under way. -/
def State.queueBlocks (s : State) (rs : List Rng) : Bool :=
  let me := s.tile.phys
  let ops := (s.tile.ord.lq ++ s.tile.ord.sq).map (·.op) ++ (s.pkg.chans.filter (fun c => c.src == me)).map (·.e.op)
  rngsMeet (ops.flatMap s.qRng) rs

/-- A command waits for the marking of a slice it touches (R143). -/
def State.unmarked (s : State) (rs : List Rng) : Bool :=
  (List.range 16).any (fun t =>
    rs.any (fun r => decide (r.lo < clusterBase + (t + 1) * sliceSize) && decide (clusterBase + t * sliceSize < r.hi))
      && (match s.sliceOwner t with
          | some p => !s.sliceBegun p
          | none => false))

/-! ### Near accesses of engines -/

/-- A near address of the map, the lane window included, in a slice of the launch (R133, R213). -/
def engNear (ntile a : Nat) : Bool := coreNear ntile a || (decide (laneBase ≤ a) && decide (a < laneBase + 0x800))

/-- The first address of n bytes that lies in a hole or in a slice outside the launch. -/
def State.nearHole (s : State) (a n : Nat) : Option Nat :=
  ((List.range n).find? (fun i => !engNear s.tile.par.ntile.toNat (a + i))).map (a + ·)

/-- Bytes of the near space as an engine reads them, inside one slice or one local memory. -/
def State.nearN (s : State) (a n : Nat) : List Byte :=
  if a < clusterBase then s.tile.near.readN a n
  else
    match s.sliceOwner ((a - clusterBase) / sliceSize) with
    | some p => s.sliceN p ((a - clusterBase) % sliceSize) n
    | none => List.replicate n 0

/-- Near lines with an uncorrectable error that an access meets (R339). -/
def State.nearEcc (s : State) (a n : Nat) : Bool :=
  if a < clusterBase then (linesOf a n).any (fun l => s.tile.near.ecc.contains l)
  else
    match (s.sliceOwner ((a - clusterBase) / sliceSize)).bind s.tileAt with
    | some t => (linesOf (clusterBase + (a - clusterBase) % sliceSize) n).any (fun l => t.near.ecc.contains l)
    | none => false

/-- An engine write: monitors on the line wake (R180, R194), tags clear, and with `raw` the kinds of
the blocks it touches become RAW (R297). -/
def State.nearPut (s : State) (a : Nat) (bs : List Byte) (raw : Bool) : State :=
  if a < clusterBase then
    let s := s.mapNear (fun n => if raw then n.store a bs else n.writeN a bs)
    (linesOf a bs.length).foldl (fun s l =>
      s.mapOrd (fun o => { o with mon := o.mon.map (fun m =>
        match m.loc with
        | .own b => if b / 64 = l then { m with woken := true } else m
        | _ => m) })) s
  else
    match s.sliceOwner ((a - clusterBase) / sliceSize) with
    | some p => s.storeSlice p ((a - clusterBase) % sliceSize) bs none true
    | none => s

/-! ### Path queues (R162, R176) -/

/-- Cluster memory and package memory: what engine accesses reach through the path queue of their class. -/
def Loc.shared : Loc → Bool
  | .own a => decide (clusterBase ≤ a)
  | .pkgMem _ _ | .frame _ _ _ => true
  | _ => false

/-- The path class of a command (R176): V, M-fill, and of X gather, collective and local. -/
def Cmd.pathNo (c : Cmd) : Nat :=
  match c.eng with
  | .v => 0
  | .m => 1
  | .x =>
    match ((c.raw.headD 0).extractLsb' 120 8).toNat with
    | 0x03 | 0x04 => 3
    | 0x87 => 4
    | _ => 2

/-- Two places stand in one aligned 8-byte word (R171). -/
def Loc.sameWord (l m : Loc) : Bool := l.key.1 == m.key.1 && l.key.2 / 8 == m.key.2 / 8

/-- Bytes at a place with queued writes laid over them in order. -/
def overWrites (ws : List (Loc × List Byte)) (l : Loc) (bs : List Byte) : List Byte :=
  ws.foldl (fun bs w =>
    if l.meets bs.length w.1 w.2.length then
      bs.mapIdx (fun i b => if w.1.key.2 ≤ l.key.2 + i then w.2.getD (l.key.2 + i - w.1.key.2) b else b)
    else bs) bs

/-- The queued writes of a command. -/
def Engs.writesOf (e : Engs) (eg : Eng) (n : W32) : List (Loc × List Byte) := (e.cmd eg n).elim [] (·.writes)

/-- A write of a command: in tile-local memory it performs at once (R168), elsewhere it enters the path queue. -/
def State.queueWrite (s : State) (eg : Eng) (n : W32) (l : Loc) (bs : List Byte) : State :=
  if l.shared then s.updCmd eg n (fun c => { c with writes := c.writes ++ [(l, bs)] })
  else
    match l with
    | .own a => s.nearPut a bs (eg == .v)
    | _ => s

/-- The queued writes `rest` are left of a command; one that has run has performed when none is. -/
def Cmd.wrote (c : Cmd) (rest : List (Loc × List Byte)) : Cmd :=
  if rest.isEmpty ∧ c.started then { c with writes := [], performed := true, raw := [] } else { c with writes := rest }

/-- The address checks of an engine access of n bytes: holes, uncorrectable errors, write locks
(R213, R339, R353). -/
def State.nearCheck (s : State) (a n : Nat) (wr : Bool) : Try Unit :=
  match s.nearHole a n with
  | some h => .error { code := .capBounds, eval := some (BitVec.ofNat 64 h) }
  | none =>
    if s.nearEcc a n then .error { code := .memUncorrectable, eval := some (BitVec.ofNat 64 a) }
    else if wr && meetsRanges s.tile.near.locked a (a + n) then .error { code := .codeWrite, eval := some (BitVec.ofNat 64 a) }
    else .ok ()

/-! ### Faults of a stream (R228, R335, R337) -/

/-- CAUSE, EPC, EVAL and EFAULT of an engine fault (R228, R211). -/
def State.writeEFault (s : State) (eg : Eng) (n : W32) (fi : FaultInfo) (epc : W64) : State :=
  (s.writeCause fi epc).mapSys (fun y => { y with efault := (engCode eg).zeroExtend 64 <<< 62 ||| n.zeroExtend 64 })

/-- Whether a stream's fault may be delivered: for X, once every started command has completed or
faulted (R335). -/
def Engs.deliverable (e : Engs) (f : EFault) : Bool :=
  f.eng != .x || !e.cmds.any (fun c => c.eng == .x && c.started && !c.performed && !e.faults.any (fun g => g.eng == .x && g.idx == c.idx))

/-- The fault that is delivered next: the first that occurred, and of X the one with the lowest ring
index. -/
def Engs.nextFault (e : Engs) : Option EFault :=
  (e.faults.find? e.deliverable).map (fun f =>
    if f.eng = .x then
      e.faults.foldl (fun b g => if g.eng = .x ∧ (b.idx - g.idx).toNat < 2 ^ 31 ∧ b.idx ≠ g.idx then g else b) f
    else f)

/-- Once the control core has applied END, the fault that would be delivered is fatal (R335). -/
def State.endedFault (s : State) : Option State :=
  if s.tile.disp.run ≠ .ended then none
  else s.tile.eng.nextFault.map (fun f => (s.writeEFault f.eng f.idx { code := f.code, eval := some f.eval } f.epc).fatal f.code f.epc)

/-- The fault of the command at index n of a stream: an abort of the running task, the end of the
launch, or a stopped stream whose fault waits for delivery. Of a task that is gone the faulted command does nothing more
(R337 step 3). -/
def State.engFault (s : State) (eg : Eng) (n : W32) (fi : FaultInfo) : State :=
  let epc := s.cmdAddr eg n
  let s := s.dropBad fi
  match fi.code.kind with
  | .trap | .abort =>
    if s.tile.disp.run = .between then s.mapEng (fun e => { e with cmds := e.cmds.filter (fun c => !(c.eng == eg && c.idx == n)) })
    else if fi.code.kind = .abort ∧ s.inTask then
      (s.mapSys (fun y => { y with efault := (engCode eg).zeroExtend 64 <<< 62 ||| n.zeroExtend 64 })).abortTask fi epc
    else
      let s := s.mapEng (fun e =>
        let e := e.setStop eg (some (match e.stop eg with
          | some m => if (n - m).toNat < 2 ^ 31 then m else n
          | none => n))
        { e with faults := e.faults ++ [{ eng := eg, idx := n, epc := epc, code := fi.code, eval := fi.eval.getD (Config.openWord s.fresh) }] })
      let s := if fi.eval.isNone then s.draw else s
      s.endedFault.getD s
  | _ => (s.writeEFault eg n fi epc).fatal fi.code epc

/-! ### Start of a command -/

/-- What the work of a command answers: all accesses performed; started with accesses outstanding;
not yet; part of its way, which `left` counts, and waiting; a fault with nothing done; a fault after earlier steps (R293).
A command of M that waits stands at RP. One of X or V has started: RP passes it (R207), and it tries again. -/
inductive EngRes where
  | done (s : State)
  | flight (s : State)
  | hold
  | stall (s : State) (left : Nat)
  | fault (fi : FaultInfo)
  | part (s : State) (fi : FaultInfo)

/-- A command as its engine starts it. `bad` is its decode fault of R214 steps 3 to 5, `acc` the near
bytes it reads and writes for R220 (none for an M command, whose steps have their own checks, R293), `sds` the
descriptors it names (R221), `ready` whether nothing of the matrix engine holds it at RP, `chk` the address checks
that come before the buffer states (R269, R312), `run` its work, told whether it is predicated true. -/
structure EngOp where
  semw : BitVec 6
  semr : BitVec 6
  pred : BitVec 4
  words : Nat
  bad : Option FaultInfo := none
  acc : List Rng := []
  sds : List (BitVec 4) := []
  ready : State → Cmd → Bool := fun _ _ => true
  chk : State → Option FaultInfo := fun _ => none
  run : State → Cmd → EngRes

/-- SEMW and SEMR values that name no semaphore (R214 step 2). -/
def badSem (v : BitVec 6) : Bool := decide (0x20 ≤ v.toNat) && v != 0x3F

/-- A wait of a command with timestamp `ts` may be satisfied: the count is above zero, and no stream
waits at its RP for the same semaphore with an earlier timestamp (R216). -/
def State.semFree (s : State) (n : BitVec 6) (eg : Option Eng) (ts : Nat) : Bool :=
  s.tile.eng.sems[n.toNat % 32] != 0 &&
    !([Eng.v, .m, .x] : List Eng).any (fun d => some d != eg && (s.tile.eng.stop d).isNone &&
      (match s.tile.eng.cmd d (s.tile.eng.ring d).rp with
       | some c => c.whole && !c.waited && decide (c.ts < ts) && (s.ringWords d c.idx 1).any (fun w => cmdSemw d w == n)
       | none => false))

def State.setSem (s : State) (n : Nat) (f : BitVec 16 → BitVec 16) : State :=
  s.mapEng (fun e => { e with sems := Vector.ofFn (fun i => if i.val = n then f e.sems[i] else e.sems[i]) })

/-- A semaphore of any tile of the package raised. -/
def State.raiseAt (s : State) (phys : Nat) (n : BitVec 6) : State :=
  s.updTile phys (fun t => { t with eng := { t.eng with sems := Vector.ofFn (fun i => if i.val = n.toNat then t.eng.sems[i] + 1 else t.eng.sems[i]) } })

/-- The buffers of a list of declarations that accesses touch: each with whether it is read and written (R220). -/
def bufUses (decls : List (Nat × Nat × Nat)) (acc : List Rng) : List (Nat × Bool × Bool) :=
  decls.filterMap (fun x =>
    let hit (wr : Bool) := acc.any (fun r => r.wr == wr && decide (r.lo < x.2.2) && decide (x.2.1 < r.hi))
    if hit false || hit true then some (x.1, hit false, hit true) else none)

/-- BUF_STATE at the start of a command (R155, R220), by the states that the commands before it leave. -/
def Tile.bufStartFault (t : Tile) (before : Cmd → Bool) (uses : List (Nat × Bool × Bool)) : Option W64 :=
  (uses.find? (fun u =>
    (u.2.1 && u.2.2) || (t.bufStAt u.1 before).any (fun st => if u.2.2 then st != .empty else st != .full))).map (fun u => BitVec.ofNat 64 u.1)

/-- An earlier command with a role on one of the buffers has not completed: the command takes the buffers after it. -/
def Tile.bufWaits (t : Tile) (before : Cmd → Bool) (uses : List (Nat × Bool × Bool)) : Bool := uses.any (fun u => !(t.eng.users u.1 before).isEmpty)

def Tile.setBufSt (t : Tile) (id : Nat) (st : BufSt) : Tile :=
  { t with bufs := Vector.ofFn (fun i => if i.val = id then { t.bufs[i] with st := st } else t.bufs[i]) }

/-- The buffers taken at the start of a command. -/
def State.takeBufs (s : State) (uses : List (Nat × Bool × Bool)) : State :=
  uses.foldl (fun s u => s.updT (fun t => t.setBufSt u.1 (if u.2.2 then .filling else .draining))) s

/-- RP moves past a command (R207). -/
def State.passRp (s : State) (eg : Eng) (words : Nat) : State :=
  s.mapEng (fun e => let r := e.ring eg; e.setRing eg { r with rp := r.rp + BitVec.ofNat 32 words })

/-- A command that starts without a fault: its record as it then stands. -/
def Cmd.begin (c : Cmd) (op : EngOp) (uses : List (Nat × Bool × Bool)) : Cmd :=
  { c with words := op.words, waited := true, began := true, started := true, semr := op.semr, sds := op.sds,
           prod := (uses.filter (fun u => u.2.2)).map (fun u => BitVec.ofNat 6 u.1),
           cons := (uses.filter (fun u => !u.2.2)).map (fun u => BitVec.ofNat 6 u.1) }

/-- The record `d` of a command after its work: what the work itself left in the list's record stays. -/
def Engs.joined (e : Engs) (d : Cmd) : Cmd :=
  match e.cmd d.eng d.idx with
  | some x => { d with raw := x.raw, left := x.left, pos := x.pos, rngs := x.rngs, rsem := x.rsem, rbufs := x.rbufs, move := x.move, sq := x.sq, got := x.got,
                       held := x.held, writes := x.writes,
                       prod := if x.prod.isEmpty then d.prod else x.prod, cons := if x.cons.isEmpty then d.cons else x.cons }
  | none => d

/-- OFFSET advances by POST, and the scales of a scaled stream by as many groups (R223, R241). -/
def Sd.advance (d : Sd) : Sd :=
  let post : Int := (d.w[3].extractLsb' 0 32).toInt
  let add (w : W64) (k : Int) : W64 := (w &&& ~~~(0xFFFFFFFFFF#64)) ||| (w.extractLsb' 0 40 + BitVec.ofInt 40 k).zeroExtend 64
  let b : Int := ((etyOfFmt (d.w[0].extractLsb' 56 4).toNat).elim 8 ETy.bits : Nat)
  let ws : Int := match (d.w[0].extractLsb' 54 2).toNat with
    | 0 => 0 | 2 => 2 | _ => 1
  { d with w := (d.w.set 0 (add d.w[0] post)).set 2 (add d.w[2] (8 * post / (32 * b) * ws)) }

/-- The descriptors a command names advance, each once (R223). -/
def State.advanceSds (s : State) (sds : List (BitVec 4)) : State :=
  sds.eraseDups.foldl (fun s d => s.mapEng (fun e => { e with sds := e.sds.set d.toFin (e.sds[d.toFin]).advance })) s

/-- A command that has run: it has performed, or its queued writes are still to perform, with the words and the token of
its start. -/
def Cmd.ran (c : Cmd) (words : List (BitVec 128)) (tok : W64) : Cmd :=
  if c.writes.isEmpty then { c with performed := true, raw := [] } else { c with raw := if c.eng = .m then [] else words, tok := tok }

/-- The command of a stream that `n` names runs: R214, R216, R219, R220, then its work. `again` is a
started command that tries again, or one of X that runs once more after a fault (R335). -/
def State.runCmd (s : State) (eg : Eng) (n : W32) (again : Bool) (op : EngOp) : State :=
  let c := s.cmdAt eg n op.pred
  if badSem op.semw || badSem op.semr then s.engFault eg n { code := .illegalOpcode }
  else
    match op.bad with
    | some fi => s.engFault eg n fi
    | none =>
      let wait := op.semw != 0x3F && !c.waited
      if wait && !s.semFree op.semw (some eg) c.ts then s
      else
        let s := if wait then s.setSem (op.semw.toNat) (· - 1) else s
        let c := { c with waited := true }
        let s := s.keepCmd c
        let pass (s : State) : State := if again then s else s.passRp eg op.words
        if !c.predTrue then
          match op.run s c with
          -- the descriptors advance as it passes (R223)
          | .done t => ((pass t).advanceSds op.sds).keepCmd { (c.begin { op with sds := [] } []) with performed := true }
          | .stall t k => (pass t).keepCmd { (c.begin { op with sds := [] } []) with left := k, raw := if again then c.raw else s.ringWords eg n op.words }
          | _ => s
        else if s.cmdBlocked c || s.queueBlocks c.rngs || s.unmarked c.rngs || !op.ready s c then s
        else
          let uses := if c.began then [] else bufUses c.decls op.acc
          -- a started command keeps the capability registers and the token of its start (R213, R426)
          let regs := s.tile.caps
          let ptok := s.tile.sys.ptok
          let s := s.updT (fun t => { t with caps := c.caps.getD regs, sys := { t.sys with ptok := if c.caps.isSome then c.tok else ptok } })
          let back (t : State) : State := t.updT (fun x => { x with caps := regs, sys := { x.sys with ptok := ptok } })
          -- a V command has made its checks before its first push (R269)
          match (if eg = .v ∧ again then none else op.chk s), s.tile.bufStartFault (·.before c) uses with
          | some fi, _ => ((back s).updCmd eg n (fun x => { x with caps := none })).engFault eg n fi
          | none, some v => (back s).engFault eg n { code := .bufState, eval := some v }
          | none, none =>
            if s.tile.bufWaits (·.before c) uses then back s
            else
            let d := if c.began then { c with started := true } else c.begin op uses
            let words := if again then d.raw else s.ringWords eg n op.words
            -- a command that waits: of X and V one that has started
            let waiting (t : State) (k : Nat) : State :=
              if eg = .m then ((back t).takeBufs uses).keepCmd { (t.tile.eng.joined d) with started := false, left := k, caps := some s.tile.caps, tok := s.tile.sys.ptok }
              else
                (pass ((back t).takeBufs uses)).keepCmd { (t.tile.eng.joined d) with left := k, raw := words, caps := some s.tile.caps, tok := s.tile.sys.ptok, tried := true }
            match op.run s d with
            | .hold => if eg = .x then waiting s 0 else back s
            | .stall t k => waiting t k
            | .fault fi => ((back s).updCmd eg n (fun x => { x with caps := none })).engFault eg n fi
            | .part t fi => (((back t).takeBufs uses).keepCmd { (t.tile.eng.joined d) with started := again, caps := none }).engFault eg n fi
            | .done t => (pass ((back t).takeBufs uses)).keepCmd ((t.tile.eng.joined d).ran words s.tile.sys.ptok)
            | .flight t => (pass ((back t).takeBufs uses)).keepCmd { (t.tile.eng.joined d) with raw := words, tok := s.tile.sys.ptok }

/-- A started X command that waits for its first access, or that runs again after a fault (R335). -/
def Engs.waits (e : Engs) (c : Cmd) : Bool :=
  c.eng == .x && c.started && !c.performed && !c.done && c.left == 0 && c.move.isNone && c.writes.isEmpty
    && !e.faults.any (fun f => f.eng == .x && f.idx == c.idx)

/-- The engine starts no new command: a context word or a handler has the streams (R335, R368), a debugger holds them
(R348), the stream has stopped, or the launch's work on the tile is over. Commands that have started go on. -/
def State.barred (s : State) (eg : Eng) : Bool :=
  s.tile.eng.settling || (s.tile.sys.dbgctl.getLsbD 1 && s.tile.sys.dbgctl.getLsbD 3) || (s.tile.eng.stop eg).isSome
    || !(s.tile.disp.run == .running || s.tile.disp.run == .ended)

/-- The started command that tries next. Of X those that have tried in this round come after the command at RP, or
after all others where that may not start; on a stream that a fault has stopped the others go on until the fault is
delivered (R335). Of V it is a v.cmp that waits for room in the condition queue (R272). -/
def State.rerun (s : State) (eg : Eng) : Option Cmd :=
  let e := s.tile.eng
  match eg with
  | .x =>
    if e.stopX.isSome && !e.faults.any (fun f => f.eng == .x) then none
    else (e.cmds.find? (fun c => e.waits c && !c.tried)).or (if s.barred .x then e.cmds.find? e.waits else none)
  | .v => e.cmds.find? (fun c => c.eng == .v && c.started && !c.performed && !c.done && c.writes.isEmpty)
  | .m => none

/-- x.fence, x.wait and x.sfence hold every later X command back until they complete (R319, R320, R437). -/
def isMarkWord (w : BitVec 128) : Bool := [0x06, 0x07, 0x89].contains (w.extractLsb' 120 8).toNat

def Engs.heldBack (e : Engs) : Bool := e.cmds.any (fun c => e.waits c && isMarkWord (c.raw.headD 0))

/-- A new round for the waiting X commands. -/
def Engs.newRound (e : Engs) : Engs := { e with cmds := e.cmds.map (fun c => { c with tried := false }) }

/-- The stream's next command runs. -/
def State.engCommand (s : State) (eg : Eng) (op : EngOp) : Host.Outcome State Fault Refusal :=
  match s.rerun eg with
  | some c => .next ((if eg = .x ∧ c.tried then s.mapEng Engs.newRound else s).runCmd eg c.idx true op)
  | none =>
    let s := if eg = .x then s.mapEng Engs.newRound else s
    if eg = .x ∧ s.tile.eng.heldBack then .next s else .next (s.runCmd eg (s.tile.eng.ring eg).rp false op)

/-! ### Completion (R217, R220, R223) -/

/-- The engine's completion word (R209). -/
def completionAt : Eng → Nat
  | .v => 0x1EFFC0 | .m => 0x1EFFC4 | .x => 0x1EFFC8

/-- S counts the completed prefix of the stream (R217); each increase reaches the completion word. -/
def State.countSeq (s : State) (eg : Eng) : State :=
  let mine := s.tile.eng.cmds.filter (fun c => c.eng == eg)
  let k := (mine.takeWhile (·.done)).length
  if k = 0 then s
  else
    let gone := (mine.take k).map (·.idx)
    let s := s.mapEng (fun e => { (e.setSeq eg (e.seqOf eg + BitVec.ofNat 32 k)) with
      cmds := e.cmds.filter (fun c => !(c.eng == eg && gone.contains c.idx)) })
    s.nearPut (completionAt eg) (leBytes 4 (s.tile.eng.seqOf eg).toNat) true

/-- A command whose accesses have all performed completes: the raise, the buffers, the descriptors'
post-increments, S and the completion word. A raise at 65 535 holds it (R216). -/
def State.completeCmd (s : State) (c : Cmd) : State :=
  let held := c.semr != 0x3F && s.tile.eng.sems[c.semr.toNat % 32] == 0xFFFF
  let order := c.eng == .x || !s.tile.eng.cmds.any (fun d => d.eng == c.eng && !d.done && d.idx != c.idx && decide ((c.idx - d.idx).toNat < 2 ^ 31))
  -- the semaphore of another tile rises before SEMR; it holds at 65 535 too (R317)
  let far := match c.rsem with
    | some (p, n) => (s.tileAt p).elim false (fun t => t.eng.sems[n.toNat % 32] == 0xFFFF)
    | none => false
  if !c.performed || c.done || held || far || !order then s
  else
    let s := match c.rsem with
      | some (p, n) => s.raiseAt p n
      | none => s
    let s := c.rbufs.foldl (fun s b => s.updTile b.1 (fun t => t.setBufSt b.2.toNat .full)) s
    let s := if c.semr != 0x3F then s.setSem c.semr.toNat (· + 1) else s
    let s := c.prod.foldl (fun s b => s.updT (fun t => t.setBufSt b.toNat .full)) s
    let s := c.cons.foldl (fun s b => s.updT (fun t => t.setBufSt b.toNat .empty)) s
    let s := s.advanceSds c.sds
    let s := s.updCmd c.eng c.idx (fun d => { d with done := true, rsem := none })
    (s.countSeq c.eng).mapDisp (fun d => { d with lastDone := s.pkg.time })

/-- A word whose opcode no map lists (R214 step 1, R52). -/
def execUnassignedControlOpcode (_w : W64) (s : State) : Host.Outcome State Fault Refusal :=
  .next (s.decodeFault .illegalOpcode)

def execUnassignedEngineOpcode (eg : Eng) (_w : BitVec 128) (s : State) : Host.Outcome State Fault Refusal :=
  .next (s.engFault eg (s.tile.eng.ring eg).rp { code := .illegalOpcode })

/-! ### Streams that run -/

/-- Whether a stream of the tile moves now: a launch runs on it, no save is under way, no handler has the streams, and
it may start a command or has a started one that waits. Started X commands go on on a tile whose task is gone (R337
step 3). -/
def State.streamRuns (s : State) (eg : Eng) : Bool :=
  let again := (s.rerun eg).isSome
  ((s.tile.disp.run == .running || s.tile.disp.run == .ended) && !s.tile.eng.heldStreams
    && (s.tile.eng.ring eg).q != 0 && (!s.barred eg || again))
  || (s.tile.disp.run == .between && eg == .x && again)

/-- The uncorrectable error that the stream meets where it reads the words of the command at RP: its first word, then
the others (R339). A started command has read its words. -/
def State.wordsBad (s : State) (eg : Eng) : Option W64 :=
  let r := s.tile.eng.ring eg
  if (s.rerun eg).isSome ∨ (eg = .x ∧ s.tile.eng.heldBack) ∨ r.used = 0 then none
  else (s.ringEcc eg r.rp 1).or (s.ringEcc eg r.rp (min r.used (cmdWords eg (s.ringWord eg r.rp))))

/-- The words of the stream's next command. -/
def State.nextWords (s : State) (eg : Eng) : List (BitVec 128) :=
  match s.rerun eg with
  | some c => c.raw
  | none => s.ringWords eg (s.tile.eng.ring eg).rp 4

end Sys2Proof.Machine
end

