-- ==== Sys2Proof/Machine/Int.lean ====
section
/-! DEFINITION. Integer, logic, compare, predicate, byte and bit instructions of classes A, I and L
(R64 to R73). -/

namespace Sys2Proof.Machine

/-! ### Shared operations -/

/-- A word that writes s[D] from s[A] and s[B]. -/
def State.alu (s : State) (h : Hdr) (d a b : Reg) (f : W64 → W64 → W64) : Host.Outcome State Fault Refusal :=
  s.plainWord h [d, a, b] (fun s => s.setReg d (f (s.reg a) (s.reg b)))

/-- A word that writes s[D] from s[A]. -/
def State.alu1 (s : State) (h : Hdr) (d a : Reg) (f : W64 → W64) : Host.Outcome State Fault Refusal :=
  s.plainWord h [d, a] (fun s => s.setReg d (f (s.reg a)))

/-- A word that writes p[D] from s[A] and s[B]. -/
def State.cmp (s : State) (h : Hdr) (d : PReg) (a b : Reg) (f : W64 → W64 → Bool) : Host.Outcome State Fault Refusal :=
  s.plainWord h [a, b] (fun s => s.setPred d (f (s.reg a) (s.reg b)))

/-- IMM20, sign-extended (R61). -/
def imm20 (i : BitVec 20) : W64 := i.signExtend 64

/-- The high half of the exact product (R38). -/
def mulHighS (a b : W64) : W64 := ((a.signExtend 128 * b.signExtend 128).extractLsb' 64 64)
def mulHighZ (a b : W64) : W64 := ((a.zeroExtend 128 * b.zeroExtend 128).extractLsb' 64 64)

/-- Division toward zero with the cases of R38: a zero divisor gives all ones and the dividend. -/
def divSigned (a b : W64) : W64 := if b = 0 then -1 else a.sdiv b
def divUnsigned (a b : W64) : W64 := if b = 0 then -1 else a.udiv b
def remSigned (a b : W64) : W64 := if b = 0 then a else a.srem b
def remUnsigned (a b : W64) : W64 := if b = 0 then a else a.umod b

/-- A shift amount: bits 5:0 (R37). -/
def shAmt (b : W64) : Nat := (b.extractLsb' 0 6).toNat

/-- The elements of a 64-bit operand, each of w bits, mapped in place (R39, R71, R73). -/
def mapElems (w : Nat) (f : BitVec 64 → BitVec 64) (x : W64) : W64 :=
  (List.range (64 / w)).foldl (fun r i => r ||| (f ((x >>> (w * i)) &&& (BitVec.ofNat 64 (2 ^ w - 1))) <<< (w * i))) 0

/-- Zero bits above the most significant set bit of a w-bit element (R39). -/
def clzOf (w : Nat) (x : W64) : W64 := if x = 0 then BitVec.ofNat 64 w else BitVec.ofNat 64 (w - 1 - x.toNat.log2)

/-- The 1-based index of the least significant set bit, 0 for none (R39). -/
def ffsOf (x : W64) : W64 :=
  match (List.range 64).find? (fun i => x.getLsbD i) with
  | some i => BitVec.ofNat 64 (i + 1)
  | none => 0

/-- Set bits (R39). -/
def popOf (x : W64) : W64 := BitVec.ofNat 64 (((List.range 64).filter (fun i => x.getLsbD i)).length)

/-- The bytes of a w-bit element reversed (R71). -/
def bswapOf (w : Nat) (x : W64) : W64 := BitVec.ofNat 64 (leNat ((leBytes (w / 8) x.toNat).reverse))

/-- The bit field of R66: len bits of a from pos. -/
def fieldOf (a : W64) (pos len : Nat) : W64 := (a >>> pos) &&& BitVec.ofNat 64 (2 ^ len - 1)

/-- A field of len bits sign-extended to 64. -/
def signField (x : W64) (len : Nat) : W64 := (x <<< (64 - len)).sshiftRight (64 - len)

/-- ins: len bits of a put at pos of d. -/
def insertField (d a : W64) (pos len : Nat) : W64 :=
  let m : W64 := BitVec.ofNat 64 (2 ^ len - 1) <<< pos
  (d &&& ~~~m) ||| ((a <<< pos) &&& m)

/-- The operation of ext and ins: ILLEGAL_OPCODE if pos + len > 64 (R66). -/
def State.fieldWord (s : State) (h : Hdr) (d a : Reg) (lm1 pos : BitVec 6) (f : W64 → W64 → Nat → Nat → W64) :
    Host.Outcome State Fault Refusal :=
  s.coreWord h [d, a] [] false (fun s =>
    if pos.toNat + (lm1.toNat + 1) > 64 then raiseF .illegalOpcode
    else .done (s.setReg d (f (s.reg d) (s.reg a) pos.toNat (lm1.toNat + 1))))

/-! ### Meanings -/

/-- add: a + b (R64). -/
def execAdd (h : Hdr) (d a b : Reg) (s : State) : Host.Outcome State Fault Refusal :=
  s.alu h d a b (fun a b => a + b)

/-- sub: a − b (R64). -/
def execSub (h : Hdr) (d a b : Reg) (s : State) : Host.Outcome State Fault Refusal :=
  s.alu h d a b (fun a b => a - b)

/-- mul: the low 64 bits of a × b (R64). -/
def execMul (h : Hdr) (d a b : Reg) (s : State) : Host.Outcome State Fault Refusal :=
  s.alu h d a b (fun a b => a * b)

/-- mulh.s (R64, R38). -/
def execMulhS (h : Hdr) (d a b : Reg) (s : State) : Host.Outcome State Fault Refusal :=
  s.alu h d a b (fun a b => mulHighS a b)

/-- mulh.z (R64, R38). -/
def execMulhZ (h : Hdr) (d a b : Reg) (s : State) : Host.Outcome State Fault Refusal :=
  s.alu h d a b (fun a b => mulHighZ a b)

/-- div.s (R64, R38). -/
def execDivS (h : Hdr) (d a b : Reg) (s : State) : Host.Outcome State Fault Refusal :=
  s.alu h d a b (fun a b => divSigned a b)

/-- div.z (R64, R38). -/
def execDivZ (h : Hdr) (d a b : Reg) (s : State) : Host.Outcome State Fault Refusal :=
  s.alu h d a b (fun a b => divUnsigned a b)

/-- rem.s (R64, R38). -/
def execRemS (h : Hdr) (d a b : Reg) (s : State) : Host.Outcome State Fault Refusal :=
  s.alu h d a b (fun a b => remSigned a b)

/-- rem.z (R64, R38). -/
def execRemZ (h : Hdr) (d a b : Reg) (s : State) : Host.Outcome State Fault Refusal :=
  s.alu h d a b (fun a b => remUnsigned a b)

/-- and (R64). -/
def execAnd (h : Hdr) (d a b : Reg) (s : State) : Host.Outcome State Fault Refusal :=
  s.alu h d a b (fun a b => a &&& b)

/-- or (R64). -/
def execOr (h : Hdr) (d a b : Reg) (s : State) : Host.Outcome State Fault Refusal :=
  s.alu h d a b (fun a b => a ||| b)

/-- xor (R64). -/
def execXor (h : Hdr) (d a b : Reg) (s : State) : Host.Outcome State Fault Refusal :=
  s.alu h d a b (fun a b => a ^^^ b)

/-- andn: a AND NOT b (R64). -/
def execAndn (h : Hdr) (d a b : Reg) (s : State) : Host.Outcome State Fault Refusal :=
  s.alu h d a b (fun a b => a &&& ~~~b)

/-- shl (R64). -/
def execShl (h : Hdr) (d a b : Reg) (s : State) : Host.Outcome State Fault Refusal :=
  s.alu h d a b (fun a b => a <<< shAmt b)

/-- shr (R64). -/
def execShr (h : Hdr) (d a b : Reg) (s : State) : Host.Outcome State Fault Refusal :=
  s.alu h d a b (fun a b => a >>> shAmt b)

/-- sra (R64). -/
def execSra (h : Hdr) (d a b : Reg) (s : State) : Host.Outcome State Fault Refusal :=
  s.alu h d a b (fun a b => a.sshiftRight (shAmt b))

/-- rol (R64). -/
def execRol (h : Hdr) (d a b : Reg) (s : State) : Host.Outcome State Fault Refusal :=
  s.alu h d a b (fun a b => a.rotateLeft (shAmt b))

/-- min.s (R64). -/
def execMinS (h : Hdr) (d a b : Reg) (s : State) : Host.Outcome State Fault Refusal :=
  s.alu h d a b (fun a b => if a.slt b then a else b)

/-- min.z (R64). -/
def execMinZ (h : Hdr) (d a b : Reg) (s : State) : Host.Outcome State Fault Refusal :=
  s.alu h d a b (fun a b => if a.ult b then a else b)

/-- max.s (R64). -/
def execMaxS (h : Hdr) (d a b : Reg) (s : State) : Host.Outcome State Fault Refusal :=
  s.alu h d a b (fun a b => if b.slt a then a else b)

/-- max.z (R64). -/
def execMaxZ (h : Hdr) (d a b : Reg) (s : State) : Host.Outcome State Fault Refusal :=
  s.alu h d a b (fun a b => if b.ult a then a else b)

/-- sel (R70). -/
def execSel (h : Hdr) (d a b : Reg) (inv : Bool) (n : PReg) (s : State) : Host.Outcome State Fault Refusal :=
  s.plainWord h [d, a, b] (fun s => s.setReg d (if s.pred n ^^ inv then s.reg a else s.reg b))

/-- pand (R69). -/
def execPand (h : Hdr) (d a b : PReg) (s : State) : Host.Outcome State Fault Refusal :=
  s.plainWord h [] (fun s => s.setPred d (s.pred a && s.pred b))

/-- por (R69). -/
def execPor (h : Hdr) (d a b : PReg) (s : State) : Host.Outcome State Fault Refusal :=
  s.plainWord h [] (fun s => s.setPred d (s.pred a || s.pred b))

/-- pnot (R69). -/
def execPnot (h : Hdr) (d a : PReg) (s : State) : Host.Outcome State Fault Refusal :=
  s.plainWord h [] (fun s => s.setPred d (!s.pred a))

/-- bswap.h (R71). -/
def execBswapH (h : Hdr) (d a : Reg) (s : State) : Host.Outcome State Fault Refusal :=
  s.alu1 h d a (mapElems 16 (bswapOf 16))

/-- bswap.w (R71). -/
def execBswapW (h : Hdr) (d a : Reg) (s : State) : Host.Outcome State Fault Refusal :=
  s.alu1 h d a (mapElems 32 (bswapOf 32))

/-- bswap.d (R71). -/
def execBswapD (h : Hdr) (d a : Reg) (s : State) : Host.Outcome State Fault Refusal :=
  s.alu1 h d a (mapElems 64 (bswapOf 64))

/-- cmp.eq (R68). -/
def execCmpEq (h : Hdr) (d : PReg) (a b : Reg) (s : State) : Host.Outcome State Fault Refusal :=
  s.cmp h d a b (fun a b => a == b)

/-- cmp.ne (R68). -/
def execCmpNe (h : Hdr) (d : PReg) (a b : Reg) (s : State) : Host.Outcome State Fault Refusal :=
  s.cmp h d a b (fun a b => a != b)

/-- cmp.lt (R68). -/
def execCmpLt (h : Hdr) (d : PReg) (a b : Reg) (s : State) : Host.Outcome State Fault Refusal :=
  s.cmp h d a b (fun a b => a.slt b)

/-- cmp.ge (R68). -/
def execCmpGe (h : Hdr) (d : PReg) (a b : Reg) (s : State) : Host.Outcome State Fault Refusal :=
  s.cmp h d a b (fun a b => !a.slt b)

/-- cmp.ltz (R68). -/
def execCmpLtz (h : Hdr) (d : PReg) (a b : Reg) (s : State) : Host.Outcome State Fault Refusal :=
  s.cmp h d a b (fun a b => a.ult b)

/-- cmp.gez (R68). -/
def execCmpGez (h : Hdr) (d : PReg) (a b : Reg) (s : State) : Host.Outcome State Fault Refusal :=
  s.cmp h d a b (fun a b => !a.ult b)

/-- lea (R72). -/
def execLea (h : Hdr) (d a b : Reg) (sh : BitVec 2) (s : State) : Host.Outcome State Fault Refusal :=
  s.alu h d a b (fun a b => a + (b <<< sh.toNat))

/-- clz.b (R73, R39). -/
def execClzB (h : Hdr) (d a : Reg) (s : State) : Host.Outcome State Fault Refusal :=
  s.alu1 h d a (mapElems 8 (clzOf 8))

/-- clz.h (R73, R39). -/
def execClzH (h : Hdr) (d a : Reg) (s : State) : Host.Outcome State Fault Refusal :=
  s.alu1 h d a (mapElems 16 (clzOf 16))

/-- clz.w (R73, R39). -/
def execClzW (h : Hdr) (d a : Reg) (s : State) : Host.Outcome State Fault Refusal :=
  s.alu1 h d a (mapElems 32 (clzOf 32))

/-- clz.d (R73, R39). -/
def execClzD (h : Hdr) (d a : Reg) (s : State) : Host.Outcome State Fault Refusal :=
  s.alu1 h d a (mapElems 64 (clzOf 64))

/-- ffs.b (R73, R39). -/
def execFfsB (h : Hdr) (d a : Reg) (s : State) : Host.Outcome State Fault Refusal :=
  s.alu1 h d a (mapElems 8 ffsOf)

/-- ffs.h (R73, R39). -/
def execFfsH (h : Hdr) (d a : Reg) (s : State) : Host.Outcome State Fault Refusal :=
  s.alu1 h d a (mapElems 16 ffsOf)

/-- ffs.w (R73, R39). -/
def execFfsW (h : Hdr) (d a : Reg) (s : State) : Host.Outcome State Fault Refusal :=
  s.alu1 h d a (mapElems 32 ffsOf)

/-- ffs.d (R73, R39). -/
def execFfsD (h : Hdr) (d a : Reg) (s : State) : Host.Outcome State Fault Refusal :=
  s.alu1 h d a (mapElems 64 ffsOf)

/-- pop.b (R73, R39). -/
def execPopB (h : Hdr) (d a : Reg) (s : State) : Host.Outcome State Fault Refusal :=
  s.alu1 h d a (mapElems 8 popOf)

/-- pop.h (R73, R39). -/
def execPopH (h : Hdr) (d a : Reg) (s : State) : Host.Outcome State Fault Refusal :=
  s.alu1 h d a (mapElems 16 popOf)

/-- pop.w (R73, R39). -/
def execPopW (h : Hdr) (d a : Reg) (s : State) : Host.Outcome State Fault Refusal :=
  s.alu1 h d a (mapElems 32 popOf)

/-- pop.d (R73, R39). -/
def execPopD (h : Hdr) (d a : Reg) (s : State) : Host.Outcome State Fault Refusal :=
  s.alu1 h d a (mapElems 64 popOf)

/-- addi (R65). -/
def execAddi (h : Hdr) (d a : Reg) (imm : BitVec 20) (s : State) : Host.Outcome State Fault Refusal :=
  s.alu1 h d a (fun a => a + imm20 imm)

/-- andi (R65). -/
def execAndi (h : Hdr) (d a : Reg) (imm : BitVec 20) (s : State) : Host.Outcome State Fault Refusal :=
  s.alu1 h d a (fun a => a &&& imm20 imm)

/-- ori (R65). -/
def execOri (h : Hdr) (d a : Reg) (imm : BitVec 20) (s : State) : Host.Outcome State Fault Refusal :=
  s.alu1 h d a (fun a => a ||| imm20 imm)

/-- xori (R65). -/
def execXori (h : Hdr) (d a : Reg) (imm : BitVec 20) (s : State) : Host.Outcome State Fault Refusal :=
  s.alu1 h d a (fun a => a ^^^ imm20 imm)

/-- shli (R65). -/
def execShli (h : Hdr) (d a : Reg) (n : BitVec 6) (s : State) : Host.Outcome State Fault Refusal :=
  s.alu1 h d a (fun a => a <<< n.toNat)

/-- shri (R65). -/
def execShri (h : Hdr) (d a : Reg) (n : BitVec 6) (s : State) : Host.Outcome State Fault Refusal :=
  s.alu1 h d a (fun a => a >>> n.toNat)

/-- srai (R65). -/
def execSrai (h : Hdr) (d a : Reg) (n : BitVec 6) (s : State) : Host.Outcome State Fault Refusal :=
  s.alu1 h d a (fun a => a.sshiftRight n.toNat)

/-- ext.s (R66). -/
def execExtS (h : Hdr) (d a : Reg) (lm1 pos : BitVec 6) (s : State) : Host.Outcome State Fault Refusal :=
  s.fieldWord h d a lm1 pos (fun _ a pos len => signField (fieldOf a pos len) len)

/-- ext.z (R66). -/
def execExtZ (h : Hdr) (d a : Reg) (lm1 pos : BitVec 6) (s : State) : Host.Outcome State Fault Refusal :=
  s.fieldWord h d a lm1 pos (fun _ a pos len => fieldOf a pos len)

/-- ins (R66). -/
def execIns (h : Hdr) (d a : Reg) (lm1 pos : BitVec 6) (s : State) : Host.Outcome State Fault Refusal :=
  s.fieldWord h d a lm1 pos (fun d a pos len => insertField d a pos len)

/-- li (R67). -/
def execLi (h : Hdr) (d : Reg) (imm : BitVec 41) (s : State) : Host.Outcome State Fault Refusal :=
  s.plainWord h [d] (fun s => s.setReg d (imm.signExtend 64))

/-- nop (R84). -/
def execNop (h : Hdr) (s : State) : Host.Outcome State Fault Refusal := s.plainWord h [] (fun s => s)

/-- The delivery of a user exception (R36): EXH and the return address with the frame flag are pushed,
EXH is cleared and PC is the handler. -/
def State.deliver (s : State) (v : W64) : OpRes :=
  let x := s.tile.core.exh
  if x = 0 then raiseV .unhandledException v
  else if !s.canPush 2 then raiseV .stackLimit 0
  else
    match s.stackFault s.tile.core.ssp 2 true with
    | some fi => .fault fi
    | none =>
      if s.stackBusy s.tile.core.ssp 2 true then .hold s
      else
        let pc := s.tile.core.pc
        let s := s.pushAll [x, (pc + 8) ||| 1]
        .goto (s.mapCore (fun c => { c with epc := pc, eval := v, exh := 0, pc := x &&& ~~~7 }))

/-- raise (R83). -/
def execRaise (h : Hdr) (a : Reg) (s : State) : Host.Outcome State Fault Refusal :=
  s.coreWord h [a] [] false (fun s => s.deliver (s.reg a))

end Sys2Proof.Machine
end

