-- ==== Sys2Proof/Machine/Float.lean ====
section
/-! DEFINITION. Scalar floating point (R74 to R80). -/

namespace Sys2Proof.Machine

/-- The mode that an FCSR.RM or rounding suffix gives (R40, R74). -/
def State.rmode (s : State) : RmSel → RMode
  | .dyn => rmodeOf (s.tile.core.fcsr.extractLsb' 8 2).toNat
  | .rne => .rne | .rz => .rz | .ru => .ru | .rd => .rd

/-- The flags of a rounding made sticky in FCSR (R43, R62). -/
def State.addFlags (s : State) (f : FlagSet) : State :=
  let bits : BitVec 5 := BitVec.ofBool f.nv ++ BitVec.ofBool f.dz ++ BitVec.ofBool f.of ++ BitVec.ofBool f.uf ++ BitVec.ofBool f.nx
  s.mapCore (fun c => { c with fcsr := c.fcsr ||| bits.zeroExtend 64 })

/-- An operand of a format: a binary32 stands in bits 31:0 (R20). -/
def State.fsrc (s : State) (f : Fmt) (r : Reg) : Nat := (s.reg r).toNat % 2 ^ f.bits

/-- A result written with its flags; a binary32 clears bits 63:32 (R20). -/
def State.fput (s : State) (d : Reg) (r : Nat × FlagSet) : State := (s.setReg d (BitVec.ofNat 64 r.1)).addFlags r.2

/-- A word of a rounded group (R74). -/
def State.fpWord (s : State) (h : Hdr) (op : FOp) (f : Fmt) (rm : RmSel) (d a b : Reg) (m : FMods) : Host.Outcome State Fault Refusal :=
  s.plainWord h [d, a, b] (fun s => s.fput d (farith op f (s.rmode rm) m (s.fsrc f a) (s.fsrc f b) (s.fsrc f d)))

/-- fmin or fmax (R76). -/
def State.fmmWord (s : State) (h : Hdr) (big : Bool) (f : Fmt) (d a b : Reg) (m : FMods) : Host.Outcome State Fault Refusal :=
  s.plainWord h [d, a, b] (fun s => s.fput d (fminmax big f (s.rmode .dyn) m (s.fsrc f a) (s.fsrc f b)))

/-- fcmp (R77). -/
def State.fcmpWord (s : State) (h : Hdr) (f : Fmt) (cc : BitVec 2) (d : PReg) (a b : Reg) : Host.Outcome State Fault Refusal :=
  s.plainWord h [a, b] (fun s =>
    let r := fcompare f cc (s.fsrc f a) (s.fsrc f b)
    (s.setPred d r.1).addFlags r.2)

/-- fclass (R78). -/
def State.fclassWord (s : State) (h : Hdr) (f : Fmt) (d a : Reg) : Host.Outcome State Fault Refusal :=
  s.plainWord h [d, a] (fun s => s.setReg d (BitVec.ofNat 64 (fclassify f (s.fsrc f a))))

/-! ### Meanings -/

/-- fmin.s (R76). -/
def execFminS (h : Hdr) (d a b : Reg) (m : FMods) (s : State) : Host.Outcome State Fault Refusal :=
  s.fmmWord h false fmt32 d a b m

/-- fmax.s (R76). -/
def execFmaxS (h : Hdr) (d a b : Reg) (m : FMods) (s : State) : Host.Outcome State Fault Refusal :=
  s.fmmWord h true fmt32 d a b m

/-- fcmp.s (R77). -/
def execFcmpS (h : Hdr) (cc : BitVec 2) (d : PReg) (a b : Reg) (s : State) : Host.Outcome State Fault Refusal :=
  s.fcmpWord h fmt32 cc d a b

/-- fclass.s (R78). -/
def execFclassS (h : Hdr) (d a : Reg) (s : State) : Host.Outcome State Fault Refusal :=
  s.fclassWord h fmt32 d a

/-- fadd.s (R74, R75). -/
def execFaddS (h : Hdr) (rm : RmSel) (d a b : Reg) (m : FMods) (s : State) : Host.Outcome State Fault Refusal :=
  s.fpWord h .add fmt32 rm d a b m

/-- fsub.s (R74, R75). -/
def execFsubS (h : Hdr) (rm : RmSel) (d a b : Reg) (m : FMods) (s : State) : Host.Outcome State Fault Refusal :=
  s.fpWord h .sub fmt32 rm d a b m

/-- fmul.s (R74, R75). -/
def execFmulS (h : Hdr) (rm : RmSel) (d a b : Reg) (m : FMods) (s : State) : Host.Outcome State Fault Refusal :=
  s.fpWord h .mul fmt32 rm d a b m

/-- fdiv.s (R74, R75). -/
def execFdivS (h : Hdr) (rm : RmSel) (d a b : Reg) (m : FMods) (s : State) : Host.Outcome State Fault Refusal :=
  s.fpWord h .div fmt32 rm d a b m

/-- ffma.s (R74, R75). -/
def execFfmaS (h : Hdr) (rm : RmSel) (d a b : Reg) (m : FMods) (s : State) : Host.Outcome State Fault Refusal :=
  s.fpWord h .fma fmt32 rm d a b m

/-- fsqrt.s (R74, R75). -/
def execFsqrtS (h : Hdr) (rm : RmSel) (d a : Reg) (m : FMods) (s : State) : Host.Outcome State Fault Refusal :=
  s.fpWord h .sqrt fmt32 rm d a 0 m

/-- fmin.d (R76). -/
def execFminD (h : Hdr) (d a b : Reg) (m : FMods) (s : State) : Host.Outcome State Fault Refusal :=
  s.fmmWord h false fmt64 d a b m

/-- fmax.d (R76). -/
def execFmaxD (h : Hdr) (d a b : Reg) (m : FMods) (s : State) : Host.Outcome State Fault Refusal :=
  s.fmmWord h true fmt64 d a b m

/-- fcmp.d (R77). -/
def execFcmpD (h : Hdr) (cc : BitVec 2) (d : PReg) (a b : Reg) (s : State) : Host.Outcome State Fault Refusal :=
  s.fcmpWord h fmt64 cc d a b

/-- fclass.d (R78). -/
def execFclassD (h : Hdr) (d a : Reg) (s : State) : Host.Outcome State Fault Refusal :=
  s.fclassWord h fmt64 d a

/-- fadd.d (R74, R75). -/
def execFaddD (h : Hdr) (rm : RmSel) (d a b : Reg) (m : FMods) (s : State) : Host.Outcome State Fault Refusal :=
  s.fpWord h .add fmt64 rm d a b m

/-- fsub.d (R74, R75). -/
def execFsubD (h : Hdr) (rm : RmSel) (d a b : Reg) (m : FMods) (s : State) : Host.Outcome State Fault Refusal :=
  s.fpWord h .sub fmt64 rm d a b m

/-- fmul.d (R74, R75). -/
def execFmulD (h : Hdr) (rm : RmSel) (d a b : Reg) (m : FMods) (s : State) : Host.Outcome State Fault Refusal :=
  s.fpWord h .mul fmt64 rm d a b m

/-- fdiv.d (R74, R75). -/
def execFdivD (h : Hdr) (rm : RmSel) (d a b : Reg) (m : FMods) (s : State) : Host.Outcome State Fault Refusal :=
  s.fpWord h .div fmt64 rm d a b m

/-- ffma.d (R74, R75). -/
def execFfmaD (h : Hdr) (rm : RmSel) (d a b : Reg) (m : FMods) (s : State) : Host.Outcome State Fault Refusal :=
  s.fpWord h .fma fmt64 rm d a b m

/-- fsqrt.d (R74, R75). -/
def execFsqrtD (h : Hdr) (rm : RmSel) (d a : Reg) (m : FMods) (s : State) : Host.Outcome State Fault Refusal :=
  s.fpWord h .sqrt fmt64 rm d a 0 m

/-- fcvt (R79, R80): a kind outside the table raises ILLEGAL_OPCODE. -/
def execFcvt (h : Hdr) (rm : RmSel) (d a : Reg) (kind : BitVec 5) (s : State) : Host.Outcome State Fault Refusal :=
  s.coreWord h [d, a] [] false (fun s =>
    match fconvert kind.toNat (s.rmode rm) (s.reg a).toNat with
    | some r => .done (s.fput d r)
    | none => raiseF .illegalOpcode)

end Sys2Proof.Machine
end

