-- ==== Sys2Proof/Machine/Parallel.lean ====
section
/-! DEFINITION. Parallel execution: barriers and supersteps (R99 to R101, R123, R124, R318), the item
order (R114), the estimator (R115, R127 to R130), yield (R131). -/

namespace Sys2Proof.Machine

/-! ### The item order (R114) -/

/-- The smallest k ≥ 2 with 2^k ≥ N. -/
def itemBits (n : Nat) : Nat := max 2 (if n ≤ 1 then 0 else (n - 1).log2 + 1)

/-- One round: the halves with their widths. -/
def itemRound (seed : W64) (x : Nat × Nat × Nat × Nat) (j : Nat) : Nat × Nat × Nat × Nat :=
  let (l, r, wl, wr) := x
  let f := (seed.extractLsb' (16 * j) 16).toNat
  let k := f % 2 ^ wl
  let m := (f / 256 ||| 1) % 2 ^ wl
  let v := ((r ^^^ k) * m) % 2 ^ wl
  (r, (l ^^^ v) % 2 ^ wl, wr, wl)

/-- P(x). -/
def itemPerm (n : Nat) (seed : W64) (x : Nat) : Nat :=
  let k := itemBits n
  let a := (k + 1) / 2
  let b := k / 2
  let (l, r, _, _) := (List.range 4).foldl (itemRound seed) (x / 2 ^ b, x % 2 ^ b, a, b)
  l * 2 ^ b + r

/-- The cycle walk; it ends within 2^k steps, because P permutes 0 to 2^k − 1. -/
def itemWalk (n : Nat) (seed : W64) : Nat → Nat → Nat
  | 0, y => y
  | fuel + 1, y => if y < n then y else itemWalk n seed fuel (itemPerm n seed y)

/-- π(i). -/
def itemAt (n : Nat) (seed : W64) (i : Nat) : Nat :=
  itemWalk n seed (2 ^ itemBits n) (itemPerm n seed i)

/-! ### The estimator -/

/-- A rounded binary64 operation of the estimator on a value and an exact count (R115). -/
def d64Count (a : W64) (n : Nat) : W64 :=
  BitVec.ofNat 64 (fmt64.round .rne (FVal.div (fmt64.decode a.toNat) (FVal.ofInt n)).1).1

/-- One Welford step (R115). -/
def Par.welford (q : Par) (x : W64) : Par :=
  let n := q.estN + 1
  let d := d64 .sub x q.estMean
  let mean := d64 .add q.estMean (d64Count d n.toNat)
  { q with estN := n, estMean := mean, estM2 := d64 .add q.estM2 (d64 .mul d (d64 .sub x mean)) }

/-! ### Words of a launch kind (R121) -/

/-- A word allowed only in some launch kinds: elsewhere ILLEGAL_OPCODE, even when predicated false. -/
def State.kindWord (s : State) (h : Hdr) (ok : LaunchKind → Bool) (rs : List Reg) (op : State → OpRes) :
    Host.Outcome State Fault Refusal :=
  if ok s.tile.par.kind then s.coreWord h rs [] false op else .next (s.takeFault { code := .illegalOpcode } s.tile.core.pc)

/-! ### Barriers (R99, R100, R178, R318) -/

/-- The participants of a barrier: the launch's tiles, of this cluster for a named barrier. -/
def State.participants (s : State) (id : Option (BitVec 4)) : List Nat :=
  match s.pkg.launch s.tile.handle with
  | some l => (l.place.filter (fun x => id.isNone || x.1 / 16 == s.tile.par.clus.toNat)).map (·.2)
  | none => [s.tile.phys]

/-- The arrival at a barrier that has counted and that no generation has completed, of the word at PC or of one that an
entry has interrupted (R332): whether by step, and the timestamp. -/
def OrdSt.arrival (o : OrdSt) (id : Option (BitVec 4)) : Option (Bool × Nat) :=
  (o.bar :: o.arrs.map (·.2)).findSome? (fun b => match b with
    | .arrived i step ts => if i = id then some (step, ts) else none
    | _ => none)

/-- A tile counts as arrived: it waits at the barrier, or it has applied END (R100). -/
def Tile.arrivedAt (t : Tile) (id : Option (BitVec 4)) : Bool := t.disp.run == .ended || (t.ord.arrival id).isSome

/-- A transfer that the release of a superstep waits for: a send of a participant appended before its
arrival that has not performed (R318). -/
def Tile.sendsOpen (t : Tile) (id : Option (BitVec 4)) : Bool :=
  t.eng.cmds.any (fun c => c.send && c.predTrue && (!c.performed || c.rsem.isSome) && (t.ord.arrival id).all (fun x => decide (c.ts ≤ x.2)))

/-- An arrival at a barrier whose generation completes. -/
def BarSt.release (id : Option (BitVec 4)) : BarSt → BarSt
  | .arrived i b ts => if i = id then .released id else .arrived i b ts
  | b => b

/-- The generation completes: every participant that waits is released. -/
def State.tryRelease (s : State) (id : Option (BitVec 4)) : State :=
  let ps := s.participants id
  let ts := ps.filterMap s.tileAt
  let byStep := ts.any (fun t => (t.ord.arrival id).any (·.1))
  if ts.all (fun t => t.arrivedAt id) && !(byStep && ts.any (fun t => t.sendsOpen id)) then
    ps.foldl (fun s p => s.updTile p (fun t => { t with ord := { t.ord with
      bar := t.ord.bar.release id, arrs := t.ord.arrs.map (fun x => (x.1, x.2.release id)) } })) s
  else s

/-- No access of the core is under way (R173, R178): its queues and its channels to the slices are empty, and nothing of
its words waits for an answer of the pool. -/
def State.wordsQuiet (s : State) : Bool :=
  s.tile.ord.sq.isEmpty && s.tile.ord.lq.isEmpty && !s.pkg.chans.any (fun c => c.src == s.tile.phys)
    && !s.pkg.poolCh.any (fun m => m.src == s.tile.phys && m.byWord && m.op.dest.isSome)

/-- A barrier word: the release (R178) is placed, then the tile arrives, then it waits for the
generation, and the acquire is placed. -/
def State.barrier (s : State) (id : Option (BitVec 4)) (byStep : Bool) : OpRes :=
  let scope : BitVec 2 := if id.isSome then 1 else 2
  let finish (s : State) : OpRes :=
    match s.tile.ord.bar with
    | .released _ => .done ((s.pushMarker .acq scope).mapOrd (fun o => { o with bar := .idle }))
    | _ => .hold s
  let arrive (s : State) : State :=
    (s.mapOrd (fun o => { o with bar := .arrived id byStep s.tile.eng.ts })).tryRelease id
  match s.tile.ord.bar with
  | .released _ => finish s
  | .arrived _ _ _ => finish (s.tryRelease id)
  | .rejoin => finish (arrive s)
  | .releasing _ _ q =>
    if s.tile.ord.sq.any (fun e => e.seq == q) then .hold s else finish (arrive s)
  | .idle =>
    if s.wordsQuiet then
      -- nothing is under way: the release completes at once
      match finish (arrive s.releaseAll) with
      | .hold t => .await t false
      | r => r
    else
      let q := s.tile.ord.seq
      .await ((s.pushMarker .rel scope).mapOrd (fun o => { o with bar := .releasing id byStep q })) false

/-! ### Meanings -/

/-- bar.c (R123). -/
def execBarC (h : Hdr) (n : BitVec 4) (s : State) : Host.Outcome State Fault Refusal :=
  s.kindWord h (· == .single) [] (fun s => s.barrier (some n) false)

/-- bar.l (R124). -/
def execBarL (h : Hdr) (s : State) : Host.Outcome State Fault Refusal :=
  s.kindWord h (· == .single) [] (fun s => s.barrier none false)

/-- step (R124). -/
def execStep (h : Hdr) (s : State) : Host.Outcome State Fault Refusal :=
  s.kindWord h (· == .single) [] (fun s => s.barrier none true)

/-- item.next (R125, R128): after a flush no item is drawn. -/
def execItemNext (h : Hdr) (d : Reg) (p : PReg) (s : State) : Host.Outcome State Fault Refusal :=
  s.kindWord h (· == .estimating) [d] (fun s =>
    if s.tile.task.stop then .stop
    else
      let (n, b) := match s.pkg.launch s.tile.handle with
        | some l => (l.rc.en, l.rc.eb)
        | none => (0, 0)
      let e := min ((s.tile.par.task.toNat + 1) * b) n
      if s.tile.par.itempos.toNat < e ∧ s.tile.task.flush.isNone then
        .done (((s.setReg d (BitVec.ofNat 64 (itemAt n s.tile.par.seed s.tile.par.itempos.toNat))).mapPar
          (fun q => { q with itempos := q.itempos + 1 })).setPred p true)
      else .done ((s.setReg d (-1)).setPred p false))

/-- est.add (R127, R290). -/
def execEstAdd (h : Hdr) (a : Reg) (s : State) : Host.Outcome State Fault Refusal :=
  s.coreWord h [a] [] false (fun s =>
    if s.nearBusy estRange.1 estRange.2 true then .hold s
    else .done (s.mapPar (fun q => q.welford (s.reg a))))

/-- est.flush (R128, R129). -/
def execEstFlush (h : Hdr) (s : State) : Host.Outcome State Fault Refusal :=
  s.kindWord h (· == .estimating) [] State.flush

/-- est.state (R130). -/
def execEstState (h : Hdr) (d : Reg) (sel : BitVec 12) (s : State) : Host.Outcome State Fault Refusal :=
  s.kindWord h (· == .estimating) [d] (fun s =>
    let a : Almond := ((s.pkg.launch s.tile.handle).map (·.almond)).getD {}
    match sel.toNat with
    | 0 => .done (s.setReg d (BitVec.ofNat 64 a.n))
    | 1 => .done (s.setReg d a.mean)
    | 2 => .done (s.setReg d a.m2)
    | 3 => .done (s.setReg d a.hw)
    | 4 => .done (s.setReg d (BitVec.ofNat 64 a.stop))
    | _ => raiseF .illegalOpcode)

/-- The bind record of the running bind as yield writes it back: fresh ORDER, AGE 0 (R131). -/
def State.requeue (s : State) : State :=
  match s.tile.disp.bind with
  | some b =>
    let s := s.mapDisp (fun d => { d with slot := d.slot ++ [{ b with age := 0, order := s.pkg.stamp, since := s.pkg.time }], bind := none })
    s.updP (fun p => { p with stamp := p.stamp + 1 })
  | none => s

/-- yield (R131). -/
def State.yieldTile (s : State) : OpRes :=
  if s.tile.disp.slot.length ≥ 4 then .done s
  else
    let h := s.tile.handle
    let s := match s.tile.task.index with
      | some i => s.updP (fun p => p.updLaunch h (fun l => { l with tasks := l.tasks.modify i (fun r => { r with st := .ready }) }))
      | none => s
    .goto ((s.leaveTask.requeue).mapDisp (fun d => { d with run := .free }))

def execYield (h : Hdr) (s : State) : Host.Outcome State Fault Refusal :=
  s.kindWord h (· != .single) [] State.yieldTile

end Sys2Proof.Machine
end

