-- ==== Sys2Proof/Machine/MemInstr.lean ====
section
/-! DEFINITION. Memory instructions of class M: loads and stores, capability loads and stores, atomics,
markers, mwait, cache maintenance (R182 to R196). -/

namespace Sys2Proof.Machine

/-! ### Shared operations -/

/-- The address of a class M operand (R183). -/
def State.opAddr (s : State) (o : MemOp) : W64 := memAddr (s.cap o.c) (s.reg o.a) o.sc o.off

/-- The word's NAS takes its target from the register the word's own access delivers (R29). -/
def nasNeeds (h : Hdr) (d : Reg) : Bool := d != 0 && (h.nas == .calli || h.nas == .jmpi) && nasReg h == d

/-- The answer of an access whose value arrives later: NAS waits for it where it needs it. -/
def waitOr (h : Hdr) (d : Reg) (old : W64) (s : State) : OpRes := if nasNeeds h d then .wait s d old else .done s

/-- A loaded value extended to 64 bits (R186). -/
def loadValue (bs : List Byte) (signed : Bool) : W64 :=
  if signed then signField (leWord bs) (8 * bs.length) else leWord bs

/-- A load of n bytes into s[D]. -/
def State.loadWord (s : State) (h : Hdr) (n : Nat) (signed : Bool) (d : Reg) (o : MemOp) : Host.Outcome State Fault Refusal :=
  s.coreWord h [d, o.a] [o.c] false (fun s =>
    (s.locate (s.cap o.c) (s.opAddr o) n .ld d {}).run s (fun t loc =>
      match loc with
      | .own a => .done (t.stamp.setReg d (loadValue (t.tile.near.readN a n) signed))
      | _ => waitOr h d (s.reg d) (t.stamp.pushLq (.load loc n signed d)).nextSeq))

/-- The lines of the commit buffer, oldest first, and the bytes that one holds (R159). -/
def TaskCtx.lines (t : TaskCtx) : List Nat := (t.held.map (fun h => h.addr.toNat / 64)).eraseDups

def TaskCtx.lineNow (t : TaskCtx) (l : Nat) : List Byte :=
  (List.range 64).map (fun i =>
    t.held.foldl (fun b h => if h.addr.toNat ≤ 64 * l + i ∧ 64 * l + i < h.addr.toNat + h.bytes.length then h.bytes.getD (64 * l + i - h.addr.toNat) 0 else b) 0)

/-- The commit area of the tile in focus: 64 MiB of HBM (R161). -/
def State.commitArea (s : State) : Option Nat :=
  (s.pkg.launch s.tile.handle).map (fun l => l.commit + (s.tile.par.clus.toNat * l.rc.ntile + s.tile.par.tile.toNat) * 0x4000000)

/-- The line of a held store spills into the commit area if 1024 lines stand before it (R161, log 105). -/
def State.spill (s : State) (a : W64) : State :=
  match s.tile.task.lines.findIdx? (· == a.toNat / 64), s.commitArea with
  | some k, some b => if k < 1024 then s else s.writeHome (b + 64 * (k - 1024)) (s.tile.task.lineNow (a.toNat / 64)) 0
  | _, _ => s

/-- Bytes stored, with the tag that stc carries: at once in the tile's own memories, held in a task
(R159), else into SQ. -/
def State.putStore (s : State) (a : W64) (loc : Loc) (bs : List Byte) (tag : Option Bool) : OpRes :=
  match loc with
  | .own x => .done (s.stamp.mapNear (fun n =>
      let n := n.store x bs
      match tag with
      | some t => n.setTag x t
      | none => n))
  | _ =>
    if s.holdsBack loc then
      .done (((s.mapTask (fun t => { t with held := t.held ++ [⟨s.tile.ord.seq, a, loc, bs, tag⟩] })).spill a).nextSeq)
    else .done ((s.stamp.pushSq (.store loc bs tag s.tile.sys.ptok)).nextSeq)

/-- A store of the low n bytes of s[D]. -/
def State.storeWord (s : State) (h : Hdr) (n : Nat) (d : Reg) (o : MemOp) : Host.Outcome State Fault Refusal :=
  s.coreWord h [d, o.a] [o.c] false (fun s =>
    (s.locate (s.cap o.c) (s.opAddr o) n .st d {}).run s (fun t loc =>
      t.putStore (s.opAddr o) loc (leBytes n (s.reg d).toNat) none))

/-- The new value of an atomic (R191, R192); none where a compare fails. `x` is s[D]. -/
def amoNew (op : BitVec 3) (m b x : W64) : Option W64 :=
  match op.toNat with
  | 0 => some (m + b)
  | 1 => some (m &&& b)
  | 2 => some (m ||| b)
  | 3 => some (m ^^^ b)
  | 4 => some (if m.sle b then m else b)
  | 5 => some (if b.sle m then m else b)
  | 6 => some b
  | _ => if m = x then some b else none

/-- The function value of an atomic (R191, R192). -/
def amoFn (op : BitVec 3) (sc : BitVec 2) : BitVec 7 := 0x10 + op.zeroExtend 7 * 4 + sc.zeroExtend 7

/-- PKEYB + PKSEQ, and PKSEQ afterwards (R377). -/
def State.takeKey (s : State) : W64 × State :=
  if s.tile.sys.pkeyb = 0 then (0, s)
  else (s.tile.sys.pkeyb + s.tile.sys.pkseq, s.mapSys (fun y => { y with pkseq := y.pkseq + 1 }))

/-- An atomic or cas (R175, R191, R192): at once in the tile's own scratchpad, deferred in a task,
else in SQ with its marker in LQ. -/
def State.amoWord (s : State) (h : Hdr) (op : BitVec 3) (sc : BitVec 2) (d a : Reg) (c : CReg) (off : BitVec 14) :
    Host.Outcome State Fault Refusal :=
  s.coreWord h [d, a] [c] false (fun s =>
    let va := memAddr (s.cap c) 0 0 off
    (s.locate (s.cap c) va 8 .amo d {}).run s (fun t loc =>
      let b := s.reg a
      let x := s.reg d
      match loc with
      | .own p =>
        let m := leWord (t.tile.near.readN p 8)
        let t := match amoNew op m b x with
          | some v => t.mapNear (fun n => n.store p (leBytes 8 v.toNat))
          | none => t
        let t := t.stamp.setReg d m
        waitOr h d x (if sc = 0 then t else t.pushMarker .fence sc)
      | _ =>
        if t.holdsBack loc then
          .done (t.mapTask (fun k => { k with deferred := k.deferred ++ [⟨amoFn op sc, va, loc, b⟩] }))
        else
          let (key, t) := match loc with
            | .direct _ _ => t.takeKey
            | _ => (0, t)
          waitOr h d x ((t.stamp.pushSq (.amo loc op b x d sc key t.tile.sys.ptok)).pushLq .amoMark).nextSeq))

/-- A marker word (R193): it completes at issue. -/
def State.markWord (s : State) (h : Hdr) (k : MarkKind) (sc : BitVec 2) : Host.Outcome State Fault Refusal :=
  s.plainWord h [] (fun s => s.pushMarker k sc)

/-- The line of cfl or cinv written back now (R196). A cinv evicts the line, and wakes its monitors (log 100). -/
def State.flushLine (s : State) (pa : Nat) (inv : Bool) : State :=
  if inv then ((s.recall (pa / 64)).updP (fun p => p.l2Back (pa / 64))).wake true (Loc.onLine (pa / 64)) else s.releaseLine (pa / 64)

/-- cfl and cinv: through an uncached mapping and in the near space only the checks; in a task at
issue. R196 gives them no n: they are checked over the one byte at a (log 140). -/
def State.flushWord (s : State) (h : Hdr) (inv : Bool) (o : MemOp) : Host.Outcome State Fault Refusal :=
  s.coreWord h [o.a] [o.c] false (fun s =>
    (s.locate (s.cap o.c) (s.opAddr o) 1 (if inv then .cinv else .cfl) 0 {}).run s (fun t loc =>
      match loc with
      | .pkgMem pa true => if t.inTask then .done (t.flushLine pa inv) else .done (t.pushSq (.flush pa inv)).nextSeq
      | _ => .done t))

/-- Whether the time that MWTO allows has passed (R195). -/
def State.timedOut (s : State) (m : Monitor) : Bool :=
  s.tile.sys.mwto != 0 && decide (s.pkg.time ≥ m.since + s.tile.sys.mwto.toNat)

/-- An armed mwait: it completes once it has read another value, or after a wake-up (R180, R194). -/
def State.waitOn (s : State) (h : Hdr) (d : Reg) (m : Monitor) : OpRes :=
  if m.read && (!m.matched || m.woken || s.timedOut m) then waitOr h d m.old (s.mapOrd (fun o => { o with mon := none }))
  else .hold s

/-! ### Meanings -/

/-- ld.bs (R186). -/
def execLdBs (h : Hdr) (d : Reg) (o : MemOp) (s : State) : Host.Outcome State Fault Refusal :=
  s.loadWord h 1 true d o

/-- ld.bz (R186). -/
def execLdBz (h : Hdr) (d : Reg) (o : MemOp) (s : State) : Host.Outcome State Fault Refusal :=
  s.loadWord h 1 false d o

/-- ld.hs (R186). -/
def execLdHs (h : Hdr) (d : Reg) (o : MemOp) (s : State) : Host.Outcome State Fault Refusal :=
  s.loadWord h 2 true d o

/-- ld.hz (R186). -/
def execLdHz (h : Hdr) (d : Reg) (o : MemOp) (s : State) : Host.Outcome State Fault Refusal :=
  s.loadWord h 2 false d o

/-- ld.ws (R186). -/
def execLdWs (h : Hdr) (d : Reg) (o : MemOp) (s : State) : Host.Outcome State Fault Refusal :=
  s.loadWord h 4 true d o

/-- ld.wz (R186). -/
def execLdWz (h : Hdr) (d : Reg) (o : MemOp) (s : State) : Host.Outcome State Fault Refusal :=
  s.loadWord h 4 false d o

/-- ld.d (R186). -/
def execLdD (h : Hdr) (d : Reg) (o : MemOp) (s : State) : Host.Outcome State Fault Refusal :=
  s.loadWord h 8 false d o

/-- st.b (R187). -/
def execStB (h : Hdr) (d : Reg) (o : MemOp) (s : State) : Host.Outcome State Fault Refusal :=
  s.storeWord h 1 d o

/-- st.h (R187). -/
def execStH (h : Hdr) (d : Reg) (o : MemOp) (s : State) : Host.Outcome State Fault Refusal :=
  s.storeWord h 2 d o

/-- st.w (R187). -/
def execStW (h : Hdr) (d : Reg) (o : MemOp) (s : State) : Host.Outcome State Fault Refusal :=
  s.storeWord h 4 d o

/-- st.d (R187). -/
def execStD (h : Hdr) (d : Reg) (o : MemOp) (s : State) : Host.Outcome State Fault Refusal :=
  s.storeWord h 8 d o

/-- mark (R188): zero to the 64 bytes at a, both tags clear. -/
def execMark (h : Hdr) (o : MemOp) (s : State) : Host.Outcome State Fault Refusal :=
  s.coreWord h [o.a] [o.c] false (fun s =>
    (s.locate (s.cap o.c) (s.opAddr o) 64 .mark 0 {}).run s (fun t loc =>
      t.putStore (s.opAddr o) loc (List.replicate 64 0) none))

/-- ldc (R189). -/
def execLdc (h : Hdr) (d : CReg) (o : MemOp) (s : State) : Host.Outcome State Fault Refusal :=
  s.coreWord h [o.a] [o.c, d] false (fun s =>
    (s.locate (s.cap o.c) (s.opAddr o) 32 .ldc 0 {}).run s (fun t loc =>
      match loc with
      | .own a => .done (t.stamp.setCap d (Cap.ofBytes (t.tile.near.readN a 32) (t.tile.near.tag a)))
      | _ => .done (t.stamp.pushLq (.loadCap loc d)).nextSeq))

/-- stc (R190). -/
def execStc (h : Hdr) (d : CReg) (o : MemOp) (s : State) : Host.Outcome State Fault Refusal :=
  s.coreWord h [o.a] [o.c, d] false (fun s =>
    (s.locate (s.cap o.c) (s.opAddr o) 32 .stc 0 (s.cap d)).run s (fun t loc =>
      t.putStore (s.opAddr o) loc (s.cap d).toBytes (some (s.cap d).tag)))

/-- amo.add (R191). -/
def execAmoAdd (h : Hdr) (sc : BitVec 2) (d a : Reg) (c : CReg) (off : BitVec 14) (s : State) : Host.Outcome State Fault Refusal :=
  s.amoWord h 0 sc d a c off

/-- amo.and (R191). -/
def execAmoAnd (h : Hdr) (sc : BitVec 2) (d a : Reg) (c : CReg) (off : BitVec 14) (s : State) : Host.Outcome State Fault Refusal :=
  s.amoWord h 1 sc d a c off

/-- amo.or (R191). -/
def execAmoOr (h : Hdr) (sc : BitVec 2) (d a : Reg) (c : CReg) (off : BitVec 14) (s : State) : Host.Outcome State Fault Refusal :=
  s.amoWord h 2 sc d a c off

/-- amo.xor (R191). -/
def execAmoXor (h : Hdr) (sc : BitVec 2) (d a : Reg) (c : CReg) (off : BitVec 14) (s : State) : Host.Outcome State Fault Refusal :=
  s.amoWord h 3 sc d a c off

/-- amo.min (R191). -/
def execAmoMin (h : Hdr) (sc : BitVec 2) (d a : Reg) (c : CReg) (off : BitVec 14) (s : State) : Host.Outcome State Fault Refusal :=
  s.amoWord h 4 sc d a c off

/-- amo.max (R191). -/
def execAmoMax (h : Hdr) (sc : BitVec 2) (d a : Reg) (c : CReg) (off : BitVec 14) (s : State) : Host.Outcome State Fault Refusal :=
  s.amoWord h 5 sc d a c off

/-- amo.swap (R191). -/
def execAmoSwap (h : Hdr) (sc : BitVec 2) (d a : Reg) (c : CReg) (off : BitVec 14) (s : State) : Host.Outcome State Fault Refusal :=
  s.amoWord h 6 sc d a c off

/-- cas (R192). -/
def execCas (h : Hdr) (sc : BitVec 2) (d a : Reg) (c : CReg) (off : BitVec 14) (s : State) : Host.Outcome State Fault Refusal :=
  s.amoWord h 7 sc d a c off

/-- fence (R193, R173). -/
def execFence (h : Hdr) (sc : BitVec 2) (s : State) : Host.Outcome State Fault Refusal :=
  s.markWord h .fence sc

/-- acq (R193, R173). -/
def execAcq (h : Hdr) (sc : BitVec 2) (s : State) : Host.Outcome State Fault Refusal :=
  s.markWord h .acq sc

/-- rel (R193, R173). -/
def execRel (h : Hdr) (sc : BitVec 2) (s : State) : Host.Outcome State Fault Refusal :=
  s.markWord h .rel sc

/-- mwait (R194): the monitor is armed before the read; the word holds while the value is the awaited one. -/
def execMwait (h : Hdr) (d a : Reg) (c : CReg) (off : BitVec 14) (s : State) : Host.Outcome State Fault Refusal :=
  s.coreWord h [d, a] [c] false (fun s =>
    match s.tile.ord.mon with
    | some m => s.waitOn h d m
    | none =>
      (s.locate (s.cap c) (memAddr (s.cap c) 0 0 off) 8 .mwait d {}).run s (fun t loc =>
        let m : Monitor := { loc := loc, woken := false, read := false, matched := false, since := s.pkg.time, old := s.reg d }
        match loc with
        | .own p =>
          let v := leWord (t.tile.near.readN p 8)
          let m := { m with read := true, matched := v == s.reg a }
          match ((t.stamp.setReg d v).mapOrd (fun o => { o with mon := some m })).waitOn h d m with
          | .hold u => .await u false
          | r => r
        | _ => .await ((t.stamp.pushLq (.loadWait loc d (s.reg a))).nextSeq.mapOrd (fun o => { o with mon := some m })) (nasNeeds h d)))

/-- cfl (R196). -/
def execCfl (h : Hdr) (o : MemOp) (s : State) : Host.Outcome State Fault Refusal :=
  s.flushWord h false o

/-- cinv (R196). -/
def execCinv (h : Hdr) (o : MemOp) (s : State) : Host.Outcome State Fault Refusal :=
  s.flushWord h true o

end Sys2Proof.Machine
end

