-- ==== Sys2Proof/Machine/Caps.lean ====
section
/-! DEFINITION. Capability derivation (R197 to R202). -/

namespace Sys2Proof.Machine

/-- A sealed type (R146). -/
def Cap.isSealed (c : Cap) : Bool := c.typ == 4 || c.typ == 5

/-- The requirement of cap.bnd on exact numbers (R197): POOL narrows only the upper end. -/
def Cap.boundOk (c : Cap) (len : W64) : Bool :=
  if c.typ == 3 then decide (c.cursor.toNat + len.toNat ≤ c.len.toNat)
  else decide (c.base.toNat ≤ c.cursor.toNat) && decide (c.cursor.toNat + len.toNat ≤ c.base.toNat + c.len.toNat)

/-- The result of cap.bnd. -/
def Cap.bounded (c : Cap) (len : W64) : Cap :=
  if c.typ == 3 then { c with len := c.cursor + len } else { c with base := c.cursor, len := len }

/-- cap.bnd (R197). -/
def execCapBnd (h : Hdr) (d : CReg) (a : Reg) (c : CReg) (s : State) : Host.Outcome State Fault Refusal :=
  s.coreWord h [a] [c, d] false (fun s =>
    let x := s.cap c
    if !x.tag then raiseF .capTag
    else if x.isSealed then raiseF .capType
    else if !x.boundOk (s.reg a) then raiseV .capBounds (s.reg a)
    else .done (s.setCap d (x.bounded (s.reg a))))

/-- cap.prm (R198). -/
def execCapPrm (h : Hdr) (d : CReg) (a : Reg) (c : CReg) (s : State) : Host.Outcome State Fault Refusal :=
  s.coreWord h [a] [c, d] false (fun s =>
    let x := s.cap c
    let m := s.reg a
    let p : BitVec 12 := m.extractLsb' 0 12
    if !x.tag then raiseF .capTag
    else if m >>> 12 != 0 || p.extractLsb' 0 4 != 0 || p &&& x.perm != p then raiseV .capPerm m
    else .done (s.setCap d { x with perm := p }))

/-- cap.off (R199). -/
def execCapOff (h : Hdr) (d : CReg) (o : MemOp) (s : State) : Host.Outcome State Fault Refusal :=
  s.coreWord h [o.a] [o.c, d] false (fun s => .done (s.setCap d { s.cap o.c with cursor := s.opAddr o }))

/-- The field that cap.get names (R200). -/
def Cap.field (c : Cap) (sel : BitVec 3) : W64 :=
  match sel.toNat with
  | 0 => c.typ.zeroExtend 64
  | 1 => c.perm.zeroExtend 64
  | 2 => c.base
  | 3 => c.len
  | 4 => c.cursor
  | 5 => c.pol.zeroExtend 64
  | 6 => c.tenant.zeroExtend 64
  | _ => (BitVec.ofBool c.tag).zeroExtend 64

/-- cap.get (R200). -/
def execCapGet (h : Hdr) (d : Reg) (c : CReg) (sel : BitVec 3) (s : State) : Host.Outcome State Fault Refusal :=
  s.coreWord h [d] [c] false (fun s => .done (s.setReg d ((s.cap c).field sel)))

/-- cap.tst (R201). -/
def execCapTst (h : Hdr) (d : PReg) (a : Reg) (c : CReg) (s : State) : Host.Outcome State Fault Refusal :=
  s.coreWord h [a] [c] false (fun s =>
    let m : BitVec 12 := (s.reg a).extractLsb' 0 12
    .done (s.setPred d ((s.cap c).tag && (s.cap c).perm &&& m == m)))

/-- cap.clr (R202). -/
def execCapClr (h : Hdr) (d c : CReg) (s : State) : Host.Outcome State Fault Refusal :=
  s.coreWord h [] [c, d] false (fun s => .done (s.setCap d { s.cap c with tag := false }))

end Sys2Proof.Machine
end

