-- ==== Sys2Proof/Machine/Buffers.lean ====
section
/-! DEFINITION. Declared buffers (R154, R155, R203 to R205). -/

namespace Sys2Proof.Machine

def BufSt.code : BufSt → BitVec 2
  | .empty => 0 | .filling => 1 | .full => 2 | .draining => 3

def bufStOf (c : BitVec 2) : BufSt :=
  match c.toNat with
  | 0 => .empty | 1 => .filling | 2 => .full | _ => .draining

/-- The 64-bit entry of R154; an undeclared entry reads as zero (R205). -/
def Buf.word (b : Buf) : W64 :=
  if b.v then b.st.code ++ 1#1 ++ 0#29 ++ b.len ++ 0#1 ++ b.base else 0

/-- [lo, hi) of core scratchpad meets [a, b) on exact numbers. -/
def meets (lo hi a b : Nat) : Bool := decide (lo < b) && decide (a < hi) && decide (lo < hi)

/-- A ring or the completion words overlap [lo, hi) (R212). -/
def Tile.ringsMeet (t : Tile) (lo hi : Nat) : Bool :=
  [Eng.v, .m, .x].any (fun e =>
    let r := t.eng.ring e
    r.q != 0 && meets lo hi r.base.toNat (r.base.toNat + r.cap * engWordSize e))
  || meets lo hi 0x1EFFC0 0x1F0000

/-- The conditions of R154 and R212 on a declaration of entry id. -/
def Tile.declOk (t : Tile) (id : BitVec 6) (base len : W64) : Bool :=
  let lo := base.toNat
  let hi := base.toNat + len.toNat
  base.toNat % 64 == 0 && len.toNat % 64 == 0 && decide (hi ≤ laneBase)
    && !(t.bufs.toList.mapIdx (fun i b => (i, b))).any (fun x => x.1 != id.toNat && x.2.v && meets lo hi x.2.lo x.2.hi)
    && !meets lo hi t.core.ssbase.toNat t.core.sslim.toNat
    && !t.ringsMeet lo hi
    && (!(t.bufs[id.toFin]).v || (t.bufs[id.toFin]).st == .empty)

/-- A command with a role on the entry as it stands has not completed: the buffer words keep their place in timestamp
order (R203, R204, R205). A command that touches only the bytes of a new declaration holds nothing: it is checked against
the old entry (R203). -/
def State.bufBusy (s : State) (id : BitVec 6) : Bool := !(s.tile.eng.users id.toNat (fun _ => true)).isEmpty

/-- buf.set counts as a write of the whole buffer (R155, R204). -/
def State.bufTouched (s : State) (id : BitVec 6) : Bool :=
  let b := s.tile.bufs[id.toFin]
  s.bufBusy id || (b.v && s.nearBusy b.lo b.hi true)

/-- buf.decl (R203). -/
def execBufDecl (h : Hdr) (d a : Reg) (id : BitVec 6) (s : State) : Host.Outcome State Fault Refusal :=
  s.coreWord h [d, a] [] false (fun s =>
    let base := s.reg d
    let len := s.reg a
    if s.bufBusy id then .hold s
    else if !s.tile.declOk id base len then raiseV .bufState (id.zeroExtend 64)
    else
      let e : Buf := if len = 0 then {} else { st := .empty, v := true, len := (len >>> 6).truncate 16, base := (base >>> 6).truncate 15 }
      .done (s.stamp.updT (fun t => { t with bufs := t.bufs.set id.toFin e })))

/-- A move that the transition table allows (R204). -/
def bufMove (old new : BufSt) : Bool :=
  match old, new with
  | .empty, .filling | .filling, .full | .full, .draining => true
  | _, .empty => true
  | _, _ => false

/-- buf.set (R204). -/
def execBufSet (h : Hdr) (id : BitVec 6) (st : BitVec 2) (s : State) : Host.Outcome State Fault Refusal :=
  s.coreWord h [] [] false (fun s =>
    let b := s.tile.bufs[id.toFin]
    if s.bufTouched id then .hold s
    else if !b.v || !bufMove b.st (bufStOf st) then raiseV .bufState (id.zeroExtend 64)
    else .done (s.stamp.updT (fun t => { t with bufs := t.bufs.set id.toFin { b with st := bufStOf st } })))

/-- buf.get (R205). -/
def execBufGet (h : Hdr) (d : Reg) (id : BitVec 6) (s : State) : Host.Outcome State Fault Refusal :=
  s.coreWord h [d] [] false (fun s =>
    if s.bufBusy id then .hold s else .done (s.stamp.setReg d (s.tile.bufs[id.toFin]).word))

end Sys2Proof.Machine
end

