-- ==== Sys2Proof/Machine/Regs.lean ====
section
/-! DEFINITION. The register space as it is read (R405, R446 to R449, R454): who owns a page, what an access may do,
what each register reads, and the accesses of a tile, which are untrusted. Where the spec gives a page and no
offsets, the offsets are the model's (log 50). -/

namespace Sys2Proof.Machine

/-! ### Bytes and fields -/

/-- Bytes filled up with zeros, or cut, to n. -/
def padTo (n : Nat) (bs : List Byte) : List Byte := (bs ++ List.replicate (n - bs.length) 0).take n

/-- A dword of a list of bytes. -/
def dword (bs : List Byte) (o : Nat) : W64 := leWord ((bs.drop o).take 8)

def dwords (ws : List W64) : List Byte := ws.flatMap (fun w => leBytes 8 w.toNat)

/-- A little-endian field of some bytes. -/
def fieldAt (bs : List Byte) (o n : Nat) : Nat := leNat ((bs.drop o).take n)

/-! ### Owners and access (R446, R448) -/

inductive PageOwner where
  | shared | session (n : Nat) | reserved
deriving DecidableEq, Repr, Inhabited

/-- What becomes of an access. -/
inductive PageGate where
  | perform | drop | deny (session : Nat)
deriving DecidableEq, Repr, Inhabited

def Package.session (p : Package) (n : Nat) : Option Session := p.sessions.find? (fun x => x.num == n)

def Package.updSession (p : Package) (n : Nat) (f : Session → Session) : Package :=
  { p with sessions := p.sessions.map (fun x => if x.num = n then f x else x) }

/-- The owner of the page of an offset. -/
def State.pageOwner (s : State) (off : Nat) : PageOwner :=
  let g := off / 0x10000
  if g < 0x40 then (s.pkg.boxes.find? (fun b => b.ch.toNat == g)).elim .reserved (fun b => .session b.session)
  else if g = 0x40 ∨ g = 0x41 ∨ (0x50 ≤ g ∧ g < 0x60) ∨ g = 0x300 ∨ g = 0x301 then .shared
  else if 0x100 ≤ g ∧ g < 0x200 then
    match ((s.tileAt (g - 0x100)).bind (fun t => t.disp.bind)).bind (fun b => s.pkg.launch b.launch.toNat) with
    | some l => .session l.session
    | none => .shared
  else if 0x200 ≤ g ∧ g < 0x300 then (if (s.pkg.session (g - 0x200)).isSome then .session (g - 0x200) else .reserved)
  else .reserved

/-- The table of access outcomes (R448). -/
def pageGate (r : Requester) (o : PageOwner) (write : Bool) : PageGate :=
  match o, r with
  | .reserved, _ => .drop
  | .shared, .untrustedHost => if write then .drop else .perform
  | .shared, .tile _ _ => if write then .drop else .perform
  | .shared, _ => .perform
  | .session _, .acornF => .perform
  | .session n, .ide m => if m = n then .perform else .deny n
  | .session n, _ => .deny n

/-- SOURCE of a violation record. -/
def sourceOf : Requester → Nat
  | .acornF | .acornK => 1
  | .tile _ _ => 2
  | _ => 0

def fromF (r : Requester) : Bool := r == .acornF
def fromK (r : Requester) : Bool := r == .acornF || r == .acornK
/-- A host whose request is trusted, and firmware. -/
def fromHostOrF (r : Requester) : Bool :=
  match r with
  | .acornF | .ide _ => true
  | _ => false

/-- A record appended to a session (R449): the last 512 stay, the rest are counted. -/
def Session.append (x : Session) (time kind source addr : Nat) : Session :=
  let rs := x.recs ++ [⟨time, kind, source, addr, x.wix.toNat⟩]
  { x with recs := rs.drop (rs.length - 512), ovf := x.ovf + BitVec.ofNat 64 (rs.length - 512), wix := x.wix + 1 }

def Package.violate (p : Package) (n kind source addr : Nat) : Package := p.updSession n (fun x => x.append p.time kind source addr)

/-- A record to every session of a tenant. -/
def Package.violateTenant (p : Package) (tenant : Nat) (kind source addr : Nat) : Package :=
  { p with sessions := p.sessions.map (fun x => if x.tenant.toNat = tenant then x.append p.time kind source addr else x) }

/-! ### The optical block (R405, R415) -/

/-- A port whose λ0 is lit counts it. -/
def Port.width (p : Port) : Nat := p.lit.length + (if p.state ≥ 2 then 1 else 0)

/-- LUSED: 6 + L mW for each lit wavelength. -/
def Optics.used (o : Optics) : Nat := o.ports.foldl (fun n p => n + p.width * (6 + p.lpwr)) 0

def Port.lstat (p : Port) : W64 :=
  (BitVec.ofNat 3 p.stage ++ BitVec.ofNat 2 p.state ++ BitVec.ofNat 3 p.eng ++ BitVec.ofNat 5 p.width ++ BitVec.ofNat 3 p.lpwr
    ++ BitVec.ofNat 4 (min 15 p.retry) ++ 0#4 ++ BitVec.ofNat 8 (min 255 p.ber) ++ BitVec.ofNat 32 (min 0xFFFFFFFF p.uncor) : BitVec 64)

def OptEng.estat (e : OptEng) : W64 :=
  (BitVec.ofBool e.failed ++ BitVec.ofBool e.carry ++ 0#14 ++ e.temp ++ BitVec.ofNat 32 (min 0xFFFFFFFF e.focnt) : BitVec 64)

def Optics.lbud (o : Optics) : W64 := (BitVec.ofNat 16 o.lbudget ++ BitVec.ofNat 16 o.used ++ BitVec.ofNat 32 (min 0xFFFFFFFF o.wcut) : BitVec 64)
def Optics.bercfg (o : Optics) : W64 := (BitVec.ofNat 8 o.berhi ++ BitVec.ofNat 8 o.berlo ++ BitVec.ofNat 16 o.berhold ++ 0#32 : BitVec 64)

def Optics.read (o : Optics) (a : Nat) : W64 :=
  if a < 0x100 then (o.ports[a / 8]?).elim 0 Port.lstat
  else if a < 0x140 then (o.engs[(a - 0x100) / 8]?).elim 0 OptEng.estat
  else if a = 0x140 then o.lbud
  else if a = 0x148 then o.bercfg
  else 0

/-! ### The scheduling page and the object directory (R107, R375, R447) -/

/-- A time-triggered entry as 128 bits. -/
def TtEntry.word (e : TtEntry) : BitVec 128 :=
  (BitVec.ofNat 44 (e.recPA / 256) ++ e.clmask ++ e.len ++ BitVec.ofBool e.rule ++ BitVec.ofBool e.en ++ BitVec.ofNat 12 e.skips ++ e.launch ++ 0#32 : BitVec 128)

/-- A half of a 128-bit entry. -/
def half (w : BitVec 128) (h : Bool) : W64 := if h then w.extractLsb' 64 64 else w.extractLsb' 0 64

def Package.readSched (p : Package) (a : Nat) : W64 :=
  let r := p.regs
  match a with
  | 0x000 => r.spbase | 0x008 => r.sppub.zeroExtend 64 | 0x010 => r.spdone.zeroExtend 64
  | 0x040 => r.ttbase | 0x048 => r.ttlen.zeroExtend 64
  | 0x050 => BitVec.ofNat 64 r.ageint | 0x058 => BitVec.ofNat 64 r.agecap
  | 0x060 => r.hcwin | 0x068 => r.haper
  | 0x070 => BitVec.ofNat 64 r.pkgpl | 0x078 => BitVec.ofNat 64 r.splim | 0x080 => BitVec.ofNat 64 r.hbint
  | _ => if 0x400 ≤ a ∧ a < 0x800 then half ((p.tt.toList.getD ((a - 0x400) / 16) {}).word) (a % 16 != 0) else 0

def DirEntry.word (d : DirEntry) : BitVec 128 :=
  (BitVec.ofBool d.valid ++ BitVec.ofBool d.direct ++ 0#10 ++ BitVec.ofNat 20 d.ldur ++ BitVec.ofNat 16 d.node ++ 0#32 ++ BitVec.ofNat 48 d.objid : BitVec 128)

/-- The entry at an index: V = 0, CACHED, LDUR 1000, NODE 0 and OBJID 0 at reset. -/
def Package.dirAt (p : Package) (i : Nat) : DirEntry := (p.dir.find? (fun d => d.index == i)).getD ⟨i, false, false, 1000, 0, 0⟩

/-! ### Session pages (R449, R454) -/

def Violation.bytes (v : Violation) : List Byte :=
  leBytes 8 v.time ++ [BitVec.ofNat 8 v.kind, BitVec.ofNat 8 v.source, 0, 0, 0, 0, 0, 0] ++ leBytes 8 v.addr ++ leBytes 8 v.seq

def Policy.bytes (x : Policy) : List Byte :=
  leBytes 4 x.pol.toNat ++ leBytes 2 x.tenant.toNat ++ leBytes 2 (if x.valid then 1 else 0) ++ padTo 48 x.meas ++ padTo 40 x.wkey ++ List.replicate 32 0

def Policy.ofBytes (i : Nat) (bs : List Byte) : Policy :=
  { index := i, pol := BitVec.ofNat 32 (fieldAt bs 0 4), tenant := BitVec.ofNat 16 (fieldAt bs 4 2), valid := fieldAt bs 6 2 % 2 == 1,
    meas := (bs.drop 8).take 48, wkey := (bs.drop 56).take 40 }

/-- The entry of a policy index; one never written is all zero. -/
def Session.policyAt (x : Session) (i : Nat) : Policy := (x.policies.find? (fun p => p.index == i)).getD (Policy.ofBytes i (List.replicate 128 0))

/-- Bytes 0x00 to 0x3F of a session page. -/
def Session.header (x : Session) : List Byte :=
  padTo 64 (leBytes 2 x.tenant.toNat ++ leBytes 2 x.num ++ [0, 0, 0, 0] ++ dwords [x.hbseq, x.hbtime, x.wix, x.ovf, x.verhb])

def Session.read (x : Session) (a : Nat) : W64 :=
  if a < 0x40 then dword x.header a
  else if a < 0xA0 then dword (leBytes 96 x.sig.toNat) (a - 0x40)
  else if 0x100 ≤ a ∧ a < 0x4100 then
    ((x.recs.find? (fun v => v.seq % 512 == (a - 0x100) / 32)).elim 0 (fun v => dword v.bytes (a % 32)))
  else if 0x8000 ≤ a then dword (x.policyAt ((a - 0x8000) / 128)).bytes (a % 128)
  else 0

/-! ### Mailbox, tile, lifetime and firmware pages -/

def Mailbox.read (b : Mailbox) (a : Nat) : W64 :=
  match a with
  | 0x0000 => b.head | 0x0008 => b.tail | 0x0010 => b.chead | 0x0018 => b.ctail
  | _ => if 0x1000 ≤ a ∧ a < 0x4000 then leWord (Memory.readN b.page a 8) else 0

/-- Tile pages: WDLIM at 0x00 and DBGCTL at 0x08 (log 50). -/
def Tile.readPage (t : Tile) (a : Nat) : W64 := if a = 0 then t.sys.wdlim else if a = 8 then t.sys.dbgctl &&& ~~~4 else 0

def Counters.dwords (c : Counters) : List W64 := [c.poweron, c.thermcyc, c.secorrSram, c.secorrHbm, c.uncorSram, c.uncorHbm, c.failover, c.tiledis]

/-- The lifetime page: the counters at 0x000, each cluster's histograms at 0x100 + 128·c, its supply offset in mV
and clock in MHz at 0x1000 + 16·c, its delay monitors and their baseline at 0x2000 + 64·c (log 50). -/
def Life.read (l : Life) (a : Nat) : W64 :=
  if a < 0x40 then l.now.dwords.getD (a / 8) 0
  else if 0x100 ≤ a ∧ a < 0x900 then
    (l.clusters[(a - 0x100) / 128]?).elim 0 (fun c => (c.tempHist ++ c.suppHist).getD (a % 128 / 8) 0)
  else if 0x1000 ≤ a ∧ a < 0x1100 then
    (l.clusters[(a - 0x1000) / 16]?).elim 0 (fun c => BitVec.ofNat 64 (if a % 16 = 0 then c.offset else c.clock))
  else if 0x2000 ≤ a ∧ a < 0x2400 then
    (l.clusters[(a - 0x2000) / 64]?).elim 0 (fun c => BitVec.ofNat 64 ((c.monitors.toList ++ c.baseline.toList).getD (a % 64 / 8) 0))
  else 0

/-- FWSTAT (R459). -/
def Firmware.stat (f : Firmware) : W64 :=
  (0#1 ++ BitVec.ofBool f.active ++ BitVec.ofNat 3 f.state ++ BitVec.ofNat 3 f.err ++ 0#8 ++ f.minver ++ f.veract ++ f.verstg : BitVec 64)

/-! ### One access -/

/-- The value of a register at an offset. -/
def State.readReg (s : State) (off : Nat) : W64 :=
  let g := off / 0x10000
  let a := off % 0x10000
  if g < 0x40 then (s.pkg.boxes.find? (fun b => b.ch.toNat == g)).elim 0 (fun b => b.read a)
  else if g = 0x40 then s.pkg.optics.read a
  else if g = 0x41 then s.pkg.readSched a
  else if 0x50 ≤ g ∧ g < 0x60 then half (s.pkg.dirAt ((off - 0x500000) / 16)).word (off % 16 != 0)
  else if 0x100 ≤ g ∧ g < 0x200 then (s.tileAt (g - 0x100)).elim 0 (fun t => t.readPage a)
  else if 0x200 ≤ g ∧ g < 0x300 then (s.pkg.session (g - 0x200)).elim 0 (fun x => x.read a)
  else if g = 0x300 then s.pkg.life.read a
  else if g = 0x301 ∧ a = 0 then s.pkg.fw.stat
  else 0

/-- Who may read a page by its access columns: the optical block at K and F, a tile's core at K among them (R16, R405). -/
def colRead (g : Nat) (r : Requester) : Bool :=
  g != 0x40 || fromK r || (match r with
    | .tile _ k => k
    | _ => false)

/-- Only aligned accesses of 8 bytes are performed (R446). -/
def regAligned (off n : Nat) : Bool := off % 8 == 0 && n == 8 && decide (off < 2 ^ 30)

/-- What a read of the register space gives (R446, R448). -/
def State.regValue (s : State) (off n : Nat) (r : Requester) : W64 :=
  if !regAligned off n then 0
  else
    match pageGate r (s.pageOwner off) false with
    | .perform => if colRead (off / 0x10000) r then s.readReg off else 0
    | _ => 0

/-- The record that an access which is not let in leaves (R448). -/
def State.regRecord (s : State) (off n : Nat) (r : Requester) (write : Bool) : State :=
  if !regAligned off n then s
  else
    match pageGate r (s.pageOwner off) write with
    | .deny k => s.updP (fun p => p.violate k 1 (sourceOf r) off)
    | _ => s

/-- A read of the register space: its answer in `lastRead`. -/
def State.registerRead (s : State) (off n : Nat) (r : Requester) : State :=
  (s.regRecord off n r false).updP (fun p => { p with lastRead := s.regValue off n r })

/-! ### Accesses of a tile (R448) -/

/-- The tile in focus as a requester, at the level of its core. -/
def State.asTile (s : State) : Requester := .tile s.tile.phys s.tile.core.level.atLeastK

/-- n bytes read by the tile in focus. -/
def State.tileRegBytes (s : State) (off n : Nat) : List Byte := if n = 8 then leBytes 8 (s.regValue off 8 s.asTile).toNat else List.replicate n 0

/-- The record that an access by the tile in focus may leave; its writes are dropped. -/
def State.tileRegRecord (s : State) (off n : Nat) (write : Bool) : State := s.regRecord off n s.asTile write

end Sys2Proof.Machine
end

