-- ==== Sys2Proof/Machine/VecOps.lean ====
section
/-! DEFINITION. What the vector commands share (R213, R214, R264 to R270): region roles, element
places, decode checks, address checks, reading and writing of elements, and element arithmetic. -/

namespace Sys2Proof

open Machine

/-! ### Fields of commands and regions; places of elements (R213, R266, R267) -/

def VCmd.tcode (c : VCmd) : Nat := plainType c.typ.toNat
def VCmd.scode (c : VCmd) : Nat := plainType (c.ops.extractLsb' 0 6).toNat
def VCmd.rm (c : VCmd) : Nat := (c.ops.extractLsb' 29 3).toNat
/-- The element type of TYPE, and of STYPE. -/
def VCmd.ty (c : VCmd) : ETy := (etyOfType c.tcode).getD (.int 8 false)
def VCmd.sty (c : VCmd) : ETy := (etyOfType c.scode).getD (.int 8 false)

def Region.srcMod (r : Region) : Bool := r.neg || r.abs
def Region.dstMod (r : Region) : Bool := r.clamp != 0 || r.scale != 0

/-- BASE lies in the lane-private window. -/
def Region.inLane (r : Region) : Bool := decide (laneBase ≤ r.base.toNat) && decide (r.base.toNat < laneBase + 0x800)

/-- Bit address of element i in the near map, by its stored width. -/
def Region.bitAt (r : Region) (w i : Nat) : Int :=
  8 * (r.base.toNat : Int) + (if r.inLane then (i / 64 : Nat) else i) * r.stride.toInt * w

/-- The first and last byte of element i in the near map. -/
def Region.firstByte (r : Region) (w i : Nat) : Int := r.bitAt w i / 8
def Region.lastByte (r : Region) (w i : Nat) : Int := (r.bitAt w i + w - 1) / 8

/-- A byte of element i exists for V: in a lane region only the window itself (R267); elsewhere the map
of R133 with slices of the launch, the lane window included. -/
def Machine.laneOk (r : Region) (ntile : Nat) (x : Int) : Bool :=
  if r.inLane then decide (laneBase ≤ x) && decide (x < laneBase + 0x800) else decide (0 ≤ x) && engNear ntile x.toNat

/-- Element i lies wholly in bytes that exist. -/
def Region.elemOk (r : Region) (ntile w i : Nat) : Bool :=
  Machine.laneOk r ntile (r.firstByte w i) && Machine.laneOk r ntile (r.lastByte w i)

/-- Where a byte of element i is kept: lane i mod 64 has its own slice (R267), whether the region starts in the window or
only reaches into it, which R267 does not say (log 134). -/
def Machine.lanePlace (i x : Nat) : Nat := if laneBase ≤ x ∧ x < laneBase + 0x800 then x + i % 64 * 0x800 else x

/-- Start and length in bytes of element i as it is kept. -/
def Region.place (r : Region) (w i : Nat) : Nat × Nat :=
  (Machine.lanePlace i (r.firstByte w i).toNat, (r.lastByte w i - r.firstByte w i + 1).toNat)

/-- The interval from the lowest to the highest element (R218). -/
def Region.hull (r : Region) (w : Nat) : Nat × Nat :=
  let l := r.count.toNat - 1
  (((min (r.firstByte w 0) (r.firstByte w l))).toNat, ((max (r.lastByte w 0) (r.lastByte w l))).toNat + 1)

end Sys2Proof

namespace Sys2Proof.Machine

/-! ### Shape of a command -/

/-- Region roles (R266). -/
inductive VRole where | d | a | b | m | x | y | sc | ring
deriving DecidableEq, Repr, Inhabited

/-- What decode demands of an opcode (R266, R268, R270 and the entries): the roles by NREG, the OPS
bits in use, whether RM stands in OPS and may be SR, accepted TYPE and STYPE codes, whether regions
and D take modifiers, the type code of A, and the conditions of the entry: `code` without regard to
the type, `typed` with it, `counts` on n and the counts by role. -/
structure VSpec where
  roles : Nat → Option (List VRole)
  free : BitVec 32 := 0
  rm : Bool := false
  sr : Bool := false
  types : List Nat
  styp : Option (List Nat) := none
  noMod : Bool := false
  dMod : Bool := true
  aTy : VCmd → Nat := fun c => plainType c.typ.toNat
  code : VCmd → Bool := fun _ => true
  typed : VCmd → ETy → Bool := fun _ _ => true
  counts : VCmd → Nat → (VRole → Nat) → Bool := fun _ _ _ => true
  bcast : Bool := true
  dRead : Bool := false

def intTypes : List Nat := [0, 1, 2, 3, 4, 5, 6, 7]
def fpTypes : List Nat := [8, 9, 10]
/-- Matrix formats that v.mov and v.cvt accept (R270). -/
def matTypes : List Nat := [0x11, 0x14, 0x15, 0x16, 0x17, 0x18, 0x1B]
/-- Block-scaled formats (R277, R278). -/
def blkTypes : List Nat := [0x14, 0x15, 0x16, 0x17, 0x18, 0x1C, 0x1D, 0x1E]

/-- Regions with their roles. -/
def VSpec.uses (sp : VSpec) (c : VCmd) : List (VRole × Region) := ((sp.roles c.regs.length).getD []).zip c.regs

def VSpec.reg? (sp : VSpec) (c : VCmd) (r : VRole) : Option Region := ((sp.uses c).find? (fun u => u.1 == r)).map (·.2)
/-- The region of a role; a role that the command lacks has an empty one. -/
def VSpec.reg (sp : VSpec) (c : VCmd) (r : VRole) : Region := (sp.reg? c r).getD ⟨0, 0, 0, false, false, 0, 0⟩
def VSpec.count (sp : VSpec) (c : VCmd) (r : VRole) : Nat := (sp.reg c r).count.toNat

/-- n (R266): D.COUNT, or the largest of A and B. -/
def VSpec.n (sp : VSpec) (c : VCmd) : Nat :=
  match sp.reg? c .d with
  | some r => r.count.toNat
  | none => max (sp.count c .a) (sp.count c .b)

/-- Element width in bits by role (R266). -/
def VSpec.width (sp : VSpec) (c : VCmd) (r : VRole) : Nat :=
  match r with
  | .m => 64
  | .x | .y => 32
  | .sc => match (if sp.aTy c ∈ blkTypes then sp.aTy c else c.tcode) with
    | 0x1C | 0x1D | 0x1E => 16
    | _ => 8
  | .a => ((etyOfType (sp.aTy c)).getD (.int 8 false)).bits
  | _ => c.ty.bits

/-- The value type of a source role. -/
def VSpec.sty (sp : VSpec) (c : VCmd) (r : VRole) : ETy :=
  match r with
  | .y => .flt fmt32
  | .a => (etyOfType (sp.aTy c)).getD (.int 8 false)
  | _ => c.ty

/-! ### Decode (R214, R266 to R270) -/

/-- Modifiers that the role or the opcode excludes whatever the type (R268). -/
def VSpec.roleMods (sp : VSpec) (u : VRole × Region) : Bool :=
  match u.1 with
  | .a | .b | .y => u.2.dstMod || (sp.noMod && u.2.srcMod)
  | .d => u.2.srcMod || ((sp.noMod || !sp.dMod) && u.2.dstMod)
  | _ => u.2.srcMod || u.2.dstMod

/-- Modifiers that the type excludes (R268). -/
def VSpec.typeMods (sp : VSpec) (c : VCmd) (u : VRole × Region) : Bool :=
  match u.1 with
  | .a | .b | .y =>
    match sp.sty c u.1 with
    | .flt f => f.bits < 16 && u.2.srcMod
    | .int w sg => (!sg || w == 4) && u.2.srcMod
    | .lns => false
    | _ => u.2.srcMod
  | .d =>
    match c.ty with
    | .flt f => f.bits < 16 && u.2.dstMod
    | _ => u.2.dstMod
  | _ => false

/-- REGION_COUNT (R213, R266). -/
def VSpec.badCount (sp : VSpec) (c : VCmd) : Bool :=
  let n := sp.n c
  (sp.uses c).any (fun u => u.2.count == 0)
    || (sp.uses c).any (fun u => match u.1 with
        | .a | .b | .x | .y => sp.bcast && u.2.count.toNat != n && u.2.count != 1
        | .m => u.2.count.toNat != (n + 63) / 64
        | _ => false)
    || !sp.counts c n (sp.count c)

/-- The region of a role holds a BX payload (R267). -/
def VSpec.bxPayload (sp : VSpec) (c : VCmd) (r : VRole) : Bool :=
  match r with
  | .m | .x | .y | .sc => false
  | .a => [0x1C, 0x1D, 0x1E].contains (sp.aTy c)
  | _ => [0x1C, 0x1D, 0x1E].contains c.tcode

/-- REGION_ALIGN (R213, R267, R287). -/
def VSpec.badAlign (sp : VSpec) (c : VCmd) : Bool :=
  (sp.uses c).any (fun u =>
    let w := sp.width c u.1
    if u.2.stride = 1 then u.2.base.toNat % 64 != 0
    else w % 8 != 0 || sp.bxPayload c u.1 || u.1 == .ring || u.2.base.toNat % (w / 8) != 0)

/-- The decode fault of a V command, steps 3 to 5 of R214. -/
def VSpec.bad (sp : VSpec) (c : VCmd) : Option FaultInfo :=
  let typeOk := sp.types.contains c.tcode && (match sp.styp with | some l => l.contains c.scode | none => true)
  if (sp.roles c.regs.length).isNone || c.ops &&& ~~~sp.free != 0
      || (sp.rm && (decide (5 ≤ c.rm) || (c.rm == 4 && !sp.sr)))
      || !sp.code c || (sp.uses c).any sp.roleMods
      || (typeOk && (!sp.typed c c.ty || (sp.uses c).any (sp.typeMods c))) then some { code := .illegalOpcode }
  else if !typeOk then some { code := .streamFormat }
  else if sp.badCount c then some { code := .regionCount }
  else if sp.badAlign c then some { code := .regionAlign }
  else none

/-! ### Elements of regions -/

/-- Element i, bits as stored. -/
def State.vGet (s : State) (r : Region) (w i : Nat) : Nat :=
  let p := r.place w i
  leNat (s.nearN p.1 p.2) / 2 ^ (r.bitAt w i % 8).toNat % 2 ^ w

/-- Element i of a source, where a region of one element serves every i (R266). -/
def State.vSrc (s : State) (r : Region) (w i : Nat) : Nat := s.vGet r w (if r.count = 1 then 0 else i)

/-- Element i written by the command at ring index `n`; bits of the same bytes that belong to other elements stay. -/
def State.vPut (s : State) (n : W32) (r : Region) (w i x : Nat) : State :=
  let p := r.place w i
  let sh := (r.bitAt w i % 8).toNat
  let old := leNat (overWrites (s.tile.eng.writesOf .v n) (.own p.1) (s.nearN p.1 p.2))
  let new := old - (old / 2 ^ sh % 2 ^ w) * 2 ^ sh + x % 2 ^ w * 2 ^ sh
  s.queueWrite .v n (.own p.1) (leBytes p.2 new)

/-- How many elements of a region a command addresses. -/
def useCount (u : VRole × Region) : Nat := u.2.count.toNat

/-- CAP_BOUNDS: the first element in region and element order that does not exist (R269). The address is the exact sum;
one that is negative or past the map does not exist, and EVAL is its 64-bit two's complement (log 135). -/
def State.vBounds (s : State) (sp : VSpec) (c : VCmd) : Option FaultInfo :=
  (sp.uses c).findSome? (fun u =>
    let w := sp.width c u.1
    ((List.range (useCount u)).find? (fun i => !u.2.elemOk s.tile.par.ntile.toNat w i)).map
      (fun i => { code := .capBounds, eval := some (BitVec.ofInt 64 (u.2.firstByte w i)) }))

/-- Whether a role is read, and written. -/
def VSpec.reads (sp : VSpec) (c : VCmd) (r : VRole) : Bool :=
  match r with
  | .d => sp.dRead
  | .m => sp.n c != 0 && (sp.reg? c .d).isSome || (sp.reg? c .ring).isSome
  | .sc => c.regs.length == 3 && sp.aTy c ∈ blkTypes
  | .ring => (sp.reg? c .d).isSome
  | _ => true

def VSpec.writes (sp : VSpec) (c : VCmd) (r : VRole) : Bool :=
  match r with
  | .d => true
  | .m | .sc | .ring => !sp.reads c r
  | _ => false

/-- The bytes of every element, for the buffers (R220). -/
def VSpec.acc (sp : VSpec) (c : VCmd) : List Rng :=
  (sp.uses c).flatMap (fun u =>
    let w := sp.width c u.1
    let one (wr : Bool) : List Rng := (List.range (useCount u)).map (fun i => ⟨(u.2.firstByte w i).toNat, (u.2.lastByte w i).toNat + 1, wr⟩)
    (if sp.reads c u.1 then one false else []) ++ (if sp.writes c u.1 then one true else []))

/-- The range set of a V command (R218). -/
def VSpec.rngs (sp : VSpec) (c : VCmd) : List Rng :=
  (sp.uses c).flatMap (fun u =>
    let h := u.2.hull (sp.width c u.1)
    (if sp.reads c u.1 then [⟨h.1, h.2, false⟩] else []) ++ (if sp.writes c u.1 then [⟨h.1, h.2, true⟩] else []))

/-! ### Element arithmetic -/

/-- Src of an element as stored bits (R268): floats through their value. -/
def srcPat (t : ETy) (r : Region) (x : Nat) : Nat :=
  match t with
  | .int w true =>
    let v := intOf w true x
    let v : Int := if r.abs then (v.natAbs : Int) else v
    wrap w (if r.neg then -v else v)
  | .lns =>
    let y := if r.abs then x % 2 ^ 31 else x
    if r.neg then (if y.testBit 31 then y - 2 ^ 31 else y + 2 ^ 31) else y
  | .flt f => if f.bits < 16 then x else (f.round .rne ((f.decode x).src r.neg r.abs)).1
  | _ => x

/-- Src of an element as a value. -/
def srcVal (t : ETy) (r : Region) (x : Nat) : FVal :=
  match t with
  | .flt f => (f.decode x).src r.neg r.abs
  | .f19 | .bx _ => t.value x
  | _ => t.value (srcPat t r x)

/-- DstV (R271): rounded after the scale of the destination region, then clamped. -/
def dstV (f : Fmt) (r : ERound) (d : Region) (v : FVal) : Nat := f.clamp d.clamp (f.roundE r (v.scale d.scale.toInt))

/-- 1/√x (R262) with a sticky lowest bit. -/
def FVal.rsqrt (x : FVal) : FVal :=
  match x with
  | .nan _ => .nan false
  | .inf n => if n then .nan false else .fin false 0 0
  | .fin n m e =>
    if m = 0 then .inf n
    else if n then .nan false
    else
      let m' := if e % 2 = 0 then m else 2 * m
      let f := (if e % 2 = 0 then e else e - 1) / 2
      let k := extraBits + m'.log2
      let r := isqrt (2 ^ (2 * k) / m')
      .fin false (2 * r + (if r * r * m' = 2 ^ (2 * k) then 0 else 1)) (-f - k - 1)

/-- Op of the reductions (0 sum, 1 max, 2 min, 3 lmul) on element bits. -/
def redOp (t : ETy) (rm op : Nat) (x y : Nat) : Nat :=
  match t with
  | .int w sg =>
    let a := intOf w sg x
    let b := intOf w sg y
    wrap w (match op with
      | 0 => a + b
      | 1 => max a b
      | _ => min a b)
  | .flt f =>
    let a := f.decode x
    let b := f.decode y
    match op with
    | 0 => (f.round (rmodeOf rm) (FVal.add (rmodeOf rm) a b).1).1
    | 1 => (f.round .rne (a.max b).1).1
    | _ => (f.round .rne (a.min b).1).1
  | .lns =>
    let a := LVal.decode x
    let b := LVal.decode y
    (match op with
     | 0 => a.add b
     | 1 => a.max b
     | 2 => a.min b
     | _ => a.mul b).encode
  | _ => x

/-- One level of Tree (R281). -/
def treeLevel (f : Nat → Nat → Nat) : List Nat → List Nat
  | x :: y :: r => f x y :: treeLevel f r
  | r => r

/-- Tree, with fuel for its levels. -/
def treeOf (f : Nat → Nat → Nat) : Nat → List Nat → Nat
  | 0, w => w.headD 0
  | k + 1, w => if w.length ≤ 1 then w.headD 0 else treeOf f k (treeLevel f w)

/-- Id (R282). -/
def scanId (t : ETy) (op : Nat) : Nat :=
  match t, op with
  | .int _ _, 0 => 0
  | .int w sg, 1 => wrap w (intLo w sg)
  | .int w sg, _ => wrap w (intHi w sg)
  | .flt _, 0 => 0
  | .flt f, 1 => f.infCode true
  | .flt f, _ => f.infCode false
  | .lns, 0 => 0x40000000
  | .lns, 1 => 0xFFFFFFFF
  | .lns, 2 => 0x7FFFFFFF
  | _, _ => 0

/-- One segment from left to right (R282). -/
def scanSeg (f : Nat → Nat → Nat) (excl : Bool) : Option Nat → Nat → List Nat → List Nat
  | _, _, [] => []
  | acc, id, x :: r =>
    let next := match acc with
      | none => x
      | some a => f a x
    (if excl then acc.getD id else next) :: scanSeg f excl (some next) id r

/-! ### One V command -/

/-- What a V command computes from the old values: the elements it writes, by role, and its effect
beside them; or it has gone part of its way, will write those elements, and waits; or a fault. -/
inductive VRes where
  | out (puts : List (VRole × Nat × Nat)) (post : State → State)
  | stall (puts : List (VRole × Nat × Nat)) (left : Nat) (post : State → State)
  | fault (fi : FaultInfo)

/-- Elements of D in order. -/
def VRes.map (n : Nat) (f : Nat → Nat) : VRes := .out ((List.range n).map (fun i => (.d, i, f i))) id

/-- A near write of an element meets a write lock (R353: only bytes written count). -/
def State.vLocked (s : State) (sp : VSpec) (c : VCmd) (puts : List (VRole × Nat × Nat)) : Option FaultInfo :=
  if s.tile.near.locked.isEmpty then none
  else
    (puts.find? (fun p =>
      let q := (sp.reg c p.1).place (sp.width c p.1) p.2.1
      decide (q.1 < clusterBase) && meetsRanges s.tile.near.locked q.1 (q.1 + q.2))).map (fun p =>
        { code := .codeWrite, eval := some (BitVec.ofInt 64 ((sp.reg c p.1).firstByte (sp.width c p.1) p.2.1)) })

/-- A source element in a line with an uncorrectable error (R339). -/
def State.vEcc (s : State) (sp : VSpec) (c : VCmd) : Option FaultInfo :=
  if s.allTiles.all (fun t => t.near.ecc.isEmpty) then none
  else
    (sp.uses c).findSome? (fun u =>
      let w := sp.width c u.1
      ((List.range (useCount u)).find? (fun i => let q := u.2.place w i; s.nearEcc q.1 q.2)).map
        (fun i => { code := .memUncorrectable, eval := some (BitVec.ofInt 64 (u.2.firstByte w i)) }))

/-- The checks that come before the buffer states (R269, R353). -/
def State.vCheck (s : State) (sp : VSpec) (c : VCmd) (f : State → Cmd → VRes) : Option FaultInfo :=
  (s.vBounds sp c).or
    (match f s { eng := .v, idx := (s.tile.eng.ring .v).rp, words := 0, ts := 0, predTrue := true, rngs := [] } with
     | .out puts _ | .stall puts _ _ => s.vLocked sp c puts
     | _ => none)

/-- The work of a V command: `f` computes it; `skip` is what it still does predicated false. -/
def State.vCommand (s : State) (sp : VSpec) (c : VCmd) (f : State → Cmd → VRes) (skip : State → Cmd → VRes := fun _ _ => .out [] id) :
    Host.Outcome State Fault Refusal :=
  s.engCommand .v {
    semw := c.semw, semr := c.semr, pred := c.pred, words := 1 + c.regs.length, bad := sp.bad c, acc := sp.acc c,
    chk := fun s => s.vCheck sp c f,
    run := fun s k =>
      -- the sources are read once, after the buffer states (R269 step 3)
      match (if k.predTrue && k.held.isEmpty then s.vEcc sp c else none) with
      | some fi => .fault fi
      | none =>
        match (if k.predTrue then f s k else skip s k) with
        | .stall _ n post => .stall (post s) n
        | .fault fi => .fault fi
        | .out puts post => .done (post (puts.foldl (fun s p => s.vPut k.idx (sp.reg c p.1) (sp.width c p.1) p.2.1 p.2.2) s)) }

/-- Src element bits and value of a role. -/
def State.vPat (s : State) (sp : VSpec) (c : VCmd) (r : VRole) (i : Nat) : Nat :=
  srcPat (sp.sty c r) (sp.reg c r) (s.vSrc (sp.reg c r) (sp.width c r) i)

def State.vVal (s : State) (sp : VSpec) (c : VCmd) (r : VRole) (i : Nat) : FVal :=
  srcVal (sp.sty c r) (sp.reg c r) (s.vSrc (sp.reg c r) (sp.width c r) i)

/-- Bit i of a mask region (R222). -/
def State.vBit (s : State) (sp : VSpec) (c : VCmd) (i : Nat) : Bool := (s.vGet (sp.reg c .m) 64 (i / 64)).testBit (i % 64)

/-- The random bits of draw j of the command (R253): the unit number is that of R87. -/
def State.vRho (s : State) (k : Cmd) (j : Nat) : BitVec 16 :=
  let p := s.tile.par
  rngDraw p.seed (p.task.truncate 32) k.idx s.pkg.num (p.clus.toNat * p.ntile.toNat + p.tile.toNat) j

/-- The rounding of element j under a command's RM (R249, R252). -/
def State.vRound (s : State) (k : Cmd) (rm j : Nat) : ERound := if rm = 4 then .sr (s.vRho k j) else .mode (rmodeOf rm)

end Sys2Proof.Machine
end

