-- ==== Sys2Proof/Machine/EngMem.lean ====
section
/-! DEFINITION. Accesses of the matrix and transfer engines through capabilities (R148, R176, R293,
R312): checks, places, reads of home values and writes to the home (R141, R170). -/

namespace Sys2Proof.Machine

/-- Steps 1 to 8 of R148 for an engine access of n bytes. `pool` allows a resident frame of a CACHED
object (the matrix engine); PEER and, without `pool`, POOL raise CAP_TYPE. A near place is `own`
with its near address, whichever tile holds it. -/
def State.engLocate (s : State) (c : Cap) (a : W64) (n : Nat) (wr pool : Bool) : Try (State × Loc) :=
  let k : AccKind := if wr then .st else .ld
  if c.tag && (c.typ == 6 || (c.typ == 3 && !pool)) then .error (at' .capType a)
  else
    match s.checkCap c a n k with
    | .error fi => .error fi
    | .ok _ =>
      if a.toNat % n != 0 then .error (at' .misaligned a)
      else
        match c.typ.toNat with
        | 1 =>
          match s.nearCheck a.toNat n wr with
          | .error fi => .error fi
          | .ok _ => .ok (s, .own a.toNat)
        | 3 =>
          match s.poolLoc c a n k with
          | .error fi => .error fi
          | .ok (.direct _ _) => .error (at' .capType a)
          | .ok l => .ok (s, l)
        | _ =>
          -- X translates through its stream translation cache (R358)
          match s.translateBy (!pool) a k.xacc with
          | .error fi => .error fi
          | .ok (t, pa, ca) =>
            if (linesOf pa n).any (fun l => t.pkg.ecc.contains l) then .error (at' .memUncorrectable a)
            else
              match t.pkg.locOf pa ca with
              | .regs off => .ok (t.tileRegRecord off n wr, .regs off)
              | l => .ok (t, l)

/-- The bytes at a place. -/
def State.locRead (s : State) (l : Loc) (n : Nat) : List Byte :=
  match l with
  | .own a => s.nearN a n
  | .pkgMem pa _ => s.readHome pa n
  | .regs off => s.tileRegBytes off n
  | .frame pa _ _ => s.readHome pa n
  | _ => List.replicate n 0

/-- Bytes written at a place by the matrix or the transfer engine; forwarded frame lines carry the tile's token (R380). The
table of R297 names no such write: a block keeps its kind (log 102). -/
def State.locWrite (s : State) (l : Loc) (bs : List Byte) : State :=
  match l with
  | .own a => s.nearPut a bs false
  | .pkgMem pa _ => s.writeHome pa bs s.tile.sys.ptok
  | .frame pa _ _ => s.writeHome pa bs s.tile.sys.ptok
  | _ => s

/-- Work done with a token in PTOK: that of a command's start (R426). -/
def State.withTok (s : State) (tok : W64) (f : State → State) : State :=
  let p := s.tile.sys.ptok
  (f (s.mapSys (fun y => { y with ptok := tok }))).mapSys (fun y => { y with ptok := p })

/-- Queued writes of a command perform, in order, with the token of its start (R171, R176, R426). Of a task that is gone
nothing is left of a command once they all have (R337 step 3). -/
def State.performWrites (s : State) (c : Cmd) (now rest : List (Loc × List Byte)) : State :=
  let t := s.withTok c.tok (fun s => now.foldl (fun s x => s.locWrite x.1 x.2) s)
  if rest.isEmpty ∧ (s.tile.disp.run = .between ∨ s.tile.disp.run = .faulted ∨ s.tile.disp.run = .free) then
    t.mapEng (fun e => { e with cmds := e.cmds.filter (fun d => !(d.eng == c.eng && d.idx == c.idx)) })
  else t.updCmd c.eng c.idx (fun d => d.wrote rest)

/-- The queued write number k of a command, with the others in its aligned 8-byte word (R171). -/
def State.performWord (s : State) (c : Cmd) (k : Nat) : State :=
  match c.writes[k % c.writes.length]? with
  | none => s
  | some w => s.performWrites c (c.writes.filter (fun x => x.1.sameWord w.1)) (c.writes.filter (fun x => !x.1.sameWord w.1))

/-- Every queued write of an engine that meets one of some places of `unit` bytes performs, in entry order (R176). -/
def State.settlePath (s : State) (eg : Eng) (meets : Loc × List Byte → Bool) : State :=
  (s.tile.eng.cmds.filter (fun c => c.eng == eg && c.writes.any meets)).foldl (fun s c =>
    s.performWrites c (c.writes.filter meets) (c.writes.filter (fun x => !meets x))) s

/-- An access at the exact sum of its address (R9): one that is no 64-bit address lies in no bounds, so it fails at
step 5 of R148, after the checks of the capability. -/
def State.engLocateAt (s : State) (c : Cap) (x : Int) (n : Nat) (wr pool : Bool) : Try (State × Loc) :=
  s.engLocate (if x < 0 ∨ 2 ^ 64 < x + n then { c with len := 0 } else c) (BitVec.ofInt 64 x) n wr pool

/-- Several of them in order. -/
def State.engLocatesAt (s : State) (c : Cap) (n : Nat) (wr pool : Bool) : List Int → Try (State × List Loc)
  | [] => .ok (s, [])
  | x :: r =>
    match s.engLocateAt c x n wr pool with
    | .error fi => .error fi
    | .ok (t, l) =>
      match t.engLocatesAt c n wr pool r with
      | .error fi => .error fi
      | .ok (u, ls) => .ok (u, l :: ls)

/-- Several accesses of one size located in order. -/
def State.engLocates (s : State) (c : Cap) (n : Nat) (wr pool : Bool) : List W64 → Try (State × List Loc)
  | [] => .ok (s, [])
  | a :: r =>
    match s.engLocate c a n wr pool with
    | .error fi => .error fi
    | .ok (t, l) =>
      match t.engLocates c n wr pool r with
      | .error fi => .error fi
      | .ok (u, ls) => .ok (u, l :: ls)

end Sys2Proof.Machine
end

