-- ==== Sys2Proof/Machine/Matrix.lean ====
section
/-! DEFINITION. The matrix commands (R292 to R304) over the loop nest (R223 to R226), with sealed
operands (R303, R304) and sub-array gating (R227, R308). -/

namespace Sys2Proof.Machine

/-! ### Descriptor fields (10) -/

def Sd.cap (d : Sd) : CReg := d.w[0].extractLsb' 60 4
def Sd.fmt (d : Sd) : Nat := (d.w[0].extractLsb' 56 4).toNat
def Sd.sfmt (d : Sd) : Nat := (d.w[0].extractLsb' 54 2).toNat
/-- OFFSET and SOFF are unsigned: the map calls no bit of them a sign (log 33). -/
def Sd.offset (d : Sd) : Int := (d.w[0].extractLsb' 0 40).toNat
def Sd.rows (d : Sd) : Nat := (d.w[1].extractLsb' 48 16).toNat
def Sd.cols (d : Sd) : Nat := (d.w[1].extractLsb' 32 16).toNat
def Sd.rstride (d : Sd) : Int := (d.w[1].extractLsb' 0 32).toInt
def Sd.estride (d : Sd) : Int := (d.w[2].extractLsb' 48 16).toInt
def Sd.soff (d : Sd) : Int := (d.w[2].extractLsb' 0 40).toNat
def Sd.sstride (d : Sd) : Int := (d.w[3].extractLsb' 32 32).toInt
def Sd.post (d : Sd) : Int := (d.w[3].extractLsb' 0 32).toInt
/-- INC0 to INC5. -/
def Sd.incs (d : Sd) : List Int :=
  [d.w[4], d.w[5], d.w[6]].flatMap (fun w => [(w.extractLsb' 0 32).toInt, (w.extractLsb' 32 32).toInt])

/-- The element type of the descriptor, and its width in bits. -/
def Sd.ety (d : Sd) : ETy := (etyOfFmt d.fmt).getD (.int 8 true)
def Sd.bits (d : Sd) : Nat := d.ety.bits

/-- K per step (R237). -/
def kPerStep (f : Nat) : Nat :=
  match f with
  | 0 | 1 => 16 | 2 | 3 => 32 | 4 | 5 => 64 | 6 | 7 => 80 | 8 => 128 | 9 | 0xA => 64 | 0xB => 128
  | 0xC => 64 | 0xD => 96 | _ => 160

/-- Integer formats. -/
def intFmt (f : Nat) : Bool := decide (9 ≤ f ∧ f ≤ 0xB)

/-- The descriptor of a number, as it stands. -/
def State.sd (s : State) (n : BitVec 4) : Sd := s.tile.eng.sds[n.toFin]

/-! ### Decode (R214, R240, R246, R248, R298, R300, R301) -/

/-- What a descriptor must satisfy for an operand of mma. -/
def Sd.mmaOk (d : Sd) : Bool :=
  let f := d.fmt
  let scaled := d.sfmt != 0
  f != 0xF && d.sfmt != 3 && !(d.sfmt == 1 && !decide (4 ≤ f ∧ f ≤ 8)) && ((d.sfmt == 2) == decide (0xC ≤ f))
    && (!(scaled || decide (d.bits < 8)) || d.estride == 1)
    && (!scaled || d.post % (4 * d.bits : Nat) == 0)
    && decide (1 ≤ d.rows ∧ d.rows ≤ 16) && decide (1 ≤ d.cols ∧ d.cols ≤ kPerStep f)

/-- And for acc.ld and acc.out. -/
def Sd.accOk (d : Sd) (ld : Bool) : Bool :=
  (if ld then d.fmt == 0 || d.fmt == 2 || d.fmt == 3 else decide (d.fmt ≤ 0xB)) && d.sfmt == 0
    && (!decide (d.bits < 8) || d.estride == 1)
    && decide (1 ≤ d.rows ∧ d.rows ≤ 16) && decide (1 ≤ d.cols ∧ d.cols ≤ 16)

/-- The M opcodes (R292). -/
inductive MOp where | mma | mmaDc | zero | ld | out
deriving DecidableEq, Repr, Inhabited

/-- Fields that an opcode reserves (R292). -/
def MOp.reserved (op : MOp) (c : MCmd) : Bool :=
  let dcs := c.dcf != 0 || c.dcbank || c.acca != 0
  let ns := c.na || c.nb || c.nacc
  c.rsv != 0 ||
    (match op with
     | .mma => dcs
     | .mmaDc => c.sa != 0
     | .zero => c.sa != 0 || c.sb != 0 || ns || dcs
     | .ld | .out => c.sb != 0 || ns || dcs)

/-- The decode fault of an M command. -/
def State.mBad (s : State) (op : MOp) (c : MCmd) : Option FaultInfo :=
  if op.reserved c then some { code := .illegalOpcode }
  else
    let a := s.sd c.sa
    let b := s.sd c.sb
    let ok := match op with
      | .mma => a.mmaOk && b.mmaOk && (intFmt a.fmt == intFmt b.fmt) && kPerStep a.fmt == kPerStep b.fmt
      | .mmaDc => b.mmaOk && !intFmt b.fmt && decide (c.dcf.toNat ≤ 8)
      | .zero => true
      | .ld => a.accOk true
      | .out => a.accOk false
    if ok then none else some { code := .streamFormat }

/-- The descriptors a command names (R221, R223). -/
def MOp.sds (op : MOp) (c : MCmd) : List (BitVec 4) :=
  match op with
  | .mma => [c.sa, c.sb] | .mmaDc => [c.sb] | .zero => [] | .ld | .out => [c.sa]

/-! ### The loop nest (R224) -/

/-- Iterations, DA and DACC of a level word. -/
def nestCount (w : W64) : Nat := (w.extractLsb' 48 16).toNat + 1
def nestDa (w : W64) : Int := (w.extractLsb' 16 16).toInt
def nestDacc (w : W64) : Int := (w.extractLsb' 0 16).toInt

/-- Every point (i0, …) in order: level 0 innermost. -/
def nestPoints : List W64 → List (List Nat)
  | [] => [[]]
  | w :: r => (nestPoints r).flatMap (fun q => (List.range (nestCount w)).map (fun i => i :: q))

/-- Σ i_j · d_j. -/
def dotSum : List Nat → List Int → Int
  | i :: is, d :: ds => i * d + dotSum is ds
  | _, _ => 0

/-! ### Accumulator blocks (10, R297) -/

/-- Near address of a block of a bank. -/
def blockAt (bank : Bool) (b : Nat) : Nat := accBase + (if bank then 0x18000 else 0) + b * 0x400

/-- The 256 words of a block. -/
def State.blockWords (s : State) (bank : Bool) (b : Nat) : Vector Nat 256 :=
  let bs := s.tile.near.readN (blockAt bank b) 1024
  let ws := chunks 4 bs
  Vector.ofFn (fun i => leNat (ws.getD i.val []))

def kindIx (bank : Bool) (b : Nat) : Nat := (if bank then 96 else 0) + b

def State.blockKind (s : State) (bank : Bool) (b : Nat) : BlockKind := s.tile.near.kinds.toList.getD (kindIx bank b) .raw

/-- A block written with its kind. -/
def State.putBlock (s : State) (bank : Bool) (b : Nat) (ws : List Nat) (k : BlockKind) : State :=
  (s.nearPut (blockAt bank b) (ws.flatMap (leBytes 4)) false).mapNear (fun n =>
    { n with kinds := Vector.ofFn (fun i => if i.val = kindIx bank b then k else n.kinds[i]) })

/-! ### Operand elements (R223, R238, R241) -/

/-- Address of the row r at a point: R223's sum, exact (R9). -/
def Sd.rowAddr (d : Sd) (cap : Cap) (pt : List Nat) (r : Nat) : Int :=
  cap.cursor.toNat + d.offset + dotSum pt d.incs + r * d.rstride

/-- Exact address and length in bytes of element (r, c), and its bit position in those bytes. -/
def Sd.elemAt (d : Sd) (cap : Cap) (pt : List Nat) (r c : Nat) : Int × Nat × Nat :=
  if d.bits < 8 then
    let q := d.bits * c
    (d.rowAddr cap pt r + (q / 8 : Nat), (q % 8 + d.bits + 7) / 8, q % 8)
  else (d.rowAddr cap pt r + c * d.estride * (d.bits / 8 : Nat), d.bits / 8, 0)

/-- The bit offset of column c from OFFSET along the row (R241). -/
def Sd.bitOff (d : Sd) (pt : List Nat) (c : Nat) : Int := 8 * dotSum pt d.incs + d.bits * c

/-- Size of a scale, and the exact address of the scale of element (r, c). R241's div rounds down here, where the spec does
not say how it rounds a negative or an inexact quotient (log 133). -/
def Sd.scaleSize (d : Sd) : Nat := if d.sfmt = 2 then 2 else 1
def Sd.scaleAt (d : Sd) (cap : Cap) (pt : List Nat) (r c : Nat) : Int :=
  cap.cursor.toNat + d.soff + r * d.sstride + d.bitOff pt c / (32 * d.bits : Nat) * d.scaleSize

/-- Positions (r, c) of a descriptor's block in order. -/
def Sd.positions (d : Sd) : List (Nat × Nat) := (List.range d.rows).flatMap (fun r => (List.range d.cols).map (fun c => (r, c)))

/-- The value of element bits under their scale. -/
def Sd.value (d : Sd) (pt : List Nat) (c scale x : Nat) : FVal :=
  match d.ety with
  | .bx m => bxValue m scale (d.bitOff pt c / d.bits % 32).toNat x
  | t =>
    if d.sfmt = 1 then
      match e8m0 scale with
      | some k => (t.value x).scale k
      | none => .nan false
    else t.value x

/-! ### Sealed operands (R303, R304) -/

/-- Bytes of one page at a sealed capability's own addresses: a frame of the pool page cache or translated memory. -/
def State.sealedPart (s : State) (c : Cap) (a : W64) (n : Nat) : Try (State × List Byte) :=
  if c.typ == 4 then
    match s.poolLoc { c with typ := 3 } a n .ld with
    | .error fi => .error fi
    | .ok (.direct _ _) => .error (at' .capType a)
    | .ok l => .ok (s, s.locRead l n)
  else
    match s.translate a .rd with
    | .error fi => .error fi
    | .ok (t, pa, _) =>
      if (linesOf pa n).any (fun l => t.pkg.ecc.contains l) then .error (at' .memUncorrectable a)
      else .ok (t, t.readHome pa n)

/-- Bytes at a sealed capability's own addresses, page by page. -/
def State.sealedBytes (s : State) (c : Cap) (a : W64) (n : Nat) : Try (State × List Byte) :=
  let k := pageSize - a.toNat % pageSize
  match s.sealedPart c a (min n k) with
  | .error fi => .error fi
  | .ok (t, bs) =>
    if n ≤ k then .ok (t, bs)
    else
      match t.sealedPart c (a + BitVec.ofNat 64 k) (n - k) with
      | .error fi => .error fi
      | .ok (u, cs) => .ok (u, bs ++ cs)

/-- What the header of a sealed object says (R156): OBJID, VERSION, NSEG, and the authenticated bytes. -/
structure SealHdr where
  objid : Nat
  version : Nat
  nseg : Nat
  aad : List Byte
  origin : W64
deriving DecidableEq, Repr, Inhabited

/-- Payload offsets of a SEALED-POOL capability count from 0, addresses of SEALED-LOCAL from BASE
(R374, R303). -/
def sealOrigin (c : Cap) : W64 := if c.typ == 4 then 0 else c.base

def State.sealHdr (s : State) (c : Cap) : Try (State × SealHdr) :=
  match s.sealedBytes c (sealOrigin c) 0x14 with
  | .error fi => .error fi
  | .ok (t, bs) => .ok (t, ⟨leNat (bs.take 6), leNat ((bs.drop 8).take 2), leNat ((bs.drop 16).take 4), bs, sealOrigin c⟩)

/-- Steps 5 and 6 of R148 for an access of a sealed stream: the capability's own bounds (R374 for SEALED-POOL),
and alignment but for the single bytes of a format under 8 bits. -/
def sealRange (c : Cap) (x : Int × Nat × Bool) : Option FaultInfo :=
  let n := x.2.1
  let a : W64 := BitVec.ofInt 64 x.1
  if (if c.typ == 4 then decide (x.1 + n > c.len.toNat)
      else decide (x.1 < c.base.toNat) || decide (x.1 + n > c.base.toNat + c.len.toNat)) then some (at' .capBounds a)
  else if !x.2.2 && x.1 % n != 0 then some (at' .misaligned a)
  else none

/-- Steps 5 to 7 of R148 for every access of a sealed stream, in order: with its place (R355, R376). -/
def State.sealAccesses (s : State) (c : Cap) : List (Int × Nat × Bool) → Try State
  | [] => .ok s
  | x :: r =>
    match sealRange c x with
    | some fi => .error fi
    | none =>
      match s.sealedBytes c (BitVec.ofInt 64 x.1) x.2.1 with
      | .error fi => .error fi
      | .ok (t, _) => t.sealAccesses c r

/-- Step 2 of R148 as R303 replaces it, and steps 4 to 7, on the accesses (address, length, byte by byte) of a stream. The
object id is that of the object's header, for a SEALED-POOL capability too (log 137). -/
def State.sealCheck (s : State) (d : Sd) (c : Cap) (acc : List (Int × Nat × Bool)) : Try (State × SealHdr) :=
  let refuse : Try (State × SealHdr) := .error { code := .sealedPolicy, eval := some (c.pol.zeroExtend 64) }
  if !d.keyed || d.pol != c.pol then refuse
  else
    match s.sealHdr c with
    | .error fi => .error fi
    | .ok (t, h) =>
      if d.objid.toNat ≠ h.objid then refuse
      else
        let lo : Int := h.origin.toNat + 0x100
        let hi : Int := lo + 256 * h.nseg
        match acc.find? (fun x => decide (x.1 < lo) || decide (x.1 + x.2.1 > hi)) with
        | some x => .error (at' .capBounds (BitVec.ofInt 64 x.1))
        | none =>
          if !c.perm.getLsbD 11 || c.tenant != s.tile.tenant then .error (at' .capPerm (BitVec.ofInt 64 (acc.headD (0, 0, false)).1))
          else
            match t.sealAccesses c acc with
            | .error fi => .error fi
            | .ok u => .ok (u, h)

/-- A sealed segment as it is read: its number, ciphertext and tag. -/
structure Segment where
  j : Nat
  ct : List Byte
  tag : List Byte
deriving DecidableEq, Repr, Inhabited

/-- Segments read whole, in order (R304). -/
def State.sealFetch (s : State) (c : Cap) (h : SealHdr) : List Nat → Try (State × List Segment)
  | [] => .ok (s, [])
  | j :: r =>
    match s.sealedBytes c (h.origin + 0x100 + BitVec.ofNat 64 (256 * j)) 256 with
    | .error fi => .error fi
    | .ok (t, ct) =>
      match t.sealedBytes c (h.origin + 0x100 + BitVec.ofNat 64 (256 * h.nseg + 8 * j)) 8 with
      | .error fi => .error fi
      | .ok (u, tag) =>
        match u.sealFetch c h r with
        | .error fi => .error fi
        | .ok (v, m) => .ok (v, ⟨j, ct, tag⟩ :: m)

/-- A segment decrypted, its tag verified (R157, R304). -/
def Segment.unseal (x : Segment) (d : Sd) (h : SealHdr) : Try (Nat × List Byte) :=
  let iv := beBytes 6 h.objid ++ beBytes 4 x.j ++ beBytes 2 h.version
  let (pt, full) := gcmDecrypt (beBytes 32 d.key.toNat) iv h.aad x.ct
  if full.take 8 = x.tag then .ok (x.j, pt) else .error { code := .sealedIntegrity, eval := some (BitVec.ofNat 64 x.j) }

/-- Segments in order. -/
def openAll (d : Sd) (h : SealHdr) : List Segment → Try (List (Nat × List Byte))
  | [] => .ok []
  | x :: r =>
    match x.unseal d h with
    | .error fi => .error fi
    | .ok p =>
      match openAll d h r with
      | .error fi => .error fi
      | .ok m => .ok (p :: m)

/-! ### One fill -/

/-- The accesses of a stream at a point: elements, then scales (R293 step 2). -/
def Sd.elemAcc (d : Sd) (c : Cap) (pt : List Nat) : List (Int × Nat) := d.positions.map (fun p => let e := d.elemAt c pt p.1 p.2; (e.1, e.2.1))
def Sd.scaleAcc (d : Sd) (c : Cap) (pt : List Nat) : List (Int × Nat) :=
  if d.sfmt = 0 then [] else d.positions.map (fun p => (d.scaleAt c pt p.1 p.2, d.scaleSize))

/-- Step 8 of R148 for an access of the running M command at ring index `idx` (R155, R220): the buffer is taken by the
command in this role, or its state at the command's place lets it be. -/
def State.mBufFault (s : State) (idx : W32) (r : Rng) : Option W64 :=
  (s.tile.eng.cmd .m idx).bind (fun c => ((bufUses c.decls [r]).find? (fun u =>
    let has (l : List (BitVec 6)) : Bool := l.any (fun b => b.toNat == u.1)
    !has (if r.wr then c.prod else c.cons) &&
      (has (if r.wr then c.cons else c.prod)
        || (s.tile.bufStAt u.1 (·.before c)).any (fun st => if r.wr then st != .empty else st != .full)))).map (fun u => BitVec.ofNat 64 u.1))

/-- Accesses of one stream located in order: with `bytewise` the bytes of an element one by one, as those of
a format under 8 bits are (R238); each with its buffers (R148 step 8). -/
def State.fillPlain (s : State) (idx : W32) (c : Cap) (wr bytewise : Bool) : List (Int × Nat) → Try (State × List (List Loc))
  | [] => .ok (s, [])
  | (a, n) :: r =>
    match (if bytewise then s.engLocatesAt c 1 wr true ((List.range n).map (fun (i : Nat) => a + (i : Int))) else s.engLocatesAt c n wr true [a]) with
    | .error fi => .error fi
    | .ok (t, ls) =>
      match (if c.typ == 1 then t.mBufFault idx ⟨a.toNat, a.toNat + n, wr⟩ else none) with
      | some v => .error (at' .bufState v)
      | none =>
        match t.fillPlain idx c wr bytewise r with
        | .error fi => .error fi
        | .ok (u, m) => .ok (u, ls :: m)

/-- The bytes of the accesses of one stream, read through a plain capability. -/
def State.readPlain (s : State) (accs : List (Int × Nat)) (ls : List (List Loc)) : List (List Byte) :=
  (accs.zip ls).map (fun x => if x.2.length = 1 then x.2.flatMap (fun l => s.locRead l x.1.2) else x.2.flatMap (fun l => s.locRead l 1))

/-- The operand stream of a descriptor at a point: its places, or the header and the segments that it touches. -/
inductive Fill where
  | plain (ls : List (List Loc))
  | sealed_ (h : SealHdr) (segs : List Segment)

/-- A stream stands behind a sealed capability. -/
def State.sealedStream (s : State) (d : Sd) : Bool := let c := s.cap d.cap; c.tag && (c.typ == 4 || c.typ == 5)

/-- Offset of an address in the payload of a sealed object. -/
def SealHdr.off (h : SealHdr) (x : Int) : Nat := x.toNat - h.origin.toNat - 0x100

/-- The segments that accesses touch, in order. -/
def SealHdr.segments (h : SealHdr) (accs : List (Int × Nat)) : List Nat :=
  accs.foldl (fun m x => setInsert (setInsert m (h.off x.1 / 256)) ((h.off x.1 + x.2 - 1) / 256)) []

/-- The queued writes of earlier steps and commands of M that a fill meets perform before it (R176). -/
def State.settleFill (s : State) (ls : List (List Loc)) : State :=
  if s.tile.eng.cmds.all (fun c => c.writes.isEmpty) then s
  else s.settlePath .m (fun w => ls.any (fun l => l.any (fun x => x.meets (if l.length = 1 then 8 else 1) w.1 w.2.length)))

/-- Step 2 of R293 for one stream. `mayOpen` says whether the command may use a sealed capability (R301). -/
def State.fillCheck (s : State) (idx : W32) (d : Sd) (pt : List Nat) (wr mayOpen : Bool) : Try (State × Fill) :=
  let c := s.cap d.cap
  let accs := d.elemAcc c pt ++ d.scaleAcc c pt
  let first : W64 := BitVec.ofInt 64 (accs.headD (0, 0)).1
  if s.sealedStream d then
    if !mayOpen then .error (at' .sealedPath first)
    else
      match s.sealCheck d c ((d.elemAcc c pt).map (fun x => (x.1, x.2, decide (d.bits < 8))) ++ (d.scaleAcc c pt).map (fun x => (x.1, x.2, false))) with
      | .error fi => .error fi
      | .ok (t, h) =>
        match (t.settlePath .m (fun _ => true)).sealFetch c h (h.segments accs) with
        | .error fi => .error fi
        | .ok (u, segs) => .ok (u, .sealed_ h segs)
  else
    match s.fillPlain idx c wr (decide (d.bits < 8)) (d.elemAcc c pt) with
    | .error fi => .error fi
    | .ok (t, ls) =>
      match t.fillPlain idx c wr false (d.scaleAcc c pt) with
      | .error fi => .error fi
      | .ok (u, ms) => .ok (u.settleFill (ls ++ ms), .plain (ls ++ ms))

/-- Step 2 of R293 for the two streams of a step: A before B, but a sealed stream after a plain one, as R298 lists the
faults of R148 before those of the seal (log 136). Under .dc there is no stream A. -/
def State.fillChecks (s : State) (idx : W32) (a : Option Sd) (b : Sd) (pt : List Nat) : Try (State × Fill × Fill) :=
  match a with
  | none =>
    match s.fillCheck idx b pt false true with
    | .error fi => .error fi
    | .ok (t, g) => .ok (t, .plain [], g)
  | some a =>
    let last := s.sealedStream a && !s.sealedStream b
    match s.fillCheck idx (if last then b else a) pt false true with
    | .error fi => .error fi
    | .ok (t, f) =>
      match t.fillCheck idx (if last then a else b) pt false true with
      | .error fi => .error fi
      | .ok (u, g) => .ok (u, if last then (g, f) else (f, g))

/-- Step 3: the bytes of every access of the stream. -/
def State.fillBytes (s : State) (d : Sd) (pt : List Nat) (f : Fill) : Try (List (List Byte)) :=
  let c := s.cap d.cap
  let accs := d.elemAcc c pt ++ d.scaleAcc c pt
  match f with
  | .plain ls => .ok (s.readPlain accs ls)
  | .sealed_ h segs =>
    match openAll d h segs with
    | .error fi => .error fi
    | .ok m =>
      let byte (o : Nat) : Byte := (((m.find? (fun x => x.1 == o / 256)).map (·.2)).getD []).getD (o % 256) 0
      .ok (accs.map (fun x => (List.range x.2).map (fun i => byte (h.off x.1 + i))))

/-- The values of a block by position, from the bytes of a fill. -/
def Sd.values (d : Sd) (c : Cap) (pt : List Nat) (bs : List (List Byte)) : List (Nat × Nat × FVal) :=
  let ps := d.positions
  let es := bs.take ps.length
  let scs := bs.drop ps.length
  (ps.zip es).mapIdx (fun i x =>
    let sh := (d.elemAt c pt x.1.1 x.1.2).2.2
    (x.1.1, x.1.2, d.value pt x.1.2 (leNat (scs.getD i [])) (leNat x.2 / 2 ^ sh % 2 ^ d.bits)))

/-- Element bits by position. -/
def Sd.raws (d : Sd) (c : Cap) (pt : List Nat) (bs : List (List Byte)) : List (Nat × Nat × Nat) :=
  (d.positions.zip bs).map (fun x => (x.1.1, x.1.2, leNat x.2 / 2 ^ (d.elemAt c pt x.1.1 x.1.2).2.2 % 2 ^ d.bits))

/-- Row r of a block, in column order. -/
def rowOf (vs : List (Nat × Nat × FVal)) (r : Nat) : List FVal := (vs.filter (fun v => v.1 == r)).map (·.2.2)

/-! ### The products of a step (R243 to R246, R294 to R296, R298) -/

/-- One result element of a floating-point step. -/
def mmaFloat (sa sb : Bool) (acc : Option Nat) (as bs : List FVal) : Nat :=
  let start : ExSum := match acc with
    | some w => ExSum.add {} (fmt32.decode w)
    | none => {}
  let terms := (as.zip bs).flatMap (fun p => productTerms sa sb p.1 p.2)
  -- no accumulator and no product leave +0 (R298); a NaN accumulator gives the canonical NaN (R244)
  if acc.isNone ∧ terms.isEmpty then 0
  else (fmt32.round .rne (terms.foldl ExSum.add start).value).1

/-- One result element of an integer step, and whether it saturated. -/
def mmaInt (acc : Option Nat) (as bs : List FVal) : Nat × Bool :=
  let v (x : FVal) : Int := match x with
    | .fin n m e => signedAt n m e 0
    | _ => 0
  let t := (as.zip bs).foldl (fun t p => t + v p.1 * v p.2) ((acc.map (intOf 32 true)).getD 0)
  let r := sat t (-(2 ^ 31)) (2 ^ 31 - 1)
  (wrap 32 r, r != t)

/-- What a step of the nest needs of its command. -/
structure MStep where
  op : MOp
  c : MCmd
  da : List Int
  dacc : List Int
  idx : W32

/-- The result block and the .dc block of a point. -/
def MStep.blk (m : MStep) (pt : List Nat) : Int := m.c.acc.toNat + dotSum pt m.dacc
def MStep.blkA (m : MStep) (pt : List Nat) : Int := m.c.acca.toNat + dotSum pt m.da

def badBlock (b : Int) : Bool := decide (b < 0) || decide (95 < b)

/-- Step 1 of R293. -/
def MStep.range (m : MStep) (pt : List Nat) : Option FaultInfo :=
  if badBlock (m.blk pt) then some { code := .accRange, eval := some (BitVec.ofInt 64 (m.blk pt)) }
  else if m.op = .mmaDc ∧ badBlock (m.blkA pt) then some { code := .accRange, eval := some (BitVec.ofInt 64 (m.blkA pt)) }
  else none

/-- The A operand of a point under .dc: rows of 16 values converted to DCF (R248, R295). -/
def State.dcRows (s : State) (m : MStep) (pt : List Nat) : List (List FVal) :=
  let ws := (s.blockWords m.c.dcbank (m.blkA pt).toNat).toList
  let conv (w : Nat) : FVal :=
    match etyOfFmt m.c.dcf.toNat with
    | some t => t.value (t.ofValue (.mode .rne) 0 0 (fmt32.decode w))
    | none => .nan false
  (List.range 16).map (fun i => ((ws.drop (16 * i)).take 16).map conv)

/-- A step of mma (R298). `fresh` says that the accumulator term is zero (R296). -/
def State.mmaStep (s : State) (m : MStep) (pt : List Nat) (fresh : Bool) : Try State :=
  let c := m.c
  let dc := m.op == .mmaDc
  let blk := (m.blk pt).toNat
  let a := s.sd c.sa
  let b := s.sd c.sb
  let int := !dc && intFmt b.fmt
  let kind := s.blockKind c.bank blk
  if (!fresh && (if int then kind == .fp else kind == .int)) || (dc && s.blockKind c.dcbank (m.blkA pt).toNat == .int) then
    .error { code := .streamFormat }
  else
    match s.fillChecks m.idx (if dc then none else some a) b pt with
    | .error fi => .error fi
    | .ok (t, fillA, fillB) =>
    match (if dc then .ok [] else t.fillBytes a pt fillA) with
    | .error fi => .error fi
    | .ok bytesA =>
    match t.fillBytes b pt fillB with
    | .error fi => .error fi
    | .ok bytesB =>
      let neg (n : Bool) (v : FVal) : FVal := if n then v.negate else v
      let va := a.values (s.cap a.cap) pt bytesA
      let vb := b.values (s.cap b.cap) pt bytesB
      let rowsA := if dc then s.dcRows m pt else (List.range 16).map (rowOf va)
      let rowsA := rowsA.map (fun r => r.map (neg c.na))
      let rowsB := (List.range 16).map (fun j => (rowOf vb j).map (neg c.nb))
      let acc := (s.blockWords c.bank blk).toList
      let term (i j : Nat) : Option Nat := if fresh then none else some (acc.getD (16 * i + j) 0)
      let cells := (List.range 16).flatMap (fun i => (List.range 16).map (fun j => (i, j)))
      if int then
        let rs := cells.map (fun p => mmaInt (term p.1 p.2) (rowsA.getD p.1 []) (rowsB.getD p.2 []))
        let t := t.putBlock c.bank blk (rs.map (·.1)) .int
        .ok (if rs.any (·.2) then t.mapSys (fun y => { y with msat := 1 }) else t)
      else
        let sa := if dc then c.dcf == 0 else a.fmt == 0
        .ok (t.putBlock c.bank blk (cells.map (fun p => mmaFloat sa (b.fmt == 0) (term p.1 p.2) (rowsA.getD p.1 []) (rowsB.getD p.2 []))) .fp)

/-- A step of acc.ld (R300). -/
def State.ldStep (s : State) (m : MStep) (pt : List Nat) : Try State :=
  let d := s.sd m.c.sa
  match s.fillCheck m.idx d pt false false with
  | .error fi => .error fi
  | .ok (t, f) =>
    match t.fillBytes d pt f with
    | .error fi => .error fi
    | .ok bs =>
      let vs := d.raws (s.cap d.cap) pt bs
      let word (r c : Nat) : Nat := match vs.find? (fun v => v.1 == r && v.2.1 == c) with
        | some v => if d.fmt = 0 then v.2.2 else (fmt32.round .rne (d.ety.value v.2.2)).1
        | none => 0
      .ok (t.putBlock m.c.bank (m.blk pt).toNat ((List.range 256).map (fun i => word (i / 16) (i % 16)))
        (if d.fmt = 0 then .raw else .fp))

/-- The element that acc.out writes, from a block word (R301); none where the kind excludes the
format. -/
def outElem (f : Nat) (kind : BlockKind) (w : Nat) : Option Nat :=
  if f = 0 then some w
  else
    match etyOfFmt f with
    | none => none
    | some t =>
      if intFmt f then
        if kind = .fp then none else some (t.ofValue (.mode .rne) 0 0 (FVal.ofInt (intOf 32 true w)))
      else if kind = .int then none else some (t.ofValue (.mode .rne) 0 0 (fmt32.decode w))

/-- One element of acc.out stored; other bits of the same bytes stay. -/
def State.outPut (s : State) (n : W32) (e : Int × Nat × Nat) (ls : List Loc) (bits x : Nat) : State :=
  let read (l : Loc) (k : Nat) : List Byte := overWrites (s.tile.eng.writesOf .m n) l (s.locRead l k)
  let put (old : Nat) : Nat := old - old / 2 ^ e.2.2 % 2 ^ bits * 2 ^ e.2.2 + x % 2 ^ bits * 2 ^ e.2.2
  match ls with
  | [l] => s.queueWrite .m n l (leBytes e.2.1 (put (leNat (read l e.2.1))))
  | _ => (ls.zip (leBytes ls.length (put (leNat (ls.flatMap (fun l => read l 1)))))).foldl (fun s p => s.queueWrite .m n p.1 [p.2]) s

/-- A step of acc.out (R301). -/
def State.outStep (s : State) (m : MStep) (pt : List Nat) : Try State :=
  let d := s.sd m.c.sa
  let c := s.cap d.cap
  let blk := (m.blk pt).toNat
  let ws := (s.blockWords m.c.bank blk).toList
  let kind := s.blockKind m.c.bank blk
  if (outElem d.fmt kind 0).isNone then .error { code := .streamFormat }
  else
    match s.fillCheck m.idx d pt true false with
    | .error fi => .error fi
    | .ok (t, .plain ls) =>
      .ok ((d.positions.zip ls).foldl (fun t x =>
        t.outPut m.idx (d.elemAt c pt x.1.1 x.1.2) x.2 d.bits ((outElem d.fmt kind (ws.getD (16 * x.1.1 + x.1.2) 0)).getD 0)) t)
    | .ok (t, _) => .ok t

/-- The near bytes that the streams of a command touch at points of its nest, for the buffers (R220). -/
def State.mAcc (s : State) (op : MOp) (c : MCmd) (pts : List (List Nat)) : List Rng :=
  (op.sds c).flatMap (fun n =>
    let d := s.sd n
    let cap := s.cap d.cap
    if cap.typ != 1 then []
    else pts.flatMap (fun pt =>
      (d.elemAcc cap pt).map (fun x => ⟨x.1.toNat, x.1.toNat + x.2, op == .out⟩)
        ++ (d.scaleAcc cap pt).map (fun x => ⟨x.1.toNat, x.1.toNat + x.2, false⟩)))

/-- A step that has passed its checks takes the buffers it touches first (R220). -/
def State.mTake (s : State) (m : MStep) (pt : List Nat) : State :=
  match s.tile.eng.cmd .m m.idx with
  | none => s
  | some c =>
    if c.decls.isEmpty then s
    else
      let uses := (bufUses c.decls (s.mAcc m.op m.c [pt])).filter (fun u => !c.holds u.1)
      (s.takeBufs uses).updCmd .m m.idx (fun x => { x with
        prod := x.prod ++ (uses.filter (fun u => u.2.2)).map (fun u => BitVec.ofNat 6 u.1),
        cons := x.cons ++ (uses.filter (fun u => !u.2.2)).map (fun u => BitVec.ofNat 6 u.1) })

/-- One step at a point: R293 with its checks. -/
def State.mStep (s : State) (m : MStep) (pt : List Nat) (fresh : Bool) : Try State :=
  match m.range pt with
  | some fi => .error fi
  | none =>
    let r := match m.op with
      | .mma | .mmaDc => s.mmaStep m pt fresh
      | .zero => .ok (s.putBlock m.c.bank (m.blk pt).toNat (List.replicate 256 0) .raw)
      | .ld => s.ldStep m pt
      | .out => s.outStep m pt
    match r with
    | .ok t => .ok ((t.mTake m pt).mapEng (fun e => { e with msteps := e.msteps + 1 }))
    | .error fi => .error fi

/-- The steps from point k on; `seen` are the result blocks of the points before (R296). The fault of
a point leaves the earlier steps (R293). -/
def State.mSteps (s : State) (m : MStep) (k : Nat) (seen : List Int) : List (List Nat) → State × Option FaultInfo
  | [] => (s.mapEng (fun e => { e with mPoint := 0 }), none)
  | pt :: r =>
    let b := m.blk pt
    match s.mStep m pt (m.c.nacc && !seen.contains b) with
    | .error fi => (s.mapEng (fun e => { e with mPoint := k }), some fi)
    | .ok t => t.mSteps m (k + 1) (if seen.contains b then seen else b :: seen) r

/-! ### Sub-arrays (R227) -/

/-- Sub-array 2y + x makes rows 8y to 8y + 7 and columns 8x to 8x + 7 of the result: needed unless
wholly in padding. R227 numbers no sub-array and does not say which commands need one: the model lets mma and mma.dc
alone need them (log 34). -/
def State.mNeeds (s : State) (op : MOp) (c : MCmd) : BitVec 4 :=
  if op = .mma ∨ op = .mmaDc then
    let rows := if op = .mmaDc then 16 else (s.sd c.sa).rows
    let cols := (s.sd c.sb).rows
    BitVec.ofBool (decide (8 < rows ∧ 8 < cols)) ++ BitVec.ofBool (decide (8 < rows)) ++ BitVec.ofBool (decide (8 < cols)) ++ 1#1
  else 0

/-- Gated sub-arrays that the command needs wake. -/
def State.wakeArrays (s : State) (need : BitVec 4) : State :=
  s.mapEng (fun e =>
    let w := e.gated &&& need
    { e with gated := e.gated &&& ~~~need, mwakes := e.mwakes + popOf (w.zeroExtend 64) })

/-! ### Range sets (R218) -/

/-- Pseudo-range of a descriptor. -/
def sdRange (n : BitVec 4) : Nat × Nat := (0x4001000 + 64 * n.toNat, 0x4001000 + 64 * n.toNat + 64)

/-- Lowest and highest value of start + Σ i·step over ranges of i. -/
def spanOf (start : Int) (steps : List (Nat × Int)) : Int × Int :=
  steps.foldl (fun b x => (b.1 + min 0 (((x.1 - 1 : Nat) : Int) * x.2), b.2 + max 0 (((x.1 - 1 : Nat) : Int) * x.2))) (start, start)

/-- The near intervals of a descriptor's stream over a nest: elements, then scales; `moved` is what
earlier commands' post-increments still add to OFFSET. -/
def Sd.span (d : Sd) (cap : Cap) (nest : List W64) (moved : Nat) (wr : Bool) : List Rng :=
  if cap.typ != 1 then []
  else
    let d := (List.range moved).foldl (fun d _ => d.advance) d
    let cur : Int := cap.cursor.toNat
    let lv := (nest.map nestCount).zip d.incs
    let elem : List (Nat × Int) := if d.bits < 8 then [] else [(d.cols, d.estride * (d.bits / 8 : Nat))]
    let len := if d.bits < 8 then (d.cols * d.bits + 7) / 8 else d.bits / 8
    let e := spanOf (cur + d.offset) (lv ++ [(d.rows, d.rstride)] ++ elem)
    let one (lo hi : Int) (wr : Bool) : Rng := ⟨lo.toNat, hi.toNat, wr⟩
    let q := spanOf 0 (lv.map (fun x => (x.1, 8 * x.2)) ++ [(d.cols, (d.bits : Int))])
    let sc := spanOf (cur + d.soff) [(d.rows, d.sstride)]
    one e.1 (e.2 + len) wr ::
      (if d.sfmt = 0 then []
       else [one (sc.1 + q.1 / (32 * d.bits : Nat) * d.scaleSize) (sc.2 + (q.2 / (32 * d.bits : Nat) + 1) * d.scaleSize) false])

/-- The blocks that a base and steps reach. -/
def blocksOf (start : Int) (steps : List (Nat × Int)) : List Int :=
  steps.foldl (fun bs x => (bs.flatMap (fun b => (List.range x.1).map (fun (i : Nat) => b + (i : Int) * x.2))).eraseDups) [start]

def blockRngs (bank : Bool) (bs : List Int) (wr : Bool) : List Rng :=
  (bs.filter (fun b => !badBlock b)).map (fun b => ⟨blockAt bank b.toNat, blockAt bank b.toNat + 0x400, wr⟩)

/-- The range set of the M command at ring index `idx` over a nest: each earlier command of the stream that names a
descriptor and has neither completed nor passed still moves its OFFSET. -/
def State.mRngs (s : State) (op : MOp) (c : MCmd) (nest : List W64) (idx : W32) : List Rng :=
  let pend (n : BitVec 4) : Nat := (s.tile.eng.cmds.filter (fun k => k.eng == .m && !k.done && (k.predTrue || !k.performed) && k.idx != idx
    && decide ((idx - k.idx).toNat < 2 ^ 31) && k.rngs.any (fun r => r.lo == (sdRange n).1))).length
  let stream (n : BitVec 4) (wr : Bool) : List Rng := (s.sd n).span (s.cap (s.sd n).cap) nest (pend n) wr
  let res := blockRngs c.bank (blocksOf c.acc.toNat ((nest.map nestCount).zip (nest.map nestDacc)))
  let src := blockRngs c.dcbank (blocksOf c.acca.toNat ((nest.map nestCount).zip (nest.map nestDa))) false
  (op.sds c).map (fun n => ⟨(sdRange n).1, (sdRange n).2, true⟩) ++
    (match op with
     | .mma => stream c.sa false ++ stream c.sb false ++ res true ++ res false
     | .mmaDc => src ++ stream c.sb false ++ res true ++ res false
     | .zero => res true
     | .ld => stream c.sa false ++ res true
     | .out => res false ++ stream c.sa true)


/-! ### A command -/

/-- The active loop-nest bank (R225). -/
def Engs.nest (e : Engs) : List W64 := (if e.active then e.bank1 else e.bank0).toList
/-- The shadow bank. -/
def Engs.shadow (e : Engs) : List W64 := (if e.active then e.bank0 else e.bank1).toList

/-- The work of an M command: the go and the latch (R225), then the steps from the stop position. The record
holds the nest once it is latched. -/
def State.mRun (s : State) (op : MOp) (c : MCmd) (k : Cmd) : EngRes :=
  if k.raw.isEmpty && c.g && !s.tile.eng.go then .hold
  else
    let s := if k.raw.isEmpty && c.g then s.mapEng (fun e => { e with go := false }) else s
    if !k.predTrue then .done s
    else
      let nest : List W64 := if k.raw.isEmpty then s.tile.eng.nest else k.raw.map (fun w => w.extractLsb' 0 64)
      let s := s.updCmd .m k.idx (fun x => { x with raw := nest.map (fun w => w.zeroExtend 128) })
      let m : MStep := ⟨op, c, nest.map nestDa, nest.map nestDacc, k.idx⟩
      let pts := nestPoints nest
      let p := if k.raw.isEmpty then 0 else s.tile.eng.mPoint
      match (s.wakeArrays (s.mNeeds op c)).mSteps m p (((pts.take p).map m.blk).eraseDups) (pts.drop p) with
      | (t, none) => .done t
      | (t, some fi) => .part t fi

/-- Whether an M command at RP starts: it has its go (R225), and a buffer that it will take has no earlier command that
has not completed. -/
def State.mReady (s : State) (op : MOp) (c : MCmd) (k : Cmd) : Bool :=
  !(k.raw.isEmpty && c.g && !s.tile.eng.go) &&
    (k.decls.isEmpty || !k.raw.isEmpty ||
      (let uses := bufUses k.decls (s.mAcc op c (nestPoints s.tile.eng.nest))
       (s.tile.bufStartFault (·.before k) uses).isSome || !s.tile.bufWaits (·.before k) uses))

/-- An M command. -/
def State.mCommand (s : State) (op : MOp) (c : MCmd) : Host.Outcome State Fault Refusal :=
  s.engCommand .m {
    semw := c.semw, semr := c.semr, pred := c.pred, words := 1, bad := s.mBad op c,
    sds := op.sds c, ready := fun s k => s.mReady op c k, run := fun s k => s.mRun op c k }

/-- mma (R298). -/
def execMma (c : MCmd) (s : State) : Host.Outcome State Fault Refusal := s.mCommand .mma c

/-- mma.dc (R298, R226, R295). -/
def execMmaDc (c : MCmd) (s : State) : Host.Outcome State Fault Refusal := s.mCommand .mmaDc c

/-- acc.zero (R299). -/
def execAccZero (c : MCmd) (s : State) : Host.Outcome State Fault Refusal := s.mCommand .zero c

/-- acc.ld (R300). -/
def execAccLd (c : MCmd) (s : State) : Host.Outcome State Fault Refusal := s.mCommand .ld c

/-- acc.out (R301). -/
def execAccOut (c : MCmd) (s : State) : Host.Outcome State Fault Refusal := s.mCommand .out c

/-- The M command of an instruction. -/
def mOf : Instr → Option (MOp × MCmd)
  | .mma c => some (.mma, c)
  | .mmaDc c => some (.mmaDc, c)
  | .accZero c => some (.zero, c)
  | .accLd c => some (.ld, c)
  | .accOut c => some (.out, c)
  | _ => none

/-- The nest that an M command will latch as it stands at its append: the active bank, or the shadow bank for a G = 1
command that must wait for a go (log 35). -/
def State.mNest (s : State) (c : MCmd) (goPending : Bool) : List W64 :=
  if c.g && (!s.tile.eng.go || goPending) then s.tile.eng.shadow else s.tile.eng.nest

/-- The range set of an M command at its append. -/
def State.mAppend (s : State) (op : MOp) (c : MCmd) (goPending : Bool) (idx : W32) : List Rng := s.mRngs op c (s.mNest c goPending) idx

/-- SUBARRAY_POWER_GATE (R227): sub-array `ix` has been idle for MIDLE cycles. -/
def execSubarrayPowerGate (s : State) : Host.Outcome State Fault Refusal :=
  if s.tile.sys.midle = 0 ∨ s.arg.ix ≥ 4 then .next s
  else .next (s.mapEng (fun e => { e with gated := e.gated ||| BitVec.ofNat 4 (2 ^ s.arg.ix) }))

end Sys2Proof.Machine
end

