-- ==== Sys2Proof/Machine/PoolOps.lean ====
section
/-! DEFINITION. Packages of the pod brought into focus, and the operations of the pool (R373 to R391):
gates with fence tokens and keys, leases at the node, frames of the pool-page cache. -/

namespace Sys2Proof.Machine

/-! ### Focus -/

def insertTile (t : Tile) : List Tile → List Tile
  | [] => [t]
  | x :: r => if t.phys < x.phys then t :: x :: r else x :: insertTile t r

def insertPkg (p : Package) : List Package → List Package
  | [] => [p]
  | x :: r => if p.num < x.num then p :: x :: r else x :: insertPkg p r

/-- The machine with a tile of a package in focus, if it has them. -/
def State.focus (s : State) (n phys : Nat) : Option State :=
  if s.pkg.num = n ∧ s.tile.phys = phys then some s
  else
    let all := insertPkg { s.pkg with tiles := insertTile s.tile s.pkg.tiles } s.peers
    match all.find? (fun p => p.num == n) with
    | none => none
    | some p =>
      (p.tiles.find? (fun t => t.phys == phys)).map (fun t =>
        { s with tile := t, pkg := { p with tiles := p.tiles.filter (fun x => x.phys != phys) }, peers := all.filter (fun x => x.num != n) })

/-- A change made with another package in focus, by its first tile; nothing where there is no such package. -/
def State.onPkg (s : State) (n : Nat) (f : State → State) : State :=
  if s.pkg.num = n then f s
  else
    match (s.peers.find? (fun p => p.num == n)).bind (fun p => p.tiles.head?) with
    | none => s
    | some t =>
      match s.focus n t.phys with
      | none => s
      | some u => ((f u).focus s.pkg.num s.tile.phys).getD s

/-- A package by number. -/
def State.package (s : State) (n : Nat) : Option Package := if s.pkg.num = n then some s.pkg else s.peers.find? (fun p => p.num == n)

/-! ### Objects (R373) -/

/-- An object at its node; one that does not exist reads as empty with FENCE 0 (R373; log 28). -/
def State.obj (s : State) (id : Nat) : PoolObj := (s.pool.find? (fun o => o.id == id)).getD { id := id }

/-- An object as an operation leaves it. Nothing is kept for one that system software has not created (R373). -/
def State.setObj (s : State) (o : PoolObj) : State := { s with pool := s.pool.map (fun x => if x.id = o.id then o else x) }

def State.updObj (s : State) (id : Nat) (f : PoolObj → PoolObj) : State := s.setObj (f (s.obj id))

/-- An object as its node has it at a request of the package in focus: with the LDUR of that package's directory entry
(R375; log 89). -/
def State.objFor (s : State) (id : Nat) : PoolObj :=
  let o := s.obj id
  { o with ldur := (s.pkg.object id).elim o.ldur (·.ldur) }

/-- A pool node's management side: one not listed holds its installed root and no session (log 122). -/
def State.node (s : State) (n : Nat) : PoolNode := (s.nodes.find? (fun x => x.num == n)).getD { num := n }

/-- The management session `session` of the event at a pool node (R457), and whether its requester's chain ends in the root
installed there. One that is not open yet opens where the exchange succeeds (`good`) with a chain that ends in `kek`. -/
def State.managed (s : State) (n : Nat) : State × Bool :=
  let d := s.node n
  match d.sessions.find? (fun x => x.1 == s.arg.session) with
  | some x => (s, x.2 == d.root)
  | none =>
    if s.arg.good then
      ({ s with nodes := s.nodes.filter (fun x => x.num != n) ++ [{ d with sessions := d.sessions ++ [(s.arg.session, s.arg.kek)] }] }, s.arg.kek == d.root)
    else (s, false)

/-! ### The gate (R386, R389, R390) -/

/-- What the gate answers. -/
inductive GateRes where
  | ok (o : PoolObj) (r : W64)
  | rejected (o : PoolObj)
  | wait

def PoolObj.reject (o : PoolObj) : GateRes := .rejected { o with rejects := o.rejects + 1 }

def PoolObj.word (o : PoolObj) (off : Nat) : W64 := leWord (Memory.readN o.data off 8)

/-- A PUT or STORE8. -/
def PoolObj.gateWrite (o : PoolObj) (off : Nat) (bs : List Byte) (tok : W64) : GateRes :=
  if tok.toNat < o.fence.toNat then o.reject else .ok { o with data := Memory.writeN o.data off bs } 0

/-- The oldest record that may go: its age has reached two lease durations. -/
def PoolObj.aged (o : PoolObj) (now : Nat) : Option KeyRec :=
  (o.keys.foldl (fun b k => match b with
    | none => some k
    | some x => if k.since < x.since then some k else some x) none).bind
      (fun k => if now ≥ k.since + 2000 * o.ldur then some k else none)

/-- Room for one more key record (R390). -/
def PoolObj.makeRoom (o : PoolObj) (now : Nat) : Option PoolObj :=
  if o.keys.length < 4096 then some o
  else (o.aged now).map (fun k => { o with keys := o.keys.erase k })

/-- An ATOMIC (R389): the old word is the result; a keyed one is applied once. -/
def PoolObj.gateAtomic (o : PoolObj) (now off : Nat) (op : BitVec 3) (b x key tok : W64) : GateRes :=
  let apply (o : PoolObj) : PoolObj :=
    match amoNew op (o.word off) b x with
    | some v => { o with data := Memory.writeN o.data off (leBytes 8 v.toNat) }
    | none => o
  if tok.toNat < o.fence.toNat then o.reject
  else if key = 0 then .ok (apply o) (o.word off)
  else
    match o.keys.find? (fun k => k.key == key) with
    | some k => .ok o k.result
    | none =>
      match o.makeRoom now with
      | none => .wait
      | some o' => .ok { (apply o') with keys := o'.keys ++ [⟨key, o.word off, now⟩] } (o.word off)

/-- FENCE-RAISE (R387): records age anew (R390), lapses below the fence clear (R385). -/
def PoolObj.raise (o : PoolObj) (f : W64) (now : Nat) : PoolObj :=
  let g := if o.fence.toNat < f.toNat then f else o.fence
  { o with fence := g, keys := o.keys.map (fun k => { k with since := now }), lapsed := o.lapsed.filter (fun l => decide (g.toNat ≤ l.2.toNat)) }

/-! ### Leases at the node (R381 to R385) -/

inductive LeaseRes where
  | granted (o : PoolObj)
  | wait (o : PoolObj)
  | refused (o : PoolObj)

/-- The lease of a package on a page. -/
def PoolObj.lease (o : PoolObj) (page pkg : Nat) : Option Lease := o.leases.find? (fun l => l.page == page && l.pkg == pkg)

/-- A grant in place of what the package held. -/
def PoolObj.grant (o : PoolObj) (page pkg : Nat) (write : Bool) (now : Nat) (tok : W64) : PoolObj :=
  { o with leases := o.leases.filter (fun l => !(l.page == page && l.pkg == pkg)) ++ [⟨page, pkg, write, now, tok, o.ldur⟩] }

/-- A lapsed page (R385): FENCE has not passed the token of the lease that ran out. -/
def PoolObj.barred (o : PoolObj) (page : Nat) : Bool := o.lapsed.any (fun l => l.1 == page && decide (o.fence.toNat ≤ l.2.toNat))

/-- A release, or the answer to a revoke (R384). -/
def PoolObj.release (o : PoolObj) (page pkg : Nat) : PoolObj :=
  { o with leases := o.leases.filter (fun l => !(l.page == page && l.pkg == pkg)), revokes := o.revokes.filter (fun r => r != (page, pkg)) }

/-- Expiry at the node (R385): a write lease leaves its page lapsed. -/
def PoolObj.expire (o : PoolObj) (l : Lease) : PoolObj :=
  let o := o.release l.page l.pkg
  if l.write then { o with lapsed := o.lapsed ++ [(l.page, l.token)] } else o

/-- The leases of a page whose duration has passed have run out at the node (R382, R385). -/
def PoolObj.settle (o : PoolObj) (page now : Nat) : PoolObj :=
  (o.leases.filter (fun l => l.page == page && decide (l.grant + 1000 * l.ldur ≤ now))).foldl PoolObj.expire o

/-- An acquire (R381, R385, R386): conflicting holders are sent a revoke. An object of DIRECT mode has no leases (R378). -/
def PoolObj.acquire (o : PoolObj) (page pkg : Nat) (write : Bool) (tok : W64) (now : Nat) : LeaseRes :=
  let o := o.settle page now
  if o.direct then .refused o
  else if write && decide (tok.toNat < o.fence.toNat) then .refused { o with rejects := o.rejects + 1 }
  else if o.barred page then .wait o
  else
    let others := o.leases.filter (fun l => l.page == page && l.pkg != pkg && (write || l.write))
    if others.isEmpty then
      -- a WRITE lease that the package holds also serves a READ request
      if !write && (o.lease page pkg).any (·.write) then .granted o else .granted (o.grant page pkg write now tok)
    else .wait { o with revokes := others.foldl (fun r l => if r.contains (page, l.pkg) then r else r ++ [(page, l.pkg)]) o.revokes }

/-- A renewal (R382, R386): a write lease's recorded token is compared, and none is left once the lease has run out. -/
def PoolObj.renew (o : PoolObj) (page pkg : Nat) (now : Nat) : LeaseRes :=
  let o := o.settle page now
  match o.lease page pkg with
  | none => .refused o
  | some l =>
    if l.write && decide (l.token.toNat < o.fence.toNat) then .refused { o with rejects := o.rejects + 1 }
    else .granted (o.grant page pkg l.write now l.token)

/-! ### Frames (R379, R380, R383) -/

/-- A 256 KiB frame of HBM that is retired: one with an uncorrectable error (R464). -/
def Package.retiredFrame (p : Package) (g : Nat) : Bool := p.life.retired.contains g || p.ecc.any (fun l => l / 4096 == g)

/-- The first free frame of the pool-page cache, without the retired ones and those of a stack that is gone (R464). -/
def Package.freeFrame (p : Package) : Option Nat :=
  ((List.range (p.frames.length + p.life.retired.length + p.ecc.length + 1)).map (fun i => p.bound + i * pageSize)).find? (fun a =>
    decide (a + pageSize ≤ 0x8000000000) && !p.frames.any (fun f => f.pa == a) && !p.retiredFrame (a / pageSize) && !p.stackGone a)

/-- The cells of a memory moved to another base. -/
def shiftCells (m : List Host.Cell) (lo hi base : Nat) : List Host.Cell := (Overlay.within m lo hi).map (fun c => (c.1 - lo + base, c.2))

/-- A page fetched by GET into a frame under the lease that the package holds (R379, R395); none of an object whose mode
is DIRECT (R378). A frame of an object that is tagged as sealed is marked (R455). -/
def State.makeResident (s : State) (id page : Nat) (forTask : Bool) : Option State :=
  if (s.pkg.frameOf id page).isSome then some s
  else if (s.obj id).direct then none
  else
    match (s.obj id).lease page s.pkg.num, s.pkg.freeFrame with
    | some l, some pa =>
      let cells := shiftCells (s.obj id).data (page * pageSize) ((page + 1) * pageSize) pa
      some (s.updP (fun p => { p with
        mem := cells.foldl (fun m c => Memory.write m c.1 c.2) p.mem,
        sealedFrames := p.sealedFrames ++ (p.sealedObjs.filter (fun x => x.1 == id)).map (fun x => (pa / pageSize, x.2)),
        frames := p.frames ++ [{ obj := id, page := page, pa := pa, write := l.write, grant := l.grant, ldur := l.ldur, token := l.token, forTask := forTask }] }))
    | _, _ => none

/-- The frame of a page dropped, if it is resident. -/
def State.dropPage (s : State) (id page : Nat) : State :=
  match s.pkg.frameOf id page with
  | some f => s.dropFrame f
  | none => s

/-- The frame of a page dropped because its lease has run out at the holder or has been refused its renewal
(R383): accesses to the page after the lease's local expiry raise LEASE_LOST. -/
def State.losePage (s : State) (id page : Nat) : State :=
  match s.pkg.frameOf id page with
  | some f => (s.dropFrame f).updP (fun p => { p with
      lostPages := p.lostPages.filter (fun x => !(x.1 == id && x.2.1 == page)) ++ [(id, page, f.grant + 1000 * f.ldur - 2000)] })
  | none => s

/-- The frame of a page whose lease the holder's own clock has passed is dropped (R383): no later grant revives it. -/
def State.dropExpired (s : State) (id page : Nat) : State :=
  if (s.pkg.frameOf id page).any (·.expired s.pkg.time) then s.losePage id page else s

/-- The endpoint that a wavelength reaches (R402). -/
def Port.destOf (p : Port) (lam : Nat) : Option Nat := (p.dest.find? (fun d => d.1 == lam)).map (·.2)

/-- Whether a lit wavelength of the port leads to an endpoint: λ0 while the port is up, and its lit slots (R402, R403). -/
def Port.reaches (p : Port) (e : Nat) : Bool :=
  decide (2 ≤ p.state) && (p.destOf 0 == some e || p.lit.any (fun s => p.destOf s.2 == some e))

/-- A λ0 path of at most k hops (R403): a port that is up leads to the endpoint, by its own λ0 or by the forwarding table's,
or to a package whose network port relays it on. -/
def State.relayed (s : State) : Nat → Package → Nat → Bool
  | 0, _, _ => false
  | k + 1, p, e =>
    p.optics.ports.any (fun q => decide (2 ≤ q.state) && q.destOf 0 == some e)
      || p.optics.fwd.any (fun f => f.1 == e && ((p.optics.ports[f.2]?).filter (fun q => decide (2 ≤ q.state))).any (fun q =>
        (q.destOf 0).any (fun n => (s.package n).any (fun r => !r.failed && s.relayed k r e))))

/-- Whether an endpoint has a path from a package: a lit wavelength, or a λ0 path of at most three hops (R403, R414). -/
def State.hasPath (s : State) (p : Package) (e : Nat) : Bool := p.optics.ports.any (fun q => q.reaches e) || s.relayed 3 p e

/-- The pool is out of reach: of a package that is no member (R399) or has failed (R397), and of an object whose node has no
path or is unreachable (R408; its endpoint number, log 116). -/
def State.poolAway (s : State) (id : Nat) : Bool :=
  !s.pkg.member || s.pkg.failed
    || (s.pkg.object id).any (fun d => s.pkg.optics.unreachable.contains (1024 + d.node) || !s.hasPath s.pkg (1024 + d.node))

/-- Earlier entries of the package's channel to an object (R391), or the pool out of reach. -/
def State.channelBusy (s : State) (id : Nat) : Bool := s.pkg.poolCh.any (fun m => m.obj == id) || s.poolAway id

/-- A lease given up by its holder (R379, R381, R384): the frame goes at once, the release takes its place in the channel,
behind the forwarded lines of the page (R391). -/
def State.giveUp (s : State) (id page : Nat) : State × Bool :=
  let s := s.dropPage id page
  if s.channelBusy id then (s, false)
  else (s.updObj id (fun o => o.release page s.pkg.num), true)

/-- The lease of the package in focus on a page, while the holder's own clock has not passed it (R382). -/
def State.heldLease (s : State) (id page : Nat) : Option Lease :=
  ((s.obj id).lease page s.pkg.num).filter (fun l => !leaseOver l.grant l.ldur s.pkg.time)

/-- A frame's lease carries the grant that the node recorded last. -/
def State.regrant (s : State) (id page : Nat) : State :=
  match (s.obj id).lease page s.pkg.num with
  | some l => s.updP (fun p => { p with
      lostPages := p.lostPages.filter (fun x => !(x.1 == id && x.2.1 == page)),
      frames := p.frames.map (fun f =>
        if f.obj = id ∧ f.page = page then { f with grant := l.grant, ldur := l.ldur, write := l.write, token := l.token } else f) })
  | none => s

/-! ### Rejections (R388) -/

/-- A rejection of an operation of a launch that has not ended, on its way to its tile while the launch runs there. `word`
is the address of the word, or of the command with its ring index; a forwarded line names neither. -/
def State.noteReject (s : State) (src : Nat) (launch : Option Nat) (word : Option (W64 × Option W32)) : State :=
  match launch with
  | none => s
  | some h =>
    (s.updP (fun p => p.updLaunch h (fun l => { l with rejected := true }))).updTile src (fun t =>
      if t.disp.bind.any (fun b => b.launch.toNat == h) then
        { t with disp := match word with
          | some w => { t.disp with fenced := t.disp.fenced ++ [w] }
          | none => { t.disp with lineRej := true } }
      else t)

end Sys2Proof.Machine
end

