-- ==== Sys2Proof/Machine/Transfer.lean ====
section
/-! DEFINITION. The transfer commands for local memory (R310 to R320). -/

namespace Sys2Proof.Machine

/-! ### Sides (R312) -/

/-- Byte offsets from a capability's cursor: signed 40 bits (R310). -/
def offs (o : BitVec 40) : W64 := o.signExtend 64

/-- An address is a sum of a cursor and an offset, and its exact value counts: the first of some places whose exact
address is no 64-bit address lies outside every capability (R9, R148 step 5; log 103). -/
def farOf (unit : Nat) (as : List Int) : Option Nat := as.findIdx? (fun (a : Int) => decide (a < 0) || decide (2 ^ 64 < a + (unit : Int)))

/-- The exact addresses of n places of `unit` bytes at an offset from a capability's cursor. -/
def exactFrom (c : Cap) (off : Int) (unit n : Nat) : List Int := (List.range n).map (fun i => c.cursor.toNat + off + ((unit * i : Nat) : Int))

/-- A run of n places of `unit` bytes from an address on. -/
def placesFrom (a : W64) (unit n : Nat) : List W64 := (List.range n).map (fun i => a + BitVec.ofNat 64 (unit * i))

/-- Steps 1 to 4 of R148 for a side. -/
def State.sideCap (s : State) (c : Cap) (a : W64) (wr : Bool) : Option FaultInfo :=
  let k : AccKind := if wr then .st else .ld
  if !c.tag then some (at' .capTag a)
  else if c.typ == 4 || c.typ == 5 then some (at' .sealedPath a)
  else if c.typ == 3 || c.typ == 6 || !k.typeOk c.typ.toNat then some (at' .capType a)
  else if c.perm &&& k.perms != k.perms || c.tenant != s.tile.tenant then some (at' .capPerm a)
  else none

/-- One place: its first byte, its alignment, its other bytes (R312); a task's ranges (R314). -/
def State.placeFault (s : State) (c : Cap) (unit : Nat) (wr : Bool) (a : W64) : Option FaultInfo :=
  let nt := s.tile.par.ntile.toNat
  let k : AccKind := if wr then .st else .ld
  let byte (i : Nat) : Option FaultInfo := (boundsFault nt c (a + BitVec.ofNat 64 i) 1 k).map (at' .capBounds)
  match byte 0 with
  | some fi => some fi
  | none =>
    if a.toNat % unit != 0 then some (at' .misaligned a)
    else
      match (List.range unit).findSome? byte with
      | some fi => some fi
      | none =>
        let near := c.typ == 1
        -- outside the tile's own scratchpad and accumulator, CODE as a source too (R314)
        if s.inTask && !(near && decide (a.toNat < clusterBase)) && !s.tile.task.covers wr near a.toNat unit then
          some (at' .capBounds a)
        else none

/-- A side of a transfer. -/
structure XSide where
  cap : Cap
  places : List W64
  wr : Bool

def State.sideFault (s : State) (x : XSide) (unit : Nat) : Option FaultInfo :=
  (s.sideCap x.cap (x.places.headD 0) x.wr).or (x.places.findSome? (s.placeFault x.cap unit x.wr))

/-- What comes after the address checks of every side: near lines that cannot be read or are locked (R339, R353; log 126). -/
def State.sideGuard (s : State) (x : XSide) (unit : Nat) : Option FaultInfo :=
  if x.cap.typ != 1 then none
  else x.places.findSome? (fun a => match s.nearCheck a.toNat unit x.wr with
    | .error fi => some fi
    | .ok _ => none)

/-- A side whose place number `far`, if any, is the first with no 64-bit address; `side` are its checks. With no place
before it, those are the checks of the capability, at the first address. -/
def XSide.checked (x : XSide) (side : XSide → Option FaultInfo) (far : Option Nat) : Option FaultInfo :=
  match far with
  | none => side x
  | some i =>
    ((side { x with places := x.places.take i }).map (fun fi => if i = 0 then { fi with eval := some (x.places.headD 0) } else fi)).or
      (some (at' .capBounds (x.places.getD i 0)))

/-- The checks of a side of n bytes from address `a`, whose exact value is `x`: places of 8 bytes, then the bytes that make no
whole place, so that no byte past the count is checked. `side` are the checks for places of a size. -/
def bytesFault (side : Nat → XSide → Option FaultInfo) (c : Cap) (a : W64) (x : Int) (n : Nat) (wr : Bool) : Option FaultInfo :=
  let run (unit from_ k : Nat) : Option FaultInfo :=
    XSide.checked ⟨c, placesFrom (a + BitVec.ofNat 64 from_) unit k, wr⟩ (side unit)
      (farOf unit ((List.range k).map (fun (i : Nat) => x + ((from_ + unit * i : Nat) : Int))))
  (if n < 8 then (run 1 0 1).or (if a.toNat % 8 != 0 then some (at' .misaligned a) else none) else run 8 0 (n / 8)).or
    (if n % 8 = 0 then none else run 1 (8 * (n / 8)) (n % 8))

/-- The near bytes of a side, for the buffers (R220). -/
def XSide.acc (x : XSide) (unit : Nat) : List Rng :=
  if x.cap.typ == 1 then x.places.map (fun a => ⟨a.toNat, a.toNat + unit, x.wr⟩) else []

/-- A transfer that reads all its source places and then writes its destination places: place i of the
destination takes place i of the source, or its one place. `list` is its index list. -/
structure XMove where
  src : XSide
  dst : XSide
  unit : Nat
  one : Bool := false
  pre : Option FaultInfo := none
  list : List Rng := []
  srcFar : Option Nat := none
  dstFar : Option Nat := none

/-- The start of a move (R312, R335): every place translated. Its accesses enter the path queue of their class
(R176). -/
def State.xMove (s : State) (m : XMove) (gather : Bool) (k : Cmd) : EngRes :=
  match s.engLocates m.src.cap m.unit false false m.src.places with
  | .error fi => .fault fi
  | .ok (t, ls) =>
    match t.engLocates m.dst.cap m.unit true false m.dst.places with
    | .error fi => .fault fi
    | .ok (u, ds) => .flight (u.updCmd .x k.idx (fun c => { c with move := some ⟨gather, m.unit, ls, ds, m.one⟩ }))

/-! ### The accesses of a started move (R176) -/

/-- Neighbouring places as runs: where each starts, and its bytes. -/
def locRuns (unit : Nat) : List Loc → List (Loc × Nat)
  | [] => []
  | l :: r =>
    match locRuns unit r with
    | [] => [(l, unit)]
    | (m, n) :: q => if m.key.1 = l.key.1 ∧ m.key.2 = l.key.2 + unit then (l, n + unit) :: q else (l, unit) :: (m, n) :: q

def runsMeet (a b : List (Loc × Nat)) : Bool := a.any (fun x => b.any (fun y => x.1.meets x.2 y.1 y.2))

/-- Two moves of one path class with a place in common that one of them writes. -/
def Move.clashes (a b : Move) : Bool :=
  a.gather == b.gather &&
    (let ad := locRuns a.unit a.dsts
     let bd := locRuns b.unit b.dsts
     runsMeet ad bd || runsMeet ad (locRuns b.unit b.srcs) || runsMeet bd (locRuns a.unit a.srcs))

/-- The reads of a move perform, all before any write (R315, R316); its writes follow: those in tile-local memory at once,
the others as entries of its path queue. -/
def State.performMove (s : State) (n : W32) (m : Move) : State :=
  let v := (m.srcs.map (fun l => s.locRead l m.unit)).toArray
  (m.dsts.zipIdx).foldl (fun s d => s.queueWrite .x n d.1 (v.getD (if m.one then 0 else d.2) [])) s

/-- An earlier X command of path class `cls` than the one at index `idx` has an access in its queue that overlaps the
accesses `m`, one of the two a write (R176). -/
def State.pathBefore (s : State) (idx : W32) (cls : Nat) (m : Move) : Bool :=
  (s.tile.eng.cmds.takeWhile (fun d => d.idx != idx || d.eng != .x)).any (fun d => d.eng == .x && d.pathNo == cls &&
    (d.move.any m.clashes || (!d.writes.isEmpty &&
      runsMeet (locRuns m.unit m.srcs ++ locRuns m.unit m.dsts) (d.writes.map (fun w => (w.1, w.2.length))))))

def State.moveBefore (s : State) (idx : W32) (m : Move) : Bool := s.pathBefore idx (if m.gather then 3 else 2) m

/-- The accesses of an X-local command that reads in one step wait for those before them. -/
def State.behindMove (s : State) (k : Cmd) (unit : Nat) (rd wr : List Loc) : Bool := s.moveBefore k.idx ⟨false, unit, rd, wr, false⟩

/-- A started move reads, once the earlier accesses of its path class that it overlaps have performed (R176). On a tile
whose run is over, nothing is left of the command once its writes have performed (R337 step 3). -/
def State.moveOn (s : State) (c : Cmd) (m : Move) : State :=
  if s.moveBefore c.idx m then s
  else
    let t := (s.performMove c.idx m).updCmd .x c.idx (fun d => { d with move := none })
    let ws := t.tile.eng.writesOf .x c.idx
    t.performWrites { c with writes := ws } [] ws

/-- Every started move of the tile reads, in order, and every queued write performs. -/
def State.flushMoves (s : State) : State :=
  s.tile.eng.cmds.foldl (fun s c =>
    let t := match c.move with
      | some m => s.moveOn c m
      | none => s
    let ws := t.tile.eng.writesOf c.eng c.idx
    if ws.isEmpty then t else t.performWrites { c with writes := ws } ws []) s

/-- ENGINE_COMMAND_COMPLETE (R176, R216, R217): the command of engine `eng` at ring index `idx`. A started move reads;
one of its queued writes performs, which `count` picks; and once all its accesses have performed, it completes. -/
def execEngineCommandComplete (s : State) : Host.Outcome State Fault Refusal :=
  match s.tile.eng.cmd s.arg.eng s.arg.idx with
  | some c => .next (match c.move with
    | some m => s.moveOn c m
    | none => if c.writes.isEmpty then s.completeCmd c else s.performWord c s.arg.count)
  | none => .next s

/-! ### X commands -/

/-- An X command with its decode fault, its checks and its work when predicated true. -/
def State.xCommand (s : State) (c : XCmd) (words : Nat) (bad : Option FaultInfo) (acc : List Rng)
    (chk : State → Option FaultInfo) (run : State → Cmd → EngRes) : Host.Outcome State Fault Refusal :=
  s.engCommand .x { semw := c.semw, semr := c.semr, pred := c.pred, words := words, bad := bad, acc := acc, chk := chk,
                    run := fun s k => if k.predTrue then run s k else .done s }

/-- The near bytes that a move reads and writes (R220). -/
def XMove.acc (m : XMove) : List Rng := m.list ++ m.src.acc m.unit ++ m.dst.acc m.unit

/-- A command that is one move. -/
def State.xMoveCommand (s : State) (c : XCmd) (gather : Bool) (bad : Option FaultInfo) (m : State → XMove) : Host.Outcome State Fault Refusal :=
  s.xCommand c 1 bad (m s).acc
    (fun s => (((m s).pre.or ((m s).src.checked (fun x => s.sideFault x (m s).unit) (m s).srcFar)).or
      ((m s).dst.checked (fun x => s.sideFault x (m s).unit) (m s).dstFar)).or
      ((s.sideGuard (m s).src (m s).unit).or (s.sideGuard (m s).dst (m s).unit)))
    (fun s k => s.xMove (m s) gather k)

def illegal (b : Bool) : Option FaultInfo := if b then some { code := .illegalOpcode } else none
def noCount (b : Bool) : Option FaultInfo := if b then some { code := .regionCount } else none

/-! ### x.copy, x.fill (R315) -/

def State.copyMove (c : XCmd) (s : State) : XMove :=
  let n := c.len16.toNat
  { src := ⟨s.cap c.scap, placesFrom ((s.cap c.scap).cursor + offs c.soff) 8 n, false⟩,
    dst := ⟨s.cap c.dcap, placesFrom ((s.cap c.dcap).cursor + offs c.doff) 8 n, true⟩, unit := 8,
    srcFar := farOf 8 (exactFrom (s.cap c.scap) c.soff.toInt 8 n), dstFar := farOf 8 (exactFrom (s.cap c.dcap) c.doff.toInt 8 n) }

/-- x.copy (R315). -/
def execXCopy (c : XCmd) (s : State) : Host.Outcome State Fault Refusal :=
  s.xMoveCommand c false (noCount (c.len16 == 0)) (State.copyMove c)

def State.fillMove (c : XCmd) (s : State) : XMove :=
  { src := ⟨s.cap c.scap, [(s.cap c.scap).cursor + offs c.soff], false⟩,
    dst := ⟨s.cap c.dcap, placesFrom ((s.cap c.dcap).cursor + offs c.doff) 8 c.len16.toNat, true⟩, unit := 8, one := true,
    srcFar := farOf 8 (exactFrom (s.cap c.scap) c.soff.toInt 8 1), dstFar := farOf 8 (exactFrom (s.cap c.dcap) c.doff.toInt 8 c.len16.toNat) }

/-- x.fill (R315). -/
def execXFill (c : XCmd) (s : State) : Host.Outcome State Fault Refusal :=
  s.xMoveCommand c false (noCount (c.len16 == 0)) (State.fillMove c)

/-! ### x.gather, x.scatter (R316) -/

/-- SIZE and count (R310). -/
def gatherSize (c : XCmd) : Nat :=
  match (c.len16.extractLsb' 14 2).toNat with
  | 0 => 4 | 1 => 8 | 2 => 64 | _ => 256
def gatherCount (c : XCmd) : Nat := (c.len16.extractLsb' 0 14).toNat + 1

/-- Near address of the index list, from the offset field of the contiguous side. -/
def listAt (o : BitVec 40) : Nat := (o.extractLsb' 25 15).toNat * 64
def contigOff (o : BitVec 40) : W64 := (o.extractLsb' 0 25).zeroExtend 64

/-- The indices, and CAP_BOUNDS for a list that leaves core scratchpad. -/
def State.indexList (s : State) (a n : Nat) : List Nat := (chunks 4 (s.tile.near.readN a (4 * n))).map leNat
def listFault (a n : Nat) : Option FaultInfo :=
  if a + 4 * n > laneBase then some (at' .capBounds (BitVec.ofNat 64 (max a laneBase))) else none

/-- The list's line has an uncorrectable error. -/
def State.listEcc (s : State) (a n : Nat) : Option FaultInfo :=
  if s.nearEcc a (4 * n) then some (at' .memUncorrectable (BitVec.ofNat 64 a)) else none

/-- The index list as near bytes that the command reads. -/
def listRng (a n : Nat) : Rng := ⟨a, a + 4 * n, false⟩

/-- Places of elements of z bytes at addresses, in units. -/
def elemPlaces (unit z : Nat) (as : List W64) : List W64 := as.flatMap (fun a => placesFrom a unit (z / unit))

/-- The exact addresses of the units of elements (R316). -/
def exactElems (unit z : Nat) (as : List Int) : List Int := as.flatMap (fun a => (List.range (z / unit)).map (fun j => a + ((unit * j : Nat) : Int)))

def State.gatherMove (c : XCmd) (s : State) : XMove :=
  let z := gatherSize c
  let n := gatherCount c
  let u := min z 8
  let l := listAt c.doff
  let t := s.cap c.scap
  let d := s.cap c.dcap
  { src := ⟨t, elemPlaces u z ((s.indexList l n).map (fun i => t.cursor + offs c.soff + BitVec.ofNat 64 (i * z))), false⟩,
    dst := ⟨d, elemPlaces u z (placesFrom (d.cursor + contigOff c.doff) z n), true⟩, unit := u,
    pre := (listFault l n).or (s.listEcc l n), list := [listRng l n],
    srcFar := farOf u (exactElems u z ((s.indexList l n).map (fun i => t.cursor.toNat + c.soff.toInt + ((i * z : Nat) : Int)))),
    dstFar := farOf u (exactElems u z (exactFrom d (contigOff c.doff).toNat z n)) }

/-- x.gather (R316). -/
def execXGather (c : XCmd) (s : State) : Host.Outcome State Fault Refusal :=
  s.xMoveCommand c true none (State.gatherMove c)

def State.scatterMove (c : XCmd) (s : State) : XMove :=
  let z := gatherSize c
  let n := gatherCount c
  let u := min z 8
  let l := listAt c.soff
  let f := s.cap c.scap
  let t := s.cap c.dcap
  { src := ⟨f, elemPlaces u z (placesFrom (f.cursor + contigOff c.soff) z n), false⟩,
    dst := ⟨t, elemPlaces u z ((s.indexList l n).map (fun i => t.cursor + offs c.doff + BitVec.ofNat 64 (i * z))), true⟩, unit := u,
    pre := (listFault l n).or (s.listEcc l n), list := [listRng l n],
    srcFar := farOf u (exactElems u z (exactFrom f (contigOff c.soff).toNat z n)),
    dstFar := farOf u (exactElems u z ((s.indexList l n).map (fun i => t.cursor.toNat + c.doff.toInt + ((i * z : Nat) : Int)))) }

/-- x.scatter (R316). -/
def execXScatter (c : XCmd) (s : State) : Host.Outcome State Fault Refusal :=
  s.xMoveCommand c true none (State.scatterMove c)

/-! ### x.send (R317) -/

/-- Fields of the destination (R310). -/
def sendNear (c : XCmd) : Nat := (c.doff.extractLsb' 0 25).toNat
def sendSem (c : XCmd) : BitVec 6 := c.doff.extractLsb' 25 6
def sendClus (c : XCmd) : Nat := (c.doff.extractLsb' 32 4).toNat
def sendTile (c : XCmd) : Nat := c.dcap.toNat

/-- The receiving tile. -/
def State.sendTarget (s : State) (c : XCmd) : Option Nat :=
  let t := sendTile c
  let k := sendClus c
  if s.tile.par.ntile.toNat ≤ t ∨ s.tile.par.nclus.toNat ≤ k then none
  else if t = s.tile.par.tile.toNat ∧ k = s.tile.par.clus.toNat then some s.tile.phys
  else (s.pkg.launch s.tile.handle).bind (fun l => (l.place.find? (fun x => x.1 == k * 16 + t)).map (·.2))

/-- The address checks of the destination, in the order of R317. -/
def State.sendFault (s : State) (c : XCmd) : Option FaultInfo :=
  let a := sendNear c
  let n := 8 * c.len16.toNat
  match (s.sendTarget c).bind s.tileAt with
  | none => some (at' .capBounds (BitVec.ofNat 64 a))
  | some _ =>
    if a % 8 != 0 && a < 0x1EFFC0 then some (at' .misaligned (BitVec.ofNat 64 a))
    else if a + n > 0x1EFFC0 then some (at' .capBounds (BitVec.ofNat 64 (max a 0x1EFFC0)))
    else none

/-- Lines of the receiver that cannot be read or are locked (R339, R353). -/
def State.sendGuard (s : State) (c : XCmd) : Option FaultInfo :=
  let a := sendNear c
  let n := 8 * c.len16.toNat
  match (s.sendTarget c).bind s.tileAt with
  | none => none
  | some t =>
    if (linesOf a n).any (fun l => t.near.ecc.contains l) then some (at' .memUncorrectable (BitVec.ofNat 64 a))
    else if meetsRanges t.near.locked a (a + n) then some (at' .codeWrite (BitVec.ofNat 64 a))
    else none

/-- The declared buffers of the receiver that a send writes. -/
def Tile.sendUses (t : Tile) (a n : Nat) : List (Nat × Bool × Bool) := bufUses t.decls [⟨a, a + n, true⟩]

/-- The receiver's commands that stand before an arriving write: it takes its timestamp when it performs (R317), so every
pending one but the send itself. -/
def sendBefore (own : Option W32) (d : Cmd) : Bool := !(d.eng == .x && some d.idx == own)

/-- The declared buffers that a send writes and that are not EMPTY as the write arrives. An EMPTY one it takes at once: no
pending command of the receiver holds an arriving write (R218; log 129). -/
def Tile.sendTaken (t : Tile) (a n : Nat) : List Nat :=
  ((t.sendUses a n).map (·.1)).filter (fun id => (t.bufs.toList.getD id {}).st != .empty)

/-- BUF_STATE at the sender: a pending ring word, then a declared buffer of the receiver that its pending commands
leave in another state than EMPTY. -/
def Tile.sendBufFault (t : Tile) (a n : Nat) (own : Option W32) : Option W64 :=
  (t.ringFault a (a + n)).or
    (((t.sendTaken a n).find? (fun id => (t.bufStAt id (sendBefore own)).any (fun st => st != .empty))).map (BitVec.ofNat 64))

/-- A buffer that a pending consumer of the receiver will leave EMPTY: the send takes it after that command. -/
def Tile.sendBlocked (t : Tile) (a n : Nat) : Bool := !(t.sendTaken a n).isEmpty

/-- A receiver whose scratchpad has been marked for the launch (R143). -/
def State.hasBegun (s : State) (phys : Nat) : Bool := s.sliceBegun phys

/-- The words arrive, the receiver's buffers fill, its semaphore rises or the raise stays with the
command. -/
def State.sendArrive (s : State) (c : XCmd) (k : Cmd) (phys : Nat) (bs : List Byte) : State :=
  let a := sendNear c
  let bufs := ((s.tileAt phys).elim [] (fun t => t.sendUses a bs.length)).map (·.1)
  let s := s.updTile phys (fun t =>
    let t := { t with near := t.near.store a bs, eng := { t.eng with ts := t.eng.ts + 1 } }
    bufs.foldl (fun t b => t.setBufSt b .filling) t)
  let s := (linesOf a bs.length).foldl (fun s l => s.updTile phys (fun t => { t with ord := { t.ord with mon := t.ord.mon.map (fun m =>
    match m.loc with
    | .own b => if b / 64 = l then { m with woken := true } else m
    | _ => m) } })) s
  let n := sendSem c
  let full := (s.tileAt phys).elim false (fun t => t.eng.sems[n.toNat % 32] == 0xFFFF)
  let s := if n == 0x3F || full then s else s.raiseAt phys n
  s.updCmd .x k.idx (fun d => { d with rsem := if n != 0x3F && full then some (phys, n) else none, rbufs := bufs.map (fun b => (phys, BitVec.ofNat 6 b)) })

/-- The source side of x.send: NEAR only. -/
def State.sendSrc (s : State) (c : XCmd) : XSide := ⟨s.cap c.scap, placesFrom ((s.cap c.scap).cursor + offs c.soff) 8 c.len16.toNat, false⟩

/-- A NEAR side, or CAP_TYPE at step 3 (R317, R320). -/
def State.nearSide (s : State) (x : XSide) (unit : Nat) : Option FaultInfo :=
  if x.cap.tag && x.cap.typ != 4 && x.cap.typ != 5 && x.cap.typ != 1 then some (at' .capType (x.places.headD 0)) else s.sideFault x unit

/-- x.send (R317, R314). -/
def execXSend (c : XCmd) (s : State) : Host.Outcome State Fault Refusal :=
  s.xCommand c 1
    ((illegal (c.doff.getLsbD 31 || c.doff.extractLsb' 36 4 != 0 || badSem (sendSem c) || s.tile.par.kind != .single)).or (noCount (c.len16 == 0)))
    ((s.sendSrc c).acc 8)
    (fun s => (((s.sendSrc c).checked (fun x => s.nearSide x 8) (farOf 8 (exactFrom (s.cap c.scap) c.soff.toInt 8 c.len16.toNat))).or (s.sendFault c)).or
      ((s.sideGuard (s.sendSrc c) 8).or (s.sendGuard c)))
    (fun s k =>
      match s.sendTarget c with
      | none => .hold
      | some phys =>
        match s.tileAt phys with
        | none => .hold
        | some t =>
          let a := sendNear c
          let n := 8 * c.len16.toNat
          let own := if phys = s.tile.phys then some k.idx else none
          if !s.hasBegun phys then .hold
          else
            match t.sendBufFault a n own with
            | some v => .fault { code := .bufState, eval := some v }
            | none =>
              if t.sendBlocked a n then .hold
              else
              match s.engLocates (s.cap c.scap) 8 false false (s.sendSrc c).places with
              | .error fi => .fault fi
              | .ok (t, ls) =>
                if t.behindMove k 8 ls (if phys = s.tile.phys then (placesFrom (BitVec.ofNat 64 a) 8 c.len16.toNat).map (fun p => .own p.toNat) else []) then .hold
                else .done (t.sendArrive c k phys (ls.flatMap (fun l => t.locRead l 8))))

/-! ### x.fence, x.wait (R319, R320) -/

/-- A queue entry that is an access of the control core. -/
def QOp.isAccess : QOp → Bool
  | .marker _ _ | .amoMark | .xmark _ _ | .sem _ => false
  | _ => true

/-- An access of the control core before a place in program order that has not performed. -/
def State.coreOpen (s : State) (pos : Nat) : Bool :=
  let q (e : QEntry) : Bool := decide (e.seq < pos) && e.op.isAccess
  s.tile.ord.lq.any q || s.tile.ord.sq.any q
    || s.pkg.chans.any (fun x => x.src == s.tile.phys && q x.e)
    || s.pkg.poolCh.any (fun m => m.src == s.tile.phys && m.eng.isNone && decide (m.seq < pos))

/-- A command of an engine's paths with an earlier timestamp that has not performed. One with no access in a path, as V or M
work in tile-local memory (R176), counts for nothing (R319). Loader-placed commands of other streams count for a
loader-placed marker (log 36). -/
def State.engOpen (s : State) (e : Eng) (c : Cmd) : Bool :=
  s.tile.eng.cmds.any (fun d => d.eng == e && d.path && d.predTrue && !d.performed && !(d.eng == c.eng && d.idx == c.idx)
    && (decide (d.ts < c.ts) || (decide (c.ts < firstTs) && decide (d.ts < firstTs) && d.eng != c.eng)))

/-- x.fence (R319). -/
def execXFence (c : XCmd) (s : State) : Host.Outcome State Fault Refusal :=
  let m := c.len16
  s.xCommand c 1 (illegal (c.scap != 0 || c.soff != 0 || c.dcap != 0 || c.doff != 0 || m.extractLsb' 4 12 != 0 || m == 0)) []
    (fun _ => none)
    (fun s k =>
      if (m.getLsbD 0 && s.coreOpen k.pos) || (m.getLsbD 1 && s.engOpen .v k) || (m.getLsbD 2 && s.engOpen .m k) || (m.getLsbD 3 && s.engOpen .x k) then .hold
      else .done s)

/-- The word of x.wait. -/
def State.waitSide (s : State) (c : XCmd) : XSide := ⟨s.cap c.scap, [(s.cap c.scap).cursor + offs c.soff], false⟩

/-- The checks of x.wait (R312, R320): the accumulator window fails at step 5. -/
def State.waitFault (s : State) (c : XCmd) : Option FaultInfo :=
  let x := s.waitSide c
  let a := x.places.headD 0
  if x.cap.tag && x.cap.typ != 4 && x.cap.typ != 5 && x.cap.typ != 1 then some (at' .capType a)
  else (s.sideCap x.cap a false).or
    (if (accBase ≤ a.toNat ∧ a.toNat < accEnd) ∨ (farOf 4 (exactFrom x.cap c.soff.toInt 4 1)).isSome then some (at' .capBounds a)
     else (s.placeFault x.cap 4 false a).or (s.sideGuard x 4))

/-- x.wait (R320). -/
def execXWait (c : XCmd) (s : State) : Host.Outcome State Fault Refusal :=
  s.xCommand c 1 (illegal (c.dcap != 0 || c.doff.extractLsb' 32 8 != 0 || c.len16 != 0)) ((s.waitSide c).acc 4)
    (fun s => s.waitFault c)
    (fun s k =>
      let a := (s.waitSide c).places.headD 0
      let w : W32 := BitVec.ofNat 32 (leNat (s.nearN a.toNat 4))
      if s.behindMove k 4 [.own a.toNat] [] then .hold
      else if (w - c.doff.extractLsb' 0 32).toNat < 2 ^ 31 then .done s else .hold)

end Sys2Proof.Machine
end

