-- ==== Sys2Proof/Machine/Remote.lean ====
section
/-! DEFINITION. The pool and remote commands of the transfer engine (R424 to R437). -/

namespace Sys2Proof.Machine

/-! ### Sides (R426) -/

def inTaskKind (s : State) : Bool := s.tile.par.kind != .single

/-- A pool side of `n` bytes from the exact offset `x`: steps 1 to 6 of R148 with the bounds of R374 and the multiples of
`unit`, then the object's entry and its mode, in the order of R312 and R426 (log 62). -/
def State.poolSide (s : State) (c : Cap) (x : Int) (n : Nat) (perm : BitVec 12) (unit : Nat) (direct : Bool) : Option FaultInfo :=
  let a : W64 := BitVec.ofInt 64 x
  if !c.tag then some (at' .capTag a)
  else if c.typ == 4 || c.typ == 5 then some (at' .sealedPath a)
  else if c.typ != 3 then some (at' .capType a)
  else if c.perm &&& perm != perm || c.tenant != s.tile.tenant then some (at' .capPerm a)
  else if x < 0 ∨ x + 1 > c.len.toNat then some (at' .capBounds a)
  else if a.toNat % unit != 0 || n % unit != 0 then some (at' .misaligned a)
  else if x + n > c.len.toNat then some (at' .capBounds (BitVec.ofNat 64 c.len.toNat))
  else
    match s.pkg.object c.base.toNat with
    | none => some (poolFault .poolMiss c.base.toNat a (perm == 0x400))
    | some d =>
      if d.direct != direct || s.pool.any (fun o => o.id == c.base.toNat && o.direct != direct) then some (at' .capType a)
      else none

/-- A NEAR or LOCAL side, of places of `unit` bytes. -/
def State.plainSideOf (s : State) (unit : Nat) (x : XSide) : Option FaultInfo :=
  if x.cap.tag && x.cap.typ != 1 && x.cap.typ != 2 && x.cap.typ != 4 && x.cap.typ != 5 then some (at' .capType (x.places.headD 0)) else s.sideFault x unit
def State.plainSide (s : State) (x : XSide) : Option FaultInfo := s.plainSideOf 8 x

/-- A byte count as places of 8 bytes. -/
def bytePlaces (a : W64) (n : Nat) : List W64 := placesFrom a 8 (n / 8)

def xSrc (c : XCmd) (s : State) : W64 := (s.cap c.scap).cursor + offs c.soff
def xDst (c : XCmd) (s : State) : W64 := (s.cap c.dcap).cursor + offs c.doff

/-- The exact sums of the two sides, and the first of n places of 8 bytes from them that has no 64-bit address. -/
def xSrcI (c : XCmd) (s : State) : Int := (s.cap c.scap).cursor.toNat + c.soff.toInt
def xDstI (c : XCmd) (s : State) : Int := (s.cap c.dcap).cursor.toNat + c.doff.toInt
def srcFar (c : XCmd) (n : Nat) (s : State) : Option Nat := farOf 8 (exactFrom (s.cap c.scap) c.soff.toInt 8 n)
def dstFar (c : XCmd) (n : Nat) (s : State) : Option Nat := farOf 8 (exactFrom (s.cap c.dcap) c.doff.toInt 8 n)

/-- Near bytes of a side of n bytes. -/
def nearAcc (c : Cap) (a : W64) (n : Nat) (wr : Bool) : List Rng := if c.typ == 1 then [⟨a.toNat, a.toNat + n, wr⟩] else []

/-- Places written by the command at index n with the bytes of 8-byte words in order. -/
def State.putWords (s : State) (n : W32) (ls : List Loc) (bs : List Byte) : State :=
  (ls.zip (chunks 8 bs)).foldl (fun s p => s.queueWrite .x n p.1 p.2) s

/-! ### x.pget, x.pput, x.patom -/

/-- The bytes of an object from an offset on: a resident page at its frame's home values, another one
as accepted at the gate (R429). -/
def State.objByte (s : State) (id off : Nat) : Byte :=
  match s.pkg.frameOf id (off / pageSize) with
  | some f => s.pkg.home (f.pa + off % pageSize)
  | none => Memory.read (s.obj id).data off

/-- An expired lease among resident pages (R429, R430); a package that has been removed has none left (R399; log 112). -/
def State.lostPage (s : State) (id off n : Nat) : Option Nat :=
  (pagesOf off n).find? (fun g => (s.pkg.frameOf id g).any (fun f => f.expired s.pkg.time || !s.pkg.member))

/-- A page's first offset inside a transfer. -/
def firstOff (off g : Nat) : W64 := BitVec.ofNat 64 (max off (g * pageSize))

def pgetDirect (s : State) (c : XCmd) : Bool := ((s.pkg.object (s.cap c.scap).base.toNat).any (·.direct))

/-- x.pget (R429). -/
def execXPget (c : XCmd) (s : State) : Host.Outcome State Fault Refusal :=
  let n := c.len40.toNat
  s.xCommand c 2 ((illegal (c.len16 != 0 || c.key != 0 || c.flags != 0)).or (noCount (c.len40 == 0)))
    (nearAcc (s.cap c.dcap) (xDst c s) n true)
    (fun s =>
      let direct := pgetDirect s c && n == 8
      (s.poolSide (s.cap c.scap) (xSrcI c s) n 0x800 (if direct then 8 else 64) direct).or
        ((XSide.checked ⟨s.cap c.dcap, bytePlaces (xDst c s) n, true⟩ s.plainSide (dstFar c (n / 8) s)).or
          (s.sideGuard ⟨s.cap c.dcap, bytePlaces (xDst c s) n, true⟩ 8)))
    (fun s k =>
      let id := (s.cap c.scap).base.toNat
      let off := (xSrc c s).toNat
      match s.lostPage id off n with
      | some g => .fault (poolFault .leaseLost id (firstOff off g) false)
      | none =>
        match s.objBad id off n false with
        | some fi => .fault fi
        | none =>
        if (pagesOf off n).any (fun g => (s.pkg.frameOf id g).isNone) && s.channelBusy id then .hold
        else
          match s.engLocates (s.cap c.dcap) 8 true false (bytePlaces (xDst c s) n) with
          | .error fi => .fault fi
          | .ok (t, ls) => if t.behindMove k 8 [] ls then .hold else .done (t.putWords k.idx ls ((List.range n).map (fun i => s.objByte id (off + i)))))

/-- The line that a command has just put into the pool channel carries its ring index (R428). -/
def Package.markLast (p : Package) (pc : W64) (idx : W32) : Package :=
  { p with poolCh := p.poolCh.modify (p.poolCh.length - 1) (fun m => { m with pc := pc, eng := some idx }) }

/-- x.pput (R430). -/
def execXPput (c : XCmd) (s : State) : Host.Outcome State Fault Refusal :=
  let n := c.len40.toNat
  s.xCommand c 2 ((illegal (c.len16 != 0 || c.key != 0 || c.flags != 0)).or (noCount (c.len40 == 0)))
    (nearAcc (s.cap c.scap) (xSrc c s) n false)
    (fun s => ((bytesFault s.plainSideOf (s.cap c.scap) (xSrc c s) (xSrcI c s) n false).or
      (s.poolSide (s.cap c.dcap) (xDstI c s) n 0x400 64 false)).or (s.sideGuard ⟨s.cap c.scap, bytePlaces (xSrc c s) n, false⟩ 8))
    (fun s k =>
      let id := (s.cap c.dcap).base.toNat
      let off := (xDst c s).toNat
      match ((pagesOf off n).findSome? (fun g => match s.pkg.frameLoc id (firstOff off g) true with
        | .error fi => some fi
        | .ok _ => none)).or (s.objBad id off n true) with
      | some fi => .fault fi
      | none =>
        match s.engLocates (s.cap c.scap) 8 false false (bytePlaces (xSrc c s) n) with
        | .error fi => .fault fi
        | .ok (t, ls) =>
          if t.behindMove k 8 ls [] then .hold
          else
          let lines := (chunks 64 (ls.flatMap (fun l => t.locRead l 8))).mapIdx (fun i b => (off + 64 * i, b))
          let u := lines.foldl (fun u b =>
            match u.pkg.frameOf id (b.1 / pageSize) with
            -- dirty bytes that the write recalls are forwarded before it as their own core's
            | some f => (u.writeHomeLine (f.pa + b.1 % pageSize) b.2 u.tile.sys.ptok).updP (fun p => p.markLast (s.cmdAddr .x k.idx) k.idx)
            | none => u) t
          .done u)

/-- x.patom (R431): the gate's answer completes it. -/
def execXPatom (c : XCmd) (s : State) : Host.Outcome State Fault Refusal :=
  let rec' (s : State) : XSide := ⟨s.cap c.scap, placesFrom (xSrc c s) 8 2, true⟩
  s.xCommand c 2
    (illegal (c.len16 != 0 || c.len40 != 0 || c.flags.extractLsb' 3 21 != 0 || (inTaskKind s && c.key == 0)))
    (nearAcc (s.cap c.scap) (xSrc c s) 16 false ++ nearAcc (s.cap c.scap) (xSrc c s) 16 true)
    (fun s =>
      let near (x : XSide) : Option FaultInfo := x.checked (fun x => s.nearSide x 8) (srcFar c 2 s)
      (((near { rec' s with wr := false }).or (near (rec' s))).or (s.poolSide (s.cap c.dcap) (xDstI c s) 8 0xD00 8 true)).or
        ((s.sideGuard { rec' s with wr := false } 8).or (s.sideGuard (rec' s) 8)))
    (fun s k =>
      let a := (xSrc c s).toNat
      let op : BitVec 3 := c.flags.extractLsb' 0 3
      let b := leWord (s.nearN a 8)
      let x := if op == 7 then leWord (s.nearN (a + 8) 8) else 0
      let m : PoolMsg := { obj := (s.cap c.dcap).base.toNat, op := .atomic (xDst c s).toNat op b x c.key none (some (a + 8)), token := s.tile.sys.ptok,
                           src := s.tile.phys, pc := s.cmdAddr .x k.idx, eng := some k.idx, seq := 0, launch := some s.tile.handle }
      .flight ((s.updP (fun p => { p with poolCh := p.poolCh ++ [m] })).updCmd .x k.idx (fun d => { d with left := 1 })))

/-! ### x.lease, x.pref -/

/-- The checks of the page commands. -/
def State.leaseSide (s : State) (c : XCmd) (perm : BitVec 12) : Option FaultInfo :=
  s.poolSide (s.cap c.scap) (xSrcI c s) (c.len16.toNat * pageSize) perm pageSize false

/-- Reserved fields and counts of the page commands; `fl` are the FLAGS bits in use. -/
def leaseBad (c : XCmd) (fl : BitVec 24) : Option FaultInfo :=
  (illegal (c.dcap != 0 || c.doff != 0 || c.key != 0 || c.len40 != 0 || c.flags &&& ~~~fl != 0)).or
    (noCount (c.len16 == 0 || decide (4096 < c.len16.toNat)))

/-- The pages of a command. -/
def State.leasePages (s : State) (c : XCmd) : List Nat := (List.range c.len16.toNat).map (fun i => (xSrc c s).toNat / pageSize + i)

/-- A page is resident under a lease that serves the mode. -/
def State.servedPage (s : State) (id page : Nat) (write : Bool) : Bool :=
  (s.pkg.frameOf id page).any (fun f => (f.write || !write) && !f.expired s.pkg.time) && ((s.obj id).lease page s.pkg.num).isSome

/-- Acquire and make resident one page (R381, R432): done, waiting, or rejected. -/
inductive PageRes where
  | ok (s : State)
  | wait (s : State)
  | refused (s : State)

/-- A frame that firmware has asked for on behalf of an aborted task is firmware's to renew (R337). -/
def Package.claimFrame (p : Package) (id page : Nat) (forTask : Bool) : Package :=
  { p with frames := p.frames.map (fun f => if f.obj = id ∧ f.page = page then { f with forTask := f.forTask || forTask } else f) }

/-- One page: `fresh` asks for its lease although the page is served. -/
def State.acquirePage (s : State) (id page : Nat) (write forTask fresh : Bool) (tok : W64) : PageRes :=
  if s.servedPage id page write && !fresh then .ok s
  else
    let s := s.dropExpired id page
    -- a lease request takes its place in the package's channel to the object (R391)
    if s.channelBusy id || (s.pkg.object id).isNone then .wait s
    else
      match (s.objFor id).acquire page s.pkg.num write tok s.pkg.time with
      | .refused o => .refused (s.setObj o)
      | .wait o => .wait (s.setObj o)
      | .granted o =>
        let s := ((s.setObj o).regrant id page).updP (fun p => p.claimFrame id page forTask)
        match s.makeResident id page forTask with
        | some t => .ok t
        | none => .wait s

/-- The pages of x.lease in turn, each with its place among them: a page is asked for once, and again where it is served no
longer. -/
def State.acquirePages (s : State) (id : Nat) (write : Bool) (tok : W64) (k : Cmd) : List (Nat × Nat) → PageRes
  | [] => .ok s
  | g :: r =>
    match s.acquirePage id g.1 write false (decide (k.got ≤ g.2)) tok with
    | .ok t => (t.updCmd .x k.idx (fun d => { d with got := max d.got (g.2 + 1) })).acquirePages id write tok k r
    | x => x

def State.leaseRun (s : State) (c : XCmd) (write : Bool) (k : Cmd) : EngRes :=
  match s.acquirePages (s.cap c.scap).base.toNat write s.tile.sys.ptok k (s.leasePages c).zipIdx with
  | .ok t => .done t
  | .wait t => .stall t 0
  | .refused t => .part t { code := .fenced }

/-- x.lease.rd (R432). -/
def execXLeaseRd (c : XCmd) (s : State) : Host.Outcome State Fault Refusal :=
  s.xCommand c 2 (leaseBad c 3) [] (fun s => s.leaseSide c 0x800) (fun s k => s.leaseRun c false k)

/-- x.lease.wr (R432). -/
def execXLeaseWr (c : XCmd) (s : State) : Host.Outcome State Fault Refusal :=
  s.xCommand c 2 (leaseBad c 3) [] (fun s => s.leaseSide c 0x400) (fun s k => s.leaseRun c true k)

/-- A lease renewed at the node; a refusal drops the frame (R382, R383, R386), and none is renewed after its local
expiry (R383). -/
def State.renewPage (s : State) (id page : Nat) : State × Bool :=
  if (s.heldLease id page).isNone then (s.dropExpired id page, false)
  else
    match (s.objFor id).renew page s.pkg.num s.pkg.time with
    | .granted o => ((s.setObj o).regrant id page, true)
    | .refused o => ((s.setObj o).losePage id page, false)
    | .wait o => (s.setObj o, true)

/-- Every named lease is renewed; the first page whose renewal fails. -/
def State.renewPages (s : State) (id : Nat) : List Nat → State × Option Nat
  | [] => (s, none)
  | g :: r =>
    match s.renewPage id g with
    | (t, true) => t.renewPages id r
    | (t, false) => ((t.renewPages id r).1, some g)

/-- x.lease.renew (R432). -/
def execXLeaseRenew (c : XCmd) (s : State) : Host.Outcome State Fault Refusal :=
  s.xCommand c 2 (leaseBad c 3) [] (fun s => s.leaseSide c 0x800) (fun s _ =>
    let id := (s.cap c.scap).base.toNat
    if s.channelBusy id then .hold
    else
    match s.renewPages id (s.leasePages c) with
    | (t, none) => .done t
    | (t, some g) => .part t (poolFault .leaseLost id (BitVec.ofNat 64 (g * pageSize)) false))

def State.releasePages (s : State) (id : Nat) : List Nat → State × Bool
  | [] => (s, true)
  | g :: r =>
    let (t, ok) := s.giveUp id g
    let (u, ok') := t.releasePages id r
    (u, ok && ok')

/-- x.lease.rel (R432, R384). -/
def execXLeaseRel (c : XCmd) (s : State) : Host.Outcome State Fault Refusal :=
  s.xCommand c 2 (leaseBad c 3) [] (fun s => s.leaseSide c 0x800) (fun s _ =>
    if s.poolAway (s.cap c.scap).base.toNat then .hold
    else
    match s.releasePages (s.cap c.scap).base.toNat (s.leasePages c) with
    | (t, true) => .done t
    | (t, false) => .stall t 0)

/-- x.pref (R433). -/
def execXPref (c : XCmd) (s : State) : Host.Outcome State Fault Refusal :=
  s.xCommand c 2 (leaseBad c 0) [] (fun s => s.leaseSide c 0x800) (fun s _ =>
    .done (s.updP (fun p => { p with prefetch := p.prefetch ++ (s.leasePages c).map (fun g => ((s.cap c.scap).base.toNat, g)) })))

/-! ### Peer packages (R408, R422, R423, R434) -/

/-- The target of a PEER capability (R422). -/
def State.peerOf (s : State) (c : Cap) : Nat := if c.pol == 0x3FF then s.pkg.num else c.pol.toNat % 1024

inductive Reach where | yes | no | wait
deriving DecidableEq, Repr, Inhabited

/-- Whether a package can be reached (R408): a command waits while it has no path and is not unreachable yet. -/
def State.reach (s : State) (n : Nat) : Reach :=
  if n = s.pkg.num then .yes
  else
    match s.package n with
    | none => .no
    | some p => if !p.member || s.pkg.optics.unreachable.contains n then .no else if p.failed || !s.hasPath s.pkg n then .wait else .yes

/-- A write to a peer that no endpoint will take: its target is unreachable, or has come back after the failure that lost
it (R408). -/
def State.peerLost (s : State) (m : PeerMsg) : Bool := s.reach m.target == .no || (m.lost && s.reach m.target == .yes)

/-- The address in the target's window (R422). -/
def peerVa (n : Nat) (a : W64) : W64 := BitVec.ofNat 64 (n * 2 ^ 46) ||| (a &&& 0x3FFFFFFFFFFF)

/-- The target's translation under a tenant's pod tables (R423): LOCAL memory only. -/
def Package.peerPa (p : Package) (tenant : BitVec 16) (a : W64) (wr : Bool) : Try (Leaf × Nat) :=
  let va := peerVa p.num a
  match p.podRoots.find? (fun r => r.1 == tenant.toNat) with
  | none => .error { code := .pageNotPresent, eval := some a, acc := if wr then 1 else 0 }
  | some r =>
    match p.walk r.2 va (if wr then 1 else 0) with
    | .error fi => .error { fi with eval := some a }
    | .ok l =>
      match p.checkLeaf l.pte va l.big (if wr then .wr else .rd) with
      | .error fi => .error { fi with eval := some a }
      | .ok (pa, _) =>
        if p.paKind pa == .hbmLocal || p.paKind pa == .chip then
          if (linesOf pa 8).any (fun x => p.ecc.contains x) then .error (at' .memUncorrectable a) else .ok (l, pa)
        else .error { code := .pagePerm, eval := some a }

/-- Steps 1 to 6 of R148 for a PEER side of places of `unit` bytes. -/
def State.peerSideOf (s : State) (unit : Nat) (x : XSide) : Option FaultInfo :=
  let a := x.places.headD 0
  let perm : BitVec 12 := if x.wr then 0x400 else 0x800
  if !x.cap.tag then some (at' .capTag a)
  else if x.cap.typ == 4 || x.cap.typ == 5 then some (at' .sealedPath a)
  else if x.cap.typ != 6 then some (at' .capType a)
  else if x.cap.perm &&& perm != perm || x.cap.tenant != s.tile.tenant then some (at' .capPerm a)
  else x.places.findSome? (fun a =>
    match boundsFault 0 x.cap a 1 .ld with
    | some v => some (at' .capBounds v)
    | none =>
      if a.toNat % unit != 0 then some (at' .misaligned a)
      else ((List.range unit).findSome? (fun i => boundsFault 0 x.cap (a + BitVec.ofNat 64 i) 1 .ld)).map (at' .capBounds))
def State.peerSide (s : State) (x : XSide) : Option FaultInfo := s.peerSideOf 8 x

/-- Every place of a peer side translated at the target; SCRUB bits met are honoured there (R356). -/
def State.peerLocates (s : State) (n : Nat) (tenant : BitVec 16) (wr : Bool) : List W64 → Try (State × List Nat)
  | [] => .ok (s, [])
  | a :: r =>
    match s.package n with
    | none => .error { code := .peerUnreachable }
    | some p =>
      match p.peerPa tenant a wr with
      | .error fi => .error fi
      | .ok (l, pa) =>
        let s := if pteScrub l.pte then s.onPkg n (fun u => u.scrubFrame l (peerVa n a)) else s
        match s.peerLocates n tenant wr r with
        | .error fi => .error fi
        | .ok (u, ps) => .ok (u, pa :: ps)

/-- Writes on their way to a peer (R414, R434). -/
def State.sendPeer (s : State) (k : Cmd) (n : Nat) (tenant : BitVec 16) (ps : List (W64 × List Byte)) : State :=
  s.updP (fun p => { p with peerCh := p.peerCh ++ ps.map (fun x => { src := s.tile.phys, target := n, addr := x.1, tenant := tenant, bytes := x.2, eng := k.idx }) })

/-- Entries of the tile's channel to a package. -/
def State.peerBusy (s : State) (n : Nat) : Bool := s.pkg.peerCh.any (fun m => m.src == s.tile.phys && m.target == n && !s.peerLost m)

/-- What happens before a peer access: PEER_UNREACHABLE, a wait, or the access. -/
def State.withPeer (s : State) (n : Nat) (f : EngRes) : EngRes :=
  match s.reach n with
  | .no => .fault { code := .peerUnreachable }
  | .wait => .hold
  | .yes => f

/-- A transfer from a plain side to a peer side. -/
def State.toPeer (s : State) (k : Cmd) (src dst : XSide) : EngRes :=
  let n := s.peerOf dst.cap
  s.withPeer n
    (match s.engLocates src.cap 8 false false src.places with
     | .error fi => .fault fi
     | .ok (t, ls) =>
       match t.peerLocates n dst.cap.tenant true dst.places with
       | .error fi => .fault fi
       | .ok (u, _) => if u.behindMove k 8 ls [] then .hold else .done (u.sendPeer k n dst.cap.tenant (dst.places.zip (ls.map (fun l => u.locRead l 8)))))

/-- A transfer from a peer side to a plain side: behind the tile's own writes to the package. -/
def State.fromPeer (s : State) (k : Cmd) (src dst : XSide) : EngRes :=
  let n := s.peerOf src.cap
  s.withPeer n
    (if s.peerBusy n then .hold
     else
       match s.peerLocates n src.cap.tenant false src.places with
       | .error fi => .fault fi
       | .ok (t, ps) =>
         match t.engLocates dst.cap 8 true false dst.places with
         | .error fi => .fault fi
         | .ok (u, ls) =>
           let word (pa : Nat) : List Byte := ((t.package n).map (fun p => p.homeN pa 8)).getD []
           if u.behindMove k 8 [] ls then .hold else .done (u.putWords k.idx ls (ps.flatMap word)))

/-- x.rcopy (R434). -/
def execXRcopy (c : XCmd) (s : State) : Host.Outcome State Fault Refusal :=
  let n := c.len40.toNat
  let src (s : State) : XSide := ⟨s.cap c.scap, bytePlaces (xSrc c s) n, false⟩
  let dst (s : State) : XSide := ⟨s.cap c.dcap, bytePlaces (xDst c s) n, true⟩
  s.xCommand c 2
    ((illegal (c.len16 != 0 || c.key != 0 || c.flags != 0 || inTaskKind s)).or (noCount (n == 0 || decide (2 ^ 30 < n))))
    (nearAcc (s.cap c.scap) (xSrc c s) n false ++ nearAcc (s.cap c.dcap) (xDst c s) n true)
    (fun s =>
      -- the source settles which side is the peer
      let out := (s.cap c.scap).typ != 6
      ((bytesFault (if out then s.plainSideOf else s.peerSideOf) (s.cap c.scap) (xSrc c s) (xSrcI c s) n false).or
        (bytesFault (if out then s.peerSideOf else s.plainSideOf) (s.cap c.dcap) (xDst c s) (xDstI c s) n true)).or
        (if n % 8 != 0 then some (at' .misaligned (xSrc c s)) else (s.sideGuard (src s) 8).or (s.sideGuard (dst s) 8)))
    (fun s k =>
      if (s.cap c.scap).typ != 6 then s.toPeer k (src s) (dst s)
      else s.fromPeer k (src s) (dst s))

/-- x.rst (R434). -/
def execXRst (c : XCmd) (s : State) : Host.Outcome State Fault Refusal :=
  let src (s : State) : XSide := ⟨s.cap c.scap, [xSrc c s], false⟩
  let dst (s : State) : XSide := ⟨s.cap c.dcap, [xDst c s], true⟩
  s.xCommand c 2 (illegal (c.len16 != 0 || c.key != 0 || c.len40 != 0 || c.flags != 0 || inTaskKind s))
    (nearAcc (s.cap c.scap) (xSrc c s) 8 false)
    (fun s => (((src s).checked (fun x => s.nearSide x 8) (srcFar c 1 s)).or ((dst s).checked s.peerSide (dstFar c 1 s))).or (s.sideGuard (src s) 8))
    (fun s k => s.toPeer k (src s) (dst s))

/-! ### Collectives (R435) -/

inductive CollOp where | bcast | gather | rscat | allred
deriving DecidableEq, Repr, Inhabited

def CollOp.num : CollOp → Nat
  | .bcast => 0 | .gather => 1 | .rscat => 2 | .allred => 3

/-- Fields of KEY, and TYPE. -/
def collGroup (c : XCmd) : Nat := (c.key.extractLsb' 48 16).toNat
def collFirst (c : XCmd) : Nat := (c.key.extractLsb' 38 10).toNat
def collN (c : XCmd) : Nat := (c.key.extractLsb' 28 10).toNat + 1
def collType (c : XCmd) : BitVec 6 := c.flags.extractLsb' 2 6
/-- The rank of the package. -/
def State.collRank (s : State) (c : XCmd) : Nat := (s.pkg.num + 1024 - collFirst c) % 1024

/-- Bytes of the source (none where it is not read) and of the destination. -/
def State.collSizes (s : State) (op : CollOp) (c : XCmd) : Nat × Nat :=
  let l := c.len40.toNat
  let n := collN c
  match op with
  | .bcast => (if s.collRank c = 0 then l else 0, l)
  | .gather => (l, n * l)
  | .rscat => (n * l, l)
  | .allred => (l, l)

/-- The fixed-order sum of one element (R435). -/
def collAdd (t : ETy) (x y : Nat) : Nat :=
  match t with
  | .flt f => (f.round .rne (FVal.add .rne (f.decode x) (f.decode y)).1).1
  | t => (x + y) % 2 ^ t.bits

def collSum (t : ETy) (xs : List (List Byte)) : List Byte :=
  match xs with
  | [] => []
  | x :: r =>
    let e := t.bytes
    ((r.foldl (fun acc y => (acc.zip ((chunks e y).map leNat)).map (fun p => collAdd t p.1 p.2)) ((chunks e x).map leNat))).flatMap (leBytes e)

/-- The parties' packages in rank order. -/
def collParties (first n : Nat) : List Nat := (List.range n).map (fun j => (first + j) % 1024)

/-- A party's record of a collective, by group and count. -/
def State.collOf (s : State) (pkg group count : Nat) : Option Coll :=
  (s.package pkg).bind (fun p => p.colls.find? (fun x => x.group == group && x.count == count))

/-- A change of a collective's records on every party. -/
def State.updColl (s : State) (ps : List Nat) (group count : Nat) (f : Coll → Coll) : State :=
  let g (p : Package) : Package := if ps.contains p.num then { p with colls := p.colls.map (fun x => if x.group = group ∧ x.count = count then f x else x) } else p
  { s with pkg := g s.pkg, peers := s.peers.map g }

/-- The records of a collective that every party has finished are gone. -/
def State.clearColl (s : State) (ps : List Nat) (group count : Nat) : State :=
  if ps.all (fun p => (s.collOf p group count).any (·.finished)) then
    let g (p : Package) : Package := { p with colls := p.colls.filter (fun x => !(x.group == group && x.count == count)) }
    { s with pkg := g s.pkg, peers := s.peers.map (fun p => if ps.contains p.num then g p else p) }
  else s

/-- How many collectives of a group the package has started. -/
def Package.collNumber (p : Package) (group : Nat) : Nat := ((p.collCount.find? (fun x => x.1 == group)).map (·.2)).getD 0

def Package.bumpColl (p : Package) (group : Nat) : Package :=
  { p with collCount := p.collCount.filter (fun x => x.1 != group) ++ [(group, p.collNumber group + 1)] }

/-- The result of a matched collective at rank r. -/
def collResult (op : CollOp) (t : ETy) (l r : Nat) (srcs : List (List Byte)) : List Byte :=
  match op with
  | .bcast => srcs.headD []
  | .gather => srcs.flatten
  | .allred => collSum t srcs
  | .rscat => collSum t (srcs.map (fun x => (x.drop (r * l)).take l))

/-- A party joins: its record with the source bytes, once both its sides are translated (R426, R335). -/
def State.collJoin (s : State) (op : CollOp) (c : XCmd) (k : Cmd) : Try State :=
  let z := s.collSizes op c
  match s.engLocates (s.cap c.scap) 8 false false (bytePlaces (xSrc c s) z.1) with
  | .error fi => .error fi
  | .ok (t, ls) =>
    match t.engLocates (s.cap c.dcap) 8 true false (bytePlaces (xDst c s) z.2) with
    | .error fi => .error fi
    | .ok (u, _) =>
      let g := collGroup c
      let x : Coll := { group := g, count := u.pkg.collNumber g, phys := u.tile.phys, idx := k.idx, op := op.num, typ := collType c, len := c.len40.toNat,
                        first := collFirst c, n := collN c, src := ls.flatMap (fun l => u.locRead l 8), started := u.pkg.time, faulted := false }
      .ok (u.updP (fun p => { (p.bumpColl g) with colls := p.colls ++ [x] }))

/-- The record that the command has joined with. -/
def State.collMine (s : State) (k : Cmd) : Option Coll := s.pkg.colls.find? (fun x => x.phys == s.tile.phys && x.idx == k.idx && x.away.isNone && !x.finished)

/-- A timeout or a mismatch faults every party. -/
def State.collFail (s : State) (ps : List Nat) (x : Coll) : EngRes :=
  let s := s.updColl ps x.group x.count (fun y => { y with faulted := true })
  .part (s.updP (fun p => { p with colls := p.colls.filter (fun y => !(y.group == x.group && y.count == x.count)) })) { code := .collTimeout }

/-- The command waits at RP until every party has joined, then writes its result. -/
def State.collRun (s : State) (op : CollOp) (c : XCmd) (k : Cmd) : EngRes :=
  let ps := collParties (collFirst c) (collN c)
  if ps.any (fun p => s.reach p == .no) then .fault { code := .peerUnreachable }
  else
    match s.collMine k with
    | none =>
      match s.collJoin op c k with
      | .error fi => .fault fi
      | .ok t => .stall t 0
    | some x =>
      let all := ps.filterMap (fun p => s.collOf p x.group x.count)
      let first := all.foldl (fun m y => min m y.started) x.started
      -- a reservation that a resume has asked for again has not come within CTO (R413)
      let late := s.pkg.optics.resvs.any (fun r => r.launch == s.tile.handle && r.again && !r.granted && decide (s.pkg.time ≥ r.since + s.tile.sys.cto.toNat))
      let limit := first + s.tile.sys.cto.toNat
      if x.faulted || late || all.any (fun y => y.op != x.op || y.typ != x.typ || y.len != x.len || y.faulted || decide (y.started ≥ limit)) then s.collFail ps x
      else if all.length < ps.length then
        if s.pkg.time ≥ limit then s.collFail ps x else .hold
      -- peers wait for a party whose launch is saved (R413)
      else if all.any (·.away.isSome) || ps.any (fun p => s.reach p != .yes) then .hold
      else
        let t := (etyOfType x.typ.toNat).getD (.int 32 true)
        let bs := collResult op t x.len (s.collRank c) (all.map (·.src))
        match s.engLocates (s.cap c.dcap) 8 true false (bytePlaces (xDst c s) (s.collSizes op c).2) with
        | .error fi => .fault fi
        | .ok (u, ls) =>
          if u.pathBefore k.idx 4 ⟨false, 8, [], ls, false⟩ then .hold
          else .done (((u.putWords k.idx ls bs).updColl [s.pkg.num] x.group x.count (fun y => { y with finished := true })).clearColl ps x.group x.count)

/-- x.coll (R435). -/
def State.collCommand (s : State) (op : CollOp) (c : XCmd) : Host.Outcome State Fault Refusal :=
  let l := c.len40.toNat
  s.xCommand c 2
    (((illegal (c.len16 != 0 || c.key.extractLsb' 0 28 != 0 || c.flags.extractLsb' 8 16 != 0 || inTaskKind s || decide (s.collRank c ≥ collN c))).or
      (if [4, 9, 0xA, 0xB].contains (collType c).toNat then none else some { code := .streamFormat })).or
      (noCount (l == 0 || decide (2 ^ 30 < l))))
    (nearAcc (s.cap c.scap) (xSrc c s) (s.collSizes op c).1 false ++ nearAcc (s.cap c.dcap) (xDst c s) (s.collSizes op c).2 true)
    (fun s =>
      let z := s.collSizes op c
      ((if z.1 = 0 then none else bytesFault s.plainSideOf (s.cap c.scap) (xSrc c s) (xSrcI c s) z.1 false).or
        (bytesFault s.plainSideOf (s.cap c.dcap) (xDst c s) (xDstI c s) z.2 true)).or
        (if l % 8 != 0 then some (at' .misaligned (xSrc c s))
         else (s.sideGuard ⟨s.cap c.scap, bytePlaces (xSrc c s) z.1, false⟩ 8).or (s.sideGuard ⟨s.cap c.dcap, bytePlaces (xDst c s) z.2, true⟩ 8)))
    (fun s k => s.collRun op c k)

/-- x.coll.bcast (R435). -/
def execXCollBcast (c : XCmd) (s : State) : Host.Outcome State Fault Refusal := s.collCommand .bcast c

/-- x.coll.gather (R435). -/
def execXCollGather (c : XCmd) (s : State) : Host.Outcome State Fault Refusal := s.collCommand .gather c

/-- x.coll.rscat (R435). -/
def execXCollRscat (c : XCmd) (s : State) : Host.Outcome State Fault Refusal := s.collCommand .rscat c

/-- x.coll.allred (R435). -/
def execXCollAllred (c : XCmd) (s : State) : Host.Outcome State Fault Refusal := s.collCommand .allred c

/-! ### Circuits (R412, R436) -/

/-- Reserved fields and counts of x.circ. -/
def circBad (s : State) (c : XCmd) : Option FaultInfo :=
  (illegal (c.scap != 0 || c.soff != 0 || c.dcap != 0 || c.doff != 0 || c.len40 != 0 || c.key.extractLsb' 11 53 != 0
    || c.flags.extractLsb' 1 23 != 0 || inTaskKind s)).or (noCount (c.len16 == 0 || decide (8 < c.len16.toNat)))

def circDest (c : XCmd) : Nat := (c.key.extractLsb' 0 11).toNat

/-- The lowest port whose tunable slots can reach an endpoint. -/
def Optics.portTo (o : Optics) (dest : Nat) : Option Nat :=
  (o.ports.zipIdx.find? (fun p => p.1.dest.any (fun d => d.2 == dest && d.1 != 0))).map (·.2)

/-- The request of the command. -/
def State.circId (s : State) (k : Cmd) : Nat := k.ts * 256 + s.tile.phys

def Package.dropResv (p : Package) (f : Resv → Bool) : Package := { p with optics := { p.optics with resvs := p.optics.resvs.filter (fun r => !f r) } }

/-- x.circ.res (R436): it completes when its slots are granted. -/
def execXCircRes (c : XCmd) (s : State) : Host.Outcome State Fault Refusal :=
  s.xCommand c 2 (circBad s c) [] (fun _ => none) (fun s k =>
    let id := s.circId k
    match s.pkg.optics.resvs.find? (fun r => r.id == id) with
    | some r =>
      if r.granted then .done s
      else if s.pkg.time ≥ r.since + r.cto then .part (s.updP (fun p => p.dropResv (fun r => r.id == id))) { code := .collTimeout }
      else .hold
    | none =>
      let r : Resv := { id := id, launch := s.tile.handle, port := (s.pkg.optics.portTo (circDest c)).getD 32, dest := circDest c, slots := c.len16.toNat,
                        granted := false, since := s.pkg.time, cto := s.tile.sys.cto.toNat }
      .stall (s.updP (fun p => { p with optics := { p.optics with resvs := p.optics.resvs ++ [r] } })) 0)

/-- x.circ.rel (R436). -/
def execXCircRel (c : XCmd) (s : State) : Host.Outcome State Fault Refusal :=
  s.xCommand c 2 (circBad s c) [] (fun _ => none) (fun s _ =>
    let mine := (s.pkg.optics.resvs.filter (fun r => r.granted && r.launch == s.tile.handle && r.dest == circDest c)).take c.len16.toNat
    .done (s.updP (fun p => p.dropResv (fun r => mine.contains r))))

/-! ### x.sfence (R437) -/

/-- x.sfence: pool writes of the ring answered, peer writes performed, other accesses performed. -/
def execXSfence (c : XCmd) (s : State) : Host.Outcome State Fault Refusal :=
  s.xCommand c 2
    (illegal (c.scap != 0 || c.soff != 0 || c.dcap != 0 || c.doff != 0 || c.len16 != 0 || c.key != 0 || c.len40 != 0 || c.flags != 0)) []
    (fun _ => none)
    (fun s k =>
      let mine := s.pkg.peerCh.filter (fun m => m.src == s.tile.phys)
      if mine.any s.peerLost then
        .part (s.updP (fun p => { p with peerCh := p.peerCh.filter (fun m => !(m.src == s.tile.phys && s.peerLost m)) })) { code := .peerUnreachable }
      -- a rejection on its way to the tile is fatal before any later access (R388, R392)
      else if s.engOpen .x k || !mine.isEmpty || !s.tile.disp.fenced.isEmpty || s.pkg.poolCh.any (fun m => m.src == s.tile.phys && m.eng.isSome) then .hold
      else .done s)

/-! ### Range sets (R218) -/

/-- The near range set of an X command from the capability registers as they stand: an indexed side
counts as its whole capability, and the markers have none (log 37). -/
def State.xRngs (s : State) (i : Instr) : List Rng :=
  let side (c : Cap) (a : W64) (n : Nat) (wr : Bool) : List Rng := nearAcc c a n wr
  let table (c : Cap) (wr : Bool) : List Rng := if c.typ == 1 then [⟨c.base.toNat, c.base.toNat + c.len.toNat, wr⟩] else []
  match i with
  | .xCopy c => side (s.cap c.scap) (xSrc c s) (8 * c.len16.toNat) false ++ side (s.cap c.dcap) (xDst c s) (8 * c.len16.toNat) true
  | .xFill c => side (s.cap c.scap) (xSrc c s) 8 false ++ side (s.cap c.dcap) (xDst c s) (8 * c.len16.toNat) true
  | .xGather c =>
    listRng (listAt c.doff) (gatherCount c) :: table (s.cap c.scap) false
      ++ side (s.cap c.dcap) ((s.cap c.dcap).cursor + contigOff c.doff) (gatherCount c * gatherSize c) true
  | .xScatter c =>
    listRng (listAt c.soff) (gatherCount c) :: table (s.cap c.dcap) true
      ++ side (s.cap c.scap) ((s.cap c.scap).cursor + contigOff c.soff) (gatherCount c * gatherSize c) false
  | .xSend c =>
    side (s.cap c.scap) (xSrc c s) (8 * c.len16.toNat) false
      ++ (if s.sendTarget c = some s.tile.phys then [⟨sendNear c, sendNear c + 8 * c.len16.toNat, true⟩] else [])
  | .xWait c => side (s.cap c.scap) (xSrc c s) 4 false
  | .xPget c => side (s.cap c.dcap) (xDst c s) c.len40.toNat true
  | .xPput c => side (s.cap c.scap) (xSrc c s) c.len40.toNat false
  | .xPatom c => side (s.cap c.scap) (xSrc c s) 16 true
  | .xRcopy c => side (s.cap c.scap) (xSrc c s) c.len40.toNat false ++ side (s.cap c.dcap) (xDst c s) c.len40.toNat true
  | .xRst c => side (s.cap c.scap) (xSrc c s) 8 false
  | .xCollBcast c => side (s.cap c.scap) (xSrc c s) (s.collSizes .bcast c).1 false ++ side (s.cap c.dcap) (xDst c s) (s.collSizes .bcast c).2 true
  | .xCollGather c => side (s.cap c.scap) (xSrc c s) (s.collSizes .gather c).1 false ++ side (s.cap c.dcap) (xDst c s) (s.collSizes .gather c).2 true
  | .xCollRscat c => side (s.cap c.scap) (xSrc c s) (s.collSizes .rscat c).1 false ++ side (s.cap c.dcap) (xDst c s) (s.collSizes .rscat c).2 true
  | .xCollAllred c => side (s.cap c.scap) (xSrc c s) (s.collSizes .allred c).1 false ++ side (s.cap c.dcap) (xDst c s) (s.collSizes .allred c).2 true
  | _ => []

/-- The near bytes that an X command reads and writes, for the buffers (R220): those of its range set, but an indexed side
has only the elements that its list names. -/
def State.xAcc (s : State) (i : Instr) : List Rng :=
  match i with
  | .xGather c => (State.gatherMove c s).acc
  | .xScatter c => (State.scatterMove c s).acc
  | i => s.xRngs i

end Sys2Proof.Machine
end

