-- ==== Sys2Proof/Machine/Vector.lean ====
section
/-! DEFINITION. The vector commands (R264 to R291). -/

namespace Sys2Proof.Machine

/-! ### Tables of the commands -/

def rolesDAB : Nat → Option (List VRole) := fun n => if n = 3 then some [.d, .a, .b] else none
def rolesDA : Nat → Option (List VRole) := fun n => if n = 2 then some [.d, .a] else none
def rolesD : Nat → Option (List VRole) := fun n => if n = 1 then some [.d] else none

/-- RM is zero on integer types (R270). -/
def rmTyped (c : VCmd) (t : ETy) : Bool := !t.isInt || c.rm == 0

/-- v.add to v.div (R270, R271): SAT only on integer v.add, v.sub and v.mul. -/
def specArith (types : List Nat) (satOk : Bool) : VSpec :=
  { roles := rolesDAB, free := 0xF0000000, rm := true, types := types,
    typed := fun c t => rmTyped c t && (!c.ops.getLsbD 28 || (satOk && t.isInt)) }

def specSum : VSpec := specArith (intTypes ++ fpTypes ++ [0xB]) true
def specMinMax : VSpec := specArith (intTypes ++ fpTypes ++ [0xB]) false
def specDiv : VSpec := specArith (fpTypes ++ [0xB]) false
def specFma : VSpec := { roles := rolesDAB, free := 0xE0000000, rm := true, types := fpTypes ++ [0xB], dRead := true }
def specSqrt : VSpec := { roles := rolesDA, free := 0xE0000000, rm := true, types := fpTypes ++ [0xB] }
def specRsq : VSpec := { roles := rolesDA, free := 0xE0000000, rm := true, types := fpTypes }
def specCmp : VSpec :=
  { roles := fun n => if n = 3 then some [.m, .a, .b] else if n = 2 then some [.a, .b] else none, free := 0xF0000000,
    types := intTypes ++ fpTypes ++ [0xB, 0xC],
    code := fun c => c.rm != 7 && (c.regs.length == 3 || c.ops.getLsbD 28),
    typed := fun c t => !(t.isInt && c.rm == 6) }
def specSel : VSpec :=
  { roles := fun n => if n = 3 then some [.d, .a, .m] else none, free := 0x80000000, types := intTypes ++ fpTypes ++ [0xB, 0xC], noMod := true }
def specBit2 : VSpec := { roles := rolesDAB, types := intTypes, noMod := true }
def specBit1 : VSpec := { roles := rolesDA, types := intTypes, noMod := true }
/-- Shifts (R274). -/
def specShift : VSpec :=
  { roles := fun n => if n = 3 then some [.d, .a, .b] else if n = 2 then some [.d, .a] else none, free := 0x8000003F, types := intTypes, noMod := true,
    code := fun c => (c.ops.getLsbD 31 == (c.regs.length == 2)) && (c.ops.getLsbD 31 || c.ops.extractLsb' 0 6 == 0),
    typed := fun c t => decide ((c.ops.extractLsb' 0 6).toNat < t.bits) }
def specCvt : VSpec :=
  { roles := rolesDA, free := 0xE000003F, rm := true, sr := true, types := intTypes ++ fpTypes ++ [0xB] ++ matTypes,
    styp := some (intTypes ++ fpTypes ++ [0xB] ++ matTypes), aTy := VCmd.scode,
    typed := fun c t => !(t.isInt && c.sty.isInt) || c.rm == 0 }
def specQblk : VSpec :=
  { roles := fun n => if n = 3 then some [.d, .sc, .a] else none, free := 0xE000003F, rm := true, sr := true, types := blkTypes,
    styp := some [0xA, 9], aTy := VCmd.scode, bcast := false,
    counts := fun _ n k => k .a == n && n % 32 == 0 && k .sc == n / 32 }
def specDq : VSpec :=
  { roles := fun n => if n = 3 then some [.d, .a, .sc] else none, free := 0x3F, types := [0xA, 9, 8], styp := some blkTypes, aTy := VCmd.scode,
    bcast := false, counts := fun _ n k => k .a == n && n % 32 == 0 && k .sc == n / 32 }
def specTolog : VSpec := { roles := rolesDA, types := [0xC], aTy := fun _ => 0xA, dMod := false }
def specFromlog : VSpec := { roles := rolesDA, types := [0xA], aTy := fun _ => 0xC }
def specLog1 : VSpec := { roles := rolesDA, types := [0xC], dMod := false }
def specLog2 : VSpec := { roles := rolesDAB, types := [0xC], dMod := false }
def specLpow : VSpec := { roles := fun n => if n = 3 then some [.d, .a, .y] else none, types := [0xC], dMod := false }
def specAct : VSpec := { roles := rolesDA, free := 0xF, types := fpTypes, code := fun c => !c.ops.getLsbD 3 }
/-- lmul only on LNS32, RM zero there and on integers. -/
def redTyped (c : VCmd) (t : ETy) : Bool := ((c.ops.extractLsb' 0 2 == 3) → (t == .lns)) && ((t == .lns || t.isInt) → c.rm == 0)
def specRed : VSpec :=
  { roles := rolesDA, free := 0xE0000003, rm := true, types := intTypes ++ fpTypes ++ [0xC], dMod := false, typed := redTyped, bcast := false,
    counts := fun _ n k => k .a % n == 0 }
/-- SEG, or n when it is 0 (R282). -/
def segOf (c : VCmd) (n : Nat) : Nat := let g := (c.ops.extractLsb' 8 16).toNat; if g = 0 then n else g
def specScan : VSpec :=
  { roles := rolesDA, free := 0xE0FFFF07, rm := true, types := intTypes ++ fpTypes ++ [0xC], dMod := false, typed := redTyped, bcast := false,
    counts := fun c n k => k .a == n && n % segOf c n == 0 }
def specFill : VSpec := { roles := rolesD, free := 0xFFFFFFFF, types := intTypes ++ fpTypes ++ [0xB, 0xC], noMod := true }
def specIdx : VSpec := { roles := rolesD, free := 0xFFFFFFFF, types := intTypes, noMod := true }
def specPerm : VSpec :=
  { roles := fun n => if n = 3 then some [.d, .a, .x] else none, types := intTypes ++ fpTypes ++ [0xC], noMod := true, bcast := false,
    counts := fun _ n k => k .x == n || k .x == 1 }
def specMov : VSpec :=
  { roles := rolesDA, free := 0xE0000000, rm := true, types := intTypes ++ fpTypes ++ [0xB, 0xC] ++ matTypes, typed := rmTyped }
def specSpush : VSpec :=
  { roles := fun n => if n = 3 then some [.ring, .a, .m] else none, free := 7, types := intTypes ++ fpTypes ++ [0xC], noMod := true }
def specSpop : VSpec :=
  { roles := fun n => if n = 2 then some [.d, .ring] else none, free := 0xB, types := intTypes ++ fpTypes ++ [0xC], noMod := true }
def specEst : VSpec := { roles := fun n => if n = 1 then some [.a] else none, types := fpTypes }
def specRnd : VSpec := { roles := rolesD, types := [2, 3, 4, 5, 6, 7], noMod := true }

/-! ### Arithmetic (R271) -/

/-- An integer element after Src. -/
def State.vInt (s : State) (sp : VSpec) (c : VCmd) (r : VRole) (i : Nat) : Int :=
  match c.ty with
  | .int w sg => intOf w sg (s.vPat sp c r i)
  | _ => 0

/-- A two-operand command: `fi` on integers, `ff` on values under the mode. -/
def State.vArith (s : State) (sp : VSpec) (c : VCmd) (fi : Int → Int → Int) (ff : RMode → FVal → FVal → FVal) : Host.Outcome State Fault Refusal :=
  s.vCommand sp c (fun s _ =>
    VRes.map (sp.n c) (fun i =>
      match c.ty with
      | .int w sg =>
        let e := fi (s.vInt sp c .a i) (s.vInt sp c .b i)
        wrap w (if c.ops.getLsbD 28 then sat e (intLo w sg) (intHi w sg) else e)
      | .flt f => dstV f (.mode (rmodeOf c.rm)) (sp.reg c .d) (ff (rmodeOf c.rm) (s.vVal sp c .a i) (s.vVal sp c .b i))
      | _ => 0))

/-- A floating-point command on values. -/
def State.vFloat (s : State) (sp : VSpec) (c : VCmd) (ff : State → RMode → Nat → FVal) : Host.Outcome State Fault Refusal :=
  s.vCommand sp c (fun s _ =>
    VRes.map (sp.n c) (fun i =>
      match c.ty with
      | .flt f => dstV f (.mode (rmodeOf c.rm)) (sp.reg c .d) (ff s (rmodeOf c.rm) i)
      | _ => 0))

/-- v.add (R271). -/
def execVAdd (c : VCmd) (s : State) : Host.Outcome State Fault Refusal :=
  s.vArith specSum c (· + ·) (fun m x y => (FVal.add m x y).1)

/-- v.sub (R271). -/
def execVSub (c : VCmd) (s : State) : Host.Outcome State Fault Refusal :=
  s.vArith specSum c (· - ·) (fun m x y => (FVal.add m x y.negate).1)

/-- v.mul (R271). -/
def execVMul (c : VCmd) (s : State) : Host.Outcome State Fault Refusal :=
  s.vArith specSum c (· * ·) (fun _ x y => (FVal.mul x y).1)

/-- v.min (R271, R76). -/
def execVMin (c : VCmd) (s : State) : Host.Outcome State Fault Refusal :=
  s.vArith specMinMax c (fun x y => min x y) (fun _ x y => (x.min y).1)

/-- v.max (R271, R76). -/
def execVMax (c : VCmd) (s : State) : Host.Outcome State Fault Refusal :=
  s.vArith specMinMax c (fun x y => max x y) (fun _ x y => (x.max y).1)

/-- v.div (R271). -/
def execVDiv (c : VCmd) (s : State) : Host.Outcome State Fault Refusal :=
  s.vArith specDiv c (fun _ _ => 0) (fun _ x y => (FVal.div x y).1)

/-- v.fma (R271): D is the addend, unmodified, one rounding. -/
def execVFma (c : VCmd) (s : State) : Host.Outcome State Fault Refusal :=
  s.vFloat specFma c (fun s m i =>
    (FVal.fma m (s.vVal specFma c .a i) (s.vVal specFma c .b i) (c.ty.value (s.vGet (specFma.reg c .d) c.ty.bits i))).1)

/-- v.sqrt (R271). -/
def execVSqrt (c : VCmd) (s : State) : Host.Outcome State Fault Refusal :=
  s.vFloat specSqrt c (fun s _ i => (s.vVal specSqrt c .a i).sqrt.1)

/-- v.rsq (R271, R262). -/
def execVRsq (c : VCmd) (s : State) : Host.Outcome State Fault Refusal :=
  s.vFloat specRsq c (fun s _ i => (s.vVal specRsq c .a i).rsqrt)

/-! ### Compare and select -/

/-- The comparison of CC (R272) from "less" and "equal"; `nan` where an operand is a NaN. -/
def ccHolds (cc : Nat) (nan lt eq : Bool) : Bool :=
  if nan then cc == 1 || cc == 6
  else
    match cc with
    | 0 => eq | 1 => !eq | 2 => lt | 3 => lt || eq | 4 => !lt && !eq | 5 => !lt | _ => false

/-- Bit i of the condition. -/
def State.vCond (s : State) (c : VCmd) (i : Nat) : Bool :=
  match c.ty with
  | .int _ _ =>
    let x := s.vInt specCmp c .a i
    let y := s.vInt specCmp c .b i
    ccHolds c.rm false (decide (x < y)) (decide (x = y))
  | .lns =>
    let x := LVal.decode (s.vPat specCmp c .a i)
    let y := LVal.decode (s.vPat specCmp c .b i)
    ccHolds c.rm (x.isNan || y.isNan) (x.lt y) (decide (x.key = y.key))
  | _ =>
    let x := s.vVal specCmp c .a i
    let y := s.vVal specCmp c .b i
    ccHolds c.rm (x.isNan || y.isNan) (x.lt y) (x.eq y)

/-- Word g of the condition of n elements (R222). -/
def condWord (n : Nat) (f : Nat → Bool) (g : Nat) : Nat :=
  (List.range 64).foldl (fun a j => if 64 * g + j < n ∧ f (64 * g + j) then a + 2 ^ j else a) 0

/-- Words pushed to the condition queue. -/
def State.pushCond (s : State) (ws : List Nat) : State :=
  s.mapEng (fun e => { e with condq := e.condq ++ ws.map (BitVec.ofNat 64) })

/-- Words still to be pushed by a command that has pushed `k.left` of them: all of them when they fit, else as
many as fit; V stalls while the queue of four is full (R222). A command that stalls keeps its words (R272). -/
def State.condPush (s : State) (k : Cmd) (ws : List Nat) (puts : List (VRole × Nat × Nat)) : VRes :=
  let rest := ws.drop k.left
  let room := 4 - s.tile.eng.condq.length
  if rest.length ≤ room then .out puts (fun s => s.pushCond rest)
  else .stall puts (k.left + room) (fun s => (s.pushCond (rest.take room)).updCmd .v k.idx (fun c => { c with held := ws.map (BitVec.ofNat 64) }))

/-- v.cmp (R272, R221). -/
def execVCmp (c : VCmd) (s : State) : Host.Outcome State Fault Refusal :=
  let n := specCmp.n c
  let k := (n + 63) / 64
  let push := c.ops.getLsbD 28
  s.vCommand specCmp c
    (fun s m =>
      -- the condition that a stalled push has begun to deliver is the one that M takes
      let ws := if m.held.isEmpty then (List.range k).map (condWord n (s.vCond c)) else m.held.map BitVec.toNat
      let puts : List (VRole × Nat × Nat) := if c.regs.length = 3 then ws.mapIdx (fun g w => (.m, g, w)) else []
      if push then s.condPush m ws puts else .out puts id)
    (fun s m => if push then s.condPush m (List.replicate k 0) [] else .out [] id)

/-- v.sel (R273). -/
def execVSel (c : VCmd) (s : State) : Host.Outcome State Fault Refusal :=
  s.vCommand specSel c (fun s _ =>
    .out (((List.range (specSel.n c)).filter (fun i => s.vBit specSel c i ^^ c.ops.getLsbD 31)).map
      (fun i => (.d, i, s.vSrc (specSel.reg c .a) c.ty.bits i))) id)

/-! ### Bits (R274, R275) -/

/-- D_i := f of the element bits of A and B. -/
def State.vBits2 (s : State) (c : VCmd) (f : Nat → Nat → Nat) : Host.Outcome State Fault Refusal :=
  s.vCommand specBit2 c (fun s _ =>
    VRes.map (specBit2.n c) (fun i => f (s.vSrc (specBit2.reg c .a) c.ty.bits i) (s.vSrc (specBit2.reg c .b) c.ty.bits i)))

def State.vBits1 (s : State) (c : VCmd) (f : Nat → Nat → Nat) : Host.Outcome State Fault Refusal :=
  s.vCommand specBit1 c (fun s _ =>
    VRes.map (specBit1.n c) (fun i => f c.ty.bits (s.vSrc (specBit1.reg c .a) c.ty.bits i)))

/-- A shift by s bits, s below the width. -/
def State.vShift (s : State) (c : VCmd) (f : Nat → Nat → Nat → Nat) : Host.Outcome State Fault Refusal :=
  s.vCommand specShift c (fun s _ =>
    let w := c.ty.bits
    VRes.map (specShift.n c) (fun i =>
      let k := if c.ops.getLsbD 31 then (c.ops.extractLsb' 0 6).toNat else s.vSrc (specShift.reg c .b) w i % w
      f w (s.vSrc (specShift.reg c .a) w i) k))

/-- v.and (R274). -/
def execVAnd (c : VCmd) (s : State) : Host.Outcome State Fault Refusal := s.vBits2 c (· &&& ·)

/-- v.or (R274). -/
def execVOr (c : VCmd) (s : State) : Host.Outcome State Fault Refusal := s.vBits2 c (· ||| ·)

/-- v.xor (R274). -/
def execVXor (c : VCmd) (s : State) : Host.Outcome State Fault Refusal := s.vBits2 c (· ^^^ ·)

/-- v.not (R274). -/
def execVNot (c : VCmd) (s : State) : Host.Outcome State Fault Refusal := s.vBits1 c (fun w x => 2 ^ w - 1 - x)

/-- v.shl (R274). -/
def execVShl (c : VCmd) (s : State) : Host.Outcome State Fault Refusal := s.vShift c (fun w x k => x * 2 ^ k % 2 ^ w)

/-- v.shr (R274). -/
def execVShr (c : VCmd) (s : State) : Host.Outcome State Fault Refusal := s.vShift c (fun _ x k => x / 2 ^ k)

/-- v.sra (R274). -/
def execVSra (c : VCmd) (s : State) : Host.Outcome State Fault Refusal := s.vShift c (fun w x k => wrap w (intOf w true x / 2 ^ k))

/-- v.clz (R275). -/
def execVClz (c : VCmd) (s : State) : Host.Outcome State Fault Refusal :=
  s.vBits1 c (fun w x => (clzOf w (BitVec.ofNat 64 x)).toNat)

/-- v.ffs (R275). -/
def execVFfs (c : VCmd) (s : State) : Host.Outcome State Fault Refusal :=
  s.vBits1 c (fun _ x => (ffsOf (BitVec.ofNat 64 x)).toNat)

/-- v.pop (R275). -/
def execVPop (c : VCmd) (s : State) : Host.Outcome State Fault Refusal :=
  s.vBits1 c (fun _ x => (popOf (BitVec.ofNat 64 x)).toNat)

/-! ### Conversion and blocks (R276 to R278) -/

/-- v.cvt (R276, R250 to R253). -/
def execVCvt (c : VCmd) (s : State) : Host.Outcome State Fault Refusal :=
  s.vCommand specCvt c (fun s k =>
    let d := specCvt.reg c .d
    VRes.map (specCvt.n c) (fun i => c.ty.ofValue (s.vRound k c.rm i) d.scale.toInt d.clamp (s.vVal specCvt c .a i)))

/-- A block of 32 quantised by the destination format: the scale and the payload (R255, R256). -/
def quantBlock (code : Nat) (rnd : Nat → ERound) (vs : List FVal) : Nat × List Nat :=
  match code with
  | 0x1C => bxQuant 7 rnd vs
  | 0x1D => bxQuant 4 rnd vs
  | 0x1E => bxQuant 2 rnd vs
  | _ =>
    match etyOfType code with
    | some (.flt f) => mxQuant (code - 0x10) f rnd vs
    | _ => (0, [])

/-- v.qblk (R277). -/
def execVQblk (c : VCmd) (s : State) : Host.Outcome State Fault Refusal :=
  s.vCommand specQblk c (fun s k =>
    let blocks := (List.range (specQblk.n c / 32)).map (fun b =>
      (b, quantBlock c.tcode (fun i => s.vRound k c.rm (32 * b + i)) ((List.range 32).map (fun i => s.vVal specQblk c .a (32 * b + i)))))
    .out (blocks.flatMap (fun q => q.2.2.mapIdx (fun i x => (.d, 32 * q.1 + i, x))) ++ blocks.map (fun q => (.sc, q.1, q.2.1))) id)

/-- The value of a payload element under its scale (R241, R242). -/
def blockValue (code : Nat) (scale i x : Nat) : FVal :=
  match code with
  | 0x1C => bxValue 7 scale i x
  | 0x1D => bxValue 4 scale i x
  | 0x1E => bxValue 2 scale i x
  | _ =>
    match etyOfType code, e8m0 scale with
    | some t, some k => (t.value x).scale k
    | _, _ => .nan false

/-- v.dq (R278, R257). -/
def execVDq (c : VCmd) (s : State) : Host.Outcome State Fault Refusal :=
  s.vCommand specDq c (fun s _ =>
    VRes.map (specDq.n c) (fun i =>
      let sc := s.vGet (specDq.reg c .sc) (specDq.width c .sc) (i / 32)
      let v := blockValue c.scode sc (i % 32) (s.vGet (specDq.reg c .a) (specDq.width c .a) i)
      match c.ty with
      | .flt f => dstV f (.mode .rne) (specDq.reg c .d) v
      | _ => 0))

/-! ### Log numbers (R279, R259, R260) and activations (R280) -/

/-- An LNS32 command on decoded sources. -/
def State.vLog (s : State) (sp : VSpec) (c : VCmd) (f : State → Nat → Nat) : Host.Outcome State Fault Refusal :=
  s.vCommand sp c (fun s _ => VRes.map (sp.n c) (f s))

def State.vLns (s : State) (sp : VSpec) (c : VCmd) (r : VRole) (i : Nat) : LVal := LVal.decode (s.vPat sp c r i)

/-- v.tolog (R259). -/
def execVTolog (c : VCmd) (s : State) : Host.Outcome State Fault Refusal :=
  s.vLog specTolog c (fun s i => (lnsOf (s.vVal specTolog c .a i)).encode)

/-- v.fromlog (R259). -/
def execVFromlog (c : VCmd) (s : State) : Host.Outcome State Fault Refusal :=
  s.vLog specFromlog c (fun s i =>
    let d := specFromlog.reg c .d
    fmt32.clamp d.clamp (lnsToF32 d.scale.toInt (s.vLns specFromlog c .a i)))

/-- v.lmul (R260). -/
def execVLmul (c : VCmd) (s : State) : Host.Outcome State Fault Refusal :=
  s.vLog specLog2 c (fun s i => ((s.vLns specLog2 c .a i).mul (s.vLns specLog2 c .b i)).encode)

/-- v.ldiv (R260). -/
def execVLdiv (c : VCmd) (s : State) : Host.Outcome State Fault Refusal :=
  s.vLog specLog2 c (fun s i => ((s.vLns specLog2 c .a i).div (s.vLns specLog2 c .b i)).encode)

/-- v.lpow (R260). -/
def execVLpow (c : VCmd) (s : State) : Host.Outcome State Fault Refusal :=
  s.vLog specLpow c (fun s i => ((s.vLns specLpow c .a i).pow (s.vVal specLpow c .y i)).encode)

/-- v.lsqrt (R260). -/
def execVLsqrt (c : VCmd) (s : State) : Host.Outcome State Fault Refusal :=
  s.vLog specLog1 c (fun s i => (s.vLns specLog1 c .a i).sqrt.encode)

/-- v.ladd (R260). -/
def execVLadd (c : VCmd) (s : State) : Host.Outcome State Fault Refusal :=
  s.vLog specLog2 c (fun s i => ((s.vLns specLog2 c .a i).add (s.vLns specLog2 c .b i)).encode)

/-- FN (R280). -/
def actFn (n : Nat) : RealFn :=
  match n with
  | 0 => .exp2 | 1 => .log2 | 2 => .exp | 3 => .sigmoid | 4 => .silu | 5 => .gelu | 6 => .softplus | _ => .tanh

/-- v.act (R280, R261). -/
def execVAct (c : VCmd) (s : State) : Host.Outcome State Fault Refusal :=
  s.vCommand specAct c (fun s _ =>
    let d := specAct.reg c .d
    VRes.map (specAct.n c) (fun i =>
      match c.ty with
      | .flt f => f.clamp d.clamp ((actFn (c.ops.extractLsb' 0 4).toNat).apply f d.scale.toInt (s.vVal specAct c .a i))
      | _ => 0))

/-! ### Reductions and scans (R281, R282) -/

/-- v.red (R281). -/
def execVRed (c : VCmd) (s : State) : Host.Outcome State Fault Refusal :=
  s.vCommand specRed c (fun s _ =>
    let n := specRed.n c
    let l := specRed.count c .a / n
    VRes.map n (fun g =>
      treeOf (redOp c.ty c.rm (c.ops.extractLsb' 0 2).toNat) 17 ((List.range l).map (fun i => s.vPat specRed c .a (g * l + i)))))

/-- v.scan (R282). -/
def execVScan (c : VCmd) (s : State) : Host.Outcome State Fault Refusal :=
  s.vCommand specScan c (fun s _ =>
    let n := specScan.n c
    let op := (c.ops.extractLsb' 0 2).toNat
    let xs := (List.range n).map (fun i => s.vPat specScan c .a i)
    let l := segOf c n
    let segs := (List.range (n / l)).map (fun b => (xs.drop (b * l)).take l)
    .out ((segs.flatMap (scanSeg (redOp c.ty c.rm op) (c.ops.getLsbD 2) none (scanId c.ty op))).mapIdx (fun i x => (.d, i, x))) id)

/-! ### Fill, index, permute, move (R283 to R286) -/

/-- v.fill (R283). -/
def execVFill (c : VCmd) (s : State) : Host.Outcome State Fault Refusal :=
  let v : Nat := match c.tcode with
    | 0x06 | 0x07 => (c.ops.signExtend 64).toNat
    | 0x0B => (fmt64.round .rne (fmt32.decode c.ops.toNat)).1
    | _ => c.ops.toNat % 2 ^ c.ty.bits
  s.vCommand specFill c (fun _ _ => VRes.map (specFill.n c) (fun _ => v))

/-- v.idx (R284). -/
def execVIdx (c : VCmd) (s : State) : Host.Outcome State Fault Refusal :=
  s.vCommand specIdx c (fun _ _ =>
    VRes.map (specIdx.n c) (fun i =>
      wrap c.ty.bits ((c.ops.extractLsb' 16 16).toInt + i * (c.ops.extractLsb' 0 16).toInt)))

/-- v.perm (R285). -/
def execVPerm (c : VCmd) (s : State) : Host.Outcome State Fault Refusal :=
  s.vCommand specPerm c (fun s _ =>
    VRes.map (specPerm.n c) (fun i =>
      let j := s.vSrc (specPerm.reg c .x) 32 i
      if j < specPerm.count c .a then s.vGet (specPerm.reg c .a) c.ty.bits j else 0))

/-- v.mov (R286). -/
def execVMov (c : VCmd) (s : State) : Host.Outcome State Fault Refusal :=
  s.vCommand specMov c (fun s _ =>
    VRes.map (specMov.n c) (fun i =>
      match c.ty with
      | .flt f =>
        if f.bits < 16 then s.vSrc (specMov.reg c .a) c.ty.bits i
        else dstV f (.mode (rmodeOf c.rm)) (specMov.reg c .d) (s.vVal specMov c .a i)
      | .int 4 _ => s.vSrc (specMov.reg c .a) c.ty.bits i
      | _ => s.vPat specMov c .a i))

/-! ### Conditional streams (R287 to R289) -/

/-- The counts of stream q. -/
def State.setSqIn (s : State) (q : Fin 4) (v : W32) : State := s.mapSys (fun y => { y with sqin := y.sqin.set q v })
def State.setSqOut (s : State) (q : Fin 4) (v : W32) : State := s.mapSys (fun y => { y with sqout := y.sqout.set q v })

/-- A command that has moved a count: a gsr sees it once the command completes (R287). -/
def State.noteSq (s : State) (k : Cmd) (q : Fin 4) (pop : Bool) (n : Nat) : State :=
  s.updCmd .v k.idx (fun c => { c with sq := some (q, pop, BitVec.ofNat 32 n) })

/-- Q (R288, R289). -/
def streamQ (c : VCmd) : Fin 4 := (c.ops.extractLsb' 0 2).toFin

/-- v.spush (R288). -/
def execVSpush (c : VCmd) (s : State) : Host.Outcome State Fault Refusal :=
  s.vCommand specSpush c (fun s k =>
    let q := streamQ c
    let sel := (List.range (specSpush.n c)).filter (fun i => s.vBit specSpush c i ^^ c.ops.getLsbD 2)
    let cap := specSpush.count c .ring
    let a := s.tile.sys.sqin[q]
    if (a - s.tile.sys.sqout[q]).toNat + sel.length > cap then .fault { code := .bufState, eval := some (0x44 + BitVec.ofNat 64 q.val) }
    else
      .out (sel.mapIdx (fun j i => (.ring, (a + BitVec.ofNat 32 j).toNat % cap, s.vSrc (specSpush.reg c .a) c.ty.bits i)))
        (fun s => (s.setSqIn q (a + BitVec.ofNat 32 sel.length)).noteSq k q false sel.length))

/-- v.spop (R289). -/
def execVSpop (c : VCmd) (s : State) : Host.Outcome State Fault Refusal :=
  s.vCommand specSpop c (fun s k =>
    let q := streamQ c
    let n := specSpop.n c
    let o := s.tile.sys.sqout[q]
    let avail := (s.tile.sys.sqin[q] - o).toNat
    let cap := specSpop.count c .ring
    if avail < n ∧ !c.ops.getLsbD 3 then .fault { code := .bufState, eval := some (0x44 + BitVec.ofNat 64 q.val) }
    else
      let m := min n avail
      .out ((List.range n).map (fun i => (.d, i,
          if i < m then s.vGet (specSpop.reg c .ring) c.ty.bits ((o.toNat + i) % cap) else 0)))
        (fun s => (s.setSqOut q (o + BitVec.ofNat 32 m)).noteSq k q true m))

/-! ### Estimator and random bits (R290, R291) -/

/-- v.est (R290). -/
def execVEst (c : VCmd) (s : State) : Host.Outcome State Fault Refusal :=
  s.vCommand specEst c (fun s _ =>
    let xs := (List.range (specEst.n c)).map (fun i => BitVec.ofNat 64 (fmt64.round .rne (s.vVal specEst c .a i)).1)
    .out [] (fun s => s.mapPar (fun p => xs.foldl Par.welford p)))

/-- v.rnd (R291). -/
def execVRnd (c : VCmd) (s : State) : Host.Outcome State Fault Refusal :=
  s.vCommand specRnd c (fun s k =>
    let h := c.ty.bytes / 2
    VRes.map (specRnd.n c) (fun i =>
      (List.range h).foldl (fun a j => a + (s.vRho k (h * i + j)).toNat * 2 ^ (16 * j)) 0))

/-! ### Range sets at the append (R218, R290) -/

/-- The table of a command's opcode. -/
def vSpecOf : Instr → Option (VSpec × VCmd)
  | .vAdd c | .vSub c | .vMul c => some (specSum, c)
  | .vMin c | .vMax c => some (specMinMax, c)
  | .vDiv c => some (specDiv, c)
  | .vFma c => some (specFma, c)
  | .vSqrt c => some (specSqrt, c)
  | .vRsq c => some (specRsq, c)
  | .vCmp c => some (specCmp, c)
  | .vSel c => some (specSel, c)
  | .vAnd c | .vOr c | .vXor c => some (specBit2, c)
  | .vNot c | .vClz c | .vFfs c | .vPop c => some (specBit1, c)
  | .vShl c | .vShr c | .vSra c => some (specShift, c)
  | .vCvt c => some (specCvt, c)
  | .vQblk c => some (specQblk, c)
  | .vDq c => some (specDq, c)
  | .vTolog c => some (specTolog, c)
  | .vFromlog c => some (specFromlog, c)
  | .vLmul c | .vLdiv c | .vLadd c => some (specLog2, c)
  | .vLpow c => some (specLpow, c)
  | .vLsqrt c => some (specLog1, c)
  | .vAct c => some (specAct, c)
  | .vRed c => some (specRed, c)
  | .vScan c => some (specScan, c)
  | .vFill c => some (specFill, c)
  | .vIdx c => some (specIdx, c)
  | .vPerm c => some (specPerm, c)
  | .vMov c => some (specMov, c)
  | .vSpush c => some (specSpush, c)
  | .vSpop c => some (specSpop, c)
  | .vEst c => some (specEst, c)
  | .vRnd c => some (specRnd, c)
  | _ => none

/-- The near bytes of every element of a V command (R220). -/
def vAccOf (i : Instr) : List Rng :=
  match vSpecOf i with
  | some (sp, c) => if (sp.bad c).isSome then [] else sp.acc c
  | none => []

/-- The range set of a V command; v.est also writes the estimator's pseudo-range. -/
def vRngs (i : Instr) : List Rng :=
  match vSpecOf i with
  | some (sp, c) =>
    if (sp.bad c).isSome then []
    else sp.rngs c ++ (match i with
      | .vEst _ => [⟨estRange.1, estRange.2, true⟩]
      | _ => [])
  | none => []

end Sys2Proof.Machine
end

