-- ==== Sys2Proof/Machine/EngIf.lean ====
section
/-! DEFINITION. The control core's words for the engines (R229 to R236, R305 to R308), and the record of
a command as its words are appended (R215, R218, R219, R231). -/

namespace Sys2Proof.Machine

/-! ### Appended commands -/

/-- The G field of an M command in the ring. -/
def State.mGo (s : State) (c : Cmd) : Bool := (s.ringWord .m c.idx).getLsbD 33

/-- M commands appended whole and not started, in order. -/
def Engs.mPending (e : Engs) : List Cmd := e.cmds.filter (fun c => c.eng == .m && c.whole && !c.began && !c.done)

/-- The range set of the command at ring index `idx` at its append (R218). -/
def State.rngsOf (s : State) (idx : W32) (i : Instr) : List Rng :=
  match mOf i with
  | some (op, c) => s.mAppend op c (s.tile.eng.mPending.any s.mGo) idx
  | none => if (vSpecOf i).isSome then vRngs i else s.xRngs i

/-- The near bytes that a command will read and write, as far as its append tells, for the declared buffers (R155, R220). -/
def State.accOf (s : State) (i : Instr) : List Rng :=
  match mOf i, vSpecOf i with
  | some (op, c), _ => if (s.mBad op c).isSome then [] else s.mAcc op c (nestPoints (s.mNest c (s.tile.eng.mPending.any s.mGo)))
  | none, some _ => vAccOf i
  | none, none => s.xAcc i

/-- The capability registers that an M command waiting for a go had at its append (R218). -/
def State.goCaps (s : State) (i : Instr) : Option (Vector Cap 16) :=
  match mOf i with
  | some (_, c) => if c.g then some s.tile.caps else none
  | none => none

/-- A command has accesses in the path queue of its class (R176): to cluster or package memory, by its regions, or by the
capability registers and the nest of its append (log 130). Markers, circuit commands and x.pref have none there. -/
def State.pathOf (s : State) (i : Instr) : Bool :=
  let shared := (s.accOf i).any (fun r => decide (clusterBase < r.hi))
  match mOf i with
  | some (op, c) => (s.mBad op c).isNone && (shared || (op.sds c).any (fun n => (s.cap (s.sd n).cap).typ != 1))
  | none =>
    match i with
    | .xFence _ | .xSfence _ | .xCircRes _ | .xCircRel _ | .xPref _ => false
    | i => if (vSpecOf i).isSome then shared else true

/-- The record of the command at index n: made when its head word is there, completed when its last word
is, with the timestamp of that append. A word that the loader placed has PRED 0b0000 or is false (R215; log 14). -/
def State.recordAt (s : State) (eg : Eng) (ts : Nat) (n : W32) : State × Nat :=
  let w := s.ringWord eg n
  let c : Cmd := (s.tile.eng.cmd eg n).getD
    { eng := eg, idx := n, words := cmdWords eg w, ts := ts,
      predTrue := if ts < firstTs then cmdPred eg w == 0 else s.predField (cmdPred eg w), rngs := [], whole := false }
  if c.whole then (s, c.words)
  else if ((s.tile.eng.ring eg).wp - n).toNat < c.words then (s.keepCmd c, c.words)
  else
    match decodeEng eg (s.ringWords eg n c.words) with
    | .ok i =>
      let send := match i with
        | .xSend _ => true
        | _ => false
      let decls := s.tile.decls
      (s.keepCmd { c with whole := true, ts := ts, rngs := s.rngsOf n i, send := send, pos := s.tile.ord.seq,
                          decls := decls, uses := if decls.isEmpty then [] else bufUses decls (s.accOf i), atCaps := s.goCaps i, path := s.pathOf i }, c.words)
    | .error _ => (s.keepCmd { c with whole := true, ts := ts, pos := s.tile.ord.seq, decls := s.tile.decls }, c.words)

/-- Every command between n and WP recorded; `ts` gives the timestamp by index. -/
def State.recordFrom (s : State) (eg : Eng) (ts : W32 → Nat) : Nat → W32 → State
  | 0, _ => s
  | k + 1, n =>
    let left := ((s.tile.eng.ring eg).wp - n).toNat
    if left = 0 ∨ left ≥ 2 ^ 31 then s
    else
      let r := s.recordAt eg (ts n) n
      r.1.recordFrom eg ts k (n + BitVec.ofNat 32 r.2)

/-- The commands of a ring's pending words. -/
def State.record (s : State) (eg : Eng) (ts : W32 → Nat) : State :=
  let r := s.tile.eng.ring eg
  s.recordFrom eg ts (min r.used r.cap) r.rp

/-! ### Words that name an engine (R230) -/

/-- A word that names an engine whose ring must be there. -/
def State.ringWordOp (s : State) (h : Hdr) (e : Eng) (rs : List Reg) (cs : List CReg) (op : State → OpRes) : Host.Outcome State Fault Refusal :=
  s.coreWord h rs cs false (fun s => if (s.tile.eng.ring e).q = 0 then raiseF .illegalOpcode else op s)

/-- The words enq appends (R231). -/
def State.enqWords (s : State) (e : Eng) (a b : Reg) : List (List Byte) :=
  match e with
  | .x => [leBytes 8 (s.reg a).toNat ++ leBytes 8 (s.reg b).toNat]
  | _ => leBytes 8 (s.reg a).toNat :: (if b = 0 then [] else [leBytes 8 (s.reg b).toNat])

/-- Words written to a ring from WP on, and WP moved. -/
def State.append (s : State) (e : Eng) : List (List Byte) → State
  | [] => s
  | w :: ws =>
    let r := s.tile.eng.ring e
    let s := s.mapNear (fun n => n.writeN (r.addr e r.wp) w)
    (s.mapEng (fun g => g.setRing e { r with wp := r.wp + 1 })).append e ws

/-- enq (R231). -/
def execEnq (h : Hdr) (e : Eng) (a b : Reg) (s : State) : Host.Outcome State Fault Refusal :=
  s.ringWordOp h e [a, b] [] (fun s =>
    let r := s.tile.eng.ring e
    let ws := s.enqWords e a b
    let busy := (List.range ws.length).any (fun i =>
      let x := r.addr e (r.wp + BitVec.ofNat 32 i)
      s.nearBusy x (x + engWordSize e) true)
    if r.used + ws.length > r.cap ∨ busy then .hold s
    else
      let t := s.stamp.append e ws
      .done (t.record e (fun _ => t.tile.eng.ts)))

/-- A word of a descriptor written (R232, R223): read-only fields keep their values. -/
def Sd.put (d : Sd) (k : BitVec 3) (v : W64) (isSealed : Bool) : Sd :=
  match k.toNat with
  | 0 => { d with w := d.w.set 0 (v &&& ~~~(0x3FFF#64 <<< 40)), sealed_ := isSealed, keyed := false }
  | 2 => { d with w := d.w.set 2 (v &&& ~~~(0xFF#64 <<< 40)) }
  | 7 => d
  | _ => { d with w := d.w.set k.toFin v }

/-- A word of a descriptor read. -/
def Sd.get (d : Sd) (k : BitVec 3) : W64 :=
  if k = 0 then d.w[0] ||| ((BitVec.ofBool d.sealed_ ++ BitVec.ofBool d.keyed : BitVec 2).zeroExtend 64 <<< 52) else d.w[k.toFin]

def State.sdBusy (s : State) (n : BitVec 4) (wr : Bool) : Bool := s.nearBusy (sdRange n).1 (sdRange n).2 wr

/-- The capability type that a word 0 names is sealed. -/
def State.namesSealed (s : State) (v : W64) : Bool := (s.cap (v.extractLsb' 60 4)).isSealed

/-- sd.set (R232). -/
def execSdSet (h : Hdr) (k : BitVec 3) (n : BitVec 4) (b : Reg) (s : State) : Host.Outcome State Fault Refusal :=
  s.coreWord h [b] (if k = 0 then [(s.reg b).extractLsb' 60 4] else []) false (fun s =>
    if s.sdBusy n true then .hold s
    else .done (s.stamp.mapEng (fun e => { e with sds := e.sds.set n.toFin (e.sds[n.toFin].put k (s.reg b) (s.namesSealed (s.reg b))) })))

/-- sd.get (R232). -/
def execSdGet (h : Hdr) (k : BitVec 3) (n : BitVec 4) (b : Reg) (s : State) : Host.Outcome State Fault Refusal :=
  s.coreWord h [b] [] false (fun s =>
    if s.sdBusy n false then .hold s else .done (s.setReg b ((s.sd n).get k)))

/-- sem.sig (R233): the raise stands in SQ. -/
def execSemSig (h : Hdr) (n : BitVec 5) (s : State) : Host.Outcome State Fault Refusal :=
  s.plainWord h [] (fun s => (s.pushSq (.sem n)).nextSeq)

/-- sem.wait (R233, R216): every stream that waits has an earlier timestamp. -/
def execSemWait (h : Hdr) (n : BitVec 5) (s : State) : Host.Outcome State Fault Refusal :=
  s.coreWord h [] [] false (fun s =>
    if s.semFree (n.zeroExtend 6) none (s.tile.eng.ts + 1) then .done (s.setSem n.toNat (· - 1)) else .hold s)

/-- sem.get (R233). -/
def execSemGet (h : Hdr) (a : Reg) (n : BitVec 5) (s : State) : Host.Outcome State Fault Refusal :=
  s.plainWord h [a] (fun s => s.setReg a ((s.tile.eng.sems[n.toFin]).zeroExtend 64))

/-- seq.wait (R234). -/
def execSeqWait (h : Hdr) (e : Eng) (a : Reg) (s : State) : Host.Outcome State Fault Refusal :=
  s.ringWordOp h e [a] [] (fun s =>
    if (s.tile.eng.seqOf e - (s.reg a).extractLsb' 0 32).toNat < 2 ^ 31 then .done s else .hold s)

/-- seq.get (R234). -/
def execSeqGet (h : Hdr) (e : Eng) (a : Reg) (s : State) : Host.Outcome State Fault Refusal :=
  s.ringWordOp h e [a] [] (fun s => .done (s.setReg a ((s.tile.eng.seqOf e).zeroExtend 64)))

/-- cond.pop (R235). -/
def execCondPop (h : Hdr) (a : Reg) (s : State) : Host.Outcome State Fault Refusal :=
  s.coreWord h [a] [] false (fun s =>
    match s.tile.eng.condq with
    | [] => .hold s
    | w :: r => .done ((s.mapEng (fun e => { e with condq := r })).setReg a w))

/-- xfence (R236): a cross-path marker in LQ and SQ. -/
def execXfence (h : Hdr) (e : Eng) (s : State) : Host.Outcome State Fault Refusal :=
  s.ringWordOp h e [] [] (fun s =>
    let m : QOp := .xmark e (s.tile.eng.ts + 1)
    .done ((s.pushLq m).pushSq m).nextSeq)

/-! ### The matrix engine's words (R305 to R308) -/

/-- A level word of the shadow bank. -/
def Engs.setShadow (e : Engs) (lvl : Nat) (v : W64) : Engs :=
  let f (b : Vector W64 6) : Vector W64 6 := Vector.ofFn (fun i => if i.val = lvl then v &&& ~~~(0xFFFF#64 <<< 32) else b[i])
  if e.active then { e with bank0 := f e.bank0 } else { e with bank1 := f e.bank1 }

/-- mcfg (R305). -/
def execMcfg (h : Hdr) (lvl : BitVec 3) (b : Reg) (s : State) : Host.Outcome State Fault Refusal :=
  s.ringWordOp h .m [b] [] (fun s =>
    if lvl.toNat ≥ 6 then raiseF .illegalOpcode else .done (s.mapEng (fun e => e.setShadow lvl.toNat (s.reg b))))

/-- Every earlier M command has started or waits for GO with G = 1 (R306); one that stands behind such
a command waits for GO too when it has G = 1. -/
def State.goReady (s : State) : Bool :=
  match s.tile.eng.mPending with
  | [] => true
  | c :: r => (c.waited || (s.ringWord .m c.idx).extractLsb' 52 6 == 0x3F) && (c :: r).all s.mGo

/-- The swap of the banks (R225): a command that waits for GO latches the released bank, and its range
set is of that bank, with the capability registers of its append (R218). -/
def State.release (s : State) : State :=
  let s := s.mapEng (fun e => { e with active := !e.active, go := true })
  match s.tile.eng.mPending with
  | [] => s
  | c :: _ =>
    match decodeEng .m (s.ringWords .m c.idx 1) with
    | .ok i => match mOf i with
      | some (op, m) =>
        let t := s.updT (fun x => { x with caps := c.atCaps.getD x.caps })
        s.updCmd .m c.idx (fun d => { d with
          rngs := t.mRngs op m t.tile.eng.nest c.idx,
          uses := if c.decls.isEmpty then [] else bufUses c.decls (t.mAcc op m (nestPoints t.tile.eng.nest)), atCaps := none })
      | none => s
    | .error _ => s

/-- mgo (R306). -/
def execMgo (h : Hdr) (s : State) : Host.Outcome State Fault Refusal :=
  s.ringWordOp h .m [] [] (fun s => if s.tile.eng.go || !s.goReady then .hold s else .done s.release)

/-- The policy entry that names a capability, with its session (R454). -/
def Package.policy (p : Package) (c : Cap) (meas : List Byte) : Option (Session × Policy) :=
  p.sessions.findSome? (fun x => (x.policies.find? (fun e => e.valid && e.pol == c.pol && e.tenant == c.tenant && e.meas == meas)).map (fun e => (x, e)))

/-- A measured launch (R351). -/
def LaunchRec.measured (r : LaunchRec) : Bool := r.meas.any (fun b => b != 0)

/-- The tenant key of a policy entry; where WKEY does not unwrap, a free value (log 40). -/
def State.tenantKey (s : State) (x : Session) (e : Policy) : BitVec 256 :=
  match keyUnwrap (beBytes 32 x.kek.toNat) e.wkey with
  | some k => BitVec.ofNat 256 (beNat k)
  | none => Config.openWord s.fresh ++ Config.openWord (s.fresh + 1) ++ Config.openWord (s.fresh + 2) ++ Config.openWord (s.fresh + 3)

/-- mkey (R307, R351, R454). -/
def execMkey (h : Hdr) (n : BitVec 4) (s : State) : Host.Outcome State Fault Refusal :=
  s.ringWordOp h .m [] [(s.sd n).cap] (fun s =>
    if s.sdBusy n true then .hold s
    else
      let d := s.sd n
      let c := s.cap d.cap
      if !c.tag then raiseF .capTag
      else if !c.isSealed || !d.sealed_ then raiseF .capType
      else
        match (s.pkg.launch s.tile.handle).bind (fun l => if l.rc.measured then s.pkg.policy c l.rc.meas else none) with
        | none => raiseV .sealedPolicy (c.pol.zeroExtend 64)
        | some (x, e) =>
          match s.sealHdr c with
          | .error fi => .fault fi
          | .ok (t, hd) =>
            let bound : Sd := { d with keyed := true, objid := BitVec.ofNat 64 hd.objid, pol := c.pol, key := t.tenantKey x e }
            .done ({ t.stamp with fresh := t.fresh + 4 }.mapEng (fun g => { g with sds := g.sds.set n.toFin bound })))

/-- The status word of R308. -/
def Engs.mStatus (e : Engs) : W64 :=
  let pend := (e.cmds.filter (fun c => c.eng == .m && c.began && !c.done)).length
  (e.gated ++ (0 : BitVec 2) ++ BitVec.ofBool e.go ++ BitVec.ofBool e.active ++ BitVec.ofNat 8 pend : BitVec 16).zeroExtend 64

/-- mstat (R308). -/
def execMstat (h : Hdr) (a : Reg) (sel : BitVec 5) (s : State) : Host.Outcome State Fault Refusal :=
  s.ringWordOp h .m [a] [] (fun s =>
    match sel.toNat with
    | 0 => .done (s.setReg a s.tile.eng.mStatus)
    | 1 => .done (s.setReg a s.tile.eng.msteps)
    | 2 => .done (s.setReg a s.tile.eng.mwakes)
    | _ => raiseF .illegalOpcode)

end Sys2Proof.Machine
end

