-- ==== Sys2Proof/Machine/SysReg.lean ====
section
/-! DEFINITION. The special registers (R21 to R24, R81, R82 and the tables that extend R21): access,
reading, writing, and the restart of a stopped stream (R335). -/

namespace Sys2Proof.Machine

/-! ### Access (R22) -/

/-- A column of the register tables. -/
inductive RegAcc where | none | read | write
deriving DecidableEq, Repr, Inhabited

/-- U access, and K and F access, of an assigned register. -/
def regAccess (n : Nat) : Option (RegAcc × RegAcc) :=
  if n ∈ [0x000, 0x004, 0x005, 0x006, 0x020, 0x03B, 0x061] then some (.write, .write)
  else if n ∈ [0x001, 0x002, 0x003, 0x007, 0x008, 0x01A, 0x01B, 0x01C, 0x030, 0x031, 0x032, 0x034, 0x035, 0x036, 0x038, 0x039, 0x03A, 0x03D, 0x03E, 0x055, 0x060, 0x062, 0x063]
      ∨ (0x040 ≤ n ∧ n ≤ 0x047) then some (.read, .write)
  else if n ∈ [0x00F, 0x01E, 0x03C, 0x03F, 0x056, 0x058, 0x059] ∨ (0x010 ≤ n ∧ n ≤ 0x019) then some (.read, .read)
  else if n ∈ [0x050, 0x051, 0x052, 0x053, 0x054, 0x057] then some (.none, .write)
  else if n ∈ [0x01D, 0x05A] then some (.none, .read)
  else none

/-- The access a level has. -/
def accessAt (l : Level) (a : RegAcc × RegAcc) : RegAcc := if l = .u then a.1 else a.2

/-! ### Reading (R81) -/

/-- The ring register RB (R211). -/
def Ring.word (r : Ring) : W64 := (r.q.zeroExtend 64 <<< 60) ||| r.base.zeroExtend 64

/-- ECTL reads 1 for a stream that a fault has stopped (R335). -/
def Engs.ectl (e : Engs) : W64 :=
  (BitVec.ofBool e.stopX.isSome ++ BitVec.ofBool e.stopM.isSome ++ BitVec.ofBool e.stopV.isSome ++ 0#1 : BitVec 4).zeroExtend 64

/-- What V commands that have performed and not completed have moved of a count of conditional stream q (R287). -/
def Engs.sqMoved (e : Engs) (q : Fin 4) (pop : Bool) : W32 :=
  (e.cmds.filter (fun c => !c.done)).foldl (fun a c => match c.sq with
    | some (r, p, n) => if r = q ∧ p = pop then a + n else a
    | none => a) 0

/-- SQIN and SQOUT as the completed V commands left them. -/
def State.sqShown (s : State) (q : Fin 4) (pop : Bool) : W64 :=
  ((if pop then s.tile.sys.sqout[q] else s.tile.sys.sqin[q]) - s.tile.eng.sqMoved q pop).zeroExtend 64

/-- SQIN or SQOUT written: a gsr then reads the value. -/
def State.putSq (s : State) (q : Fin 4) (pop : Bool) (v : W32) : State :=
  let v := v + s.tile.eng.sqMoved q pop
  s.mapSys (fun y => if pop then { y with sqout := y.sqout.set q v } else { y with sqin := y.sqin.set q v })

/-- The value of an assigned special register. -/
def State.special (s : State) (n : Nat) : W64 :=
  let c := s.tile.core
  let q := s.tile.par
  let y := s.tile.sys
  let e := s.tile.eng
  match n with
  | 0x000 => c.fcsr | 0x001 => c.cause | 0x002 => c.epc | 0x003 => c.eval
  | 0x004 => c.exh | 0x005 => c.lc | 0x006 => c.ssp | 0x007 => c.ssbase | 0x008 => c.sslim
  | 0x00F => s.time
  | 0x010 => q.tile | 0x011 => q.clus | 0x012 => BitVec.ofNat 64 s.pkg.num | 0x013 => q.stage
  | 0x014 => q.ntile | 0x015 => q.nclus | 0x016 => q.nstage | 0x017 => q.task | 0x018 => q.launch | 0x019 => q.seed
  | 0x01A => q.estN | 0x01B => q.estMean | 0x01C => q.estM2
  | 0x01D => BitVec.ofNat 64 s.tile.phys
  | 0x01E => q.itempos
  | 0x020 => y.mwto
  | 0x030 => e.ringV.rp.zeroExtend 64 | 0x031 => e.ringV.wp.zeroExtend 64 | 0x032 => e.ringV.word
  | 0x034 => e.ringM.rp.zeroExtend 64 | 0x035 => e.ringM.wp.zeroExtend 64 | 0x036 => e.ringM.word
  | 0x038 => e.ringX.rp.zeroExtend 64 | 0x039 => e.ringX.wp.zeroExtend 64 | 0x03A => e.ringX.word
  | 0x03B => y.msat
  | 0x03C => 48
  | 0x03D => y.midle | 0x03E => y.efault
  | 0x03F => BitVec.ofNat 64 e.condq.length
  | 0x040 => s.sqShown 0 false | 0x041 => s.sqShown 1 false | 0x042 => s.sqShown 2 false | 0x043 => s.sqShown 3 false
  | 0x044 => s.sqShown 0 true | 0x045 => s.sqShown 1 true | 0x046 => s.sqShown 2 true | 0x047 => s.sqShown 3 true
  | 0x050 => y.kvec | 0x051 => y.kpc | 0x052 => y.kstat | 0x053 => y.kscr | 0x054 => y.ptb | 0x055 => y.asid
  | 0x056 => y.wdlim
  | 0x057 => e.ectl
  | 0x058 => y.dbgctl &&& ~~~4
  | 0x059 => y.abcnt | 0x05A => y.kmsg
  | 0x060 => y.ptok | 0x061 => y.pkeyb | 0x062 => y.pkseq | 0x063 => y.cto
  | _ => 0

/-- The estimator's moments, which R290 orders. -/
def isEst (n : Nat) : Bool := decide (0x01A ≤ n ∧ n ≤ 0x01C)

/-- gsr (R81). -/
def execGsr (h : Hdr) (d : Reg) (spec : BitVec 12) (s : State) : Host.Outcome State Fault Refusal :=
  s.coreWord h [d] [] false (fun s =>
    match regAccess spec.toNat with
    | none => raiseF .illegalOpcode
    | some a =>
      if accessAt s.tile.core.level a = .none then raiseF .privilege
      else if isEst spec.toNat && s.nearBusy estRange.1 estRange.2 false then .hold s
      else .done (s.setReg d (s.special spec.toNat)))

/-! ### Restart of a stream (R335) -/

/-- A stopped stream starts again at its stop position; the commands of X that faulted after they had
started run again. -/
def State.restart (s : State) (eg : Eng) : State :=
  if (s.tile.eng.stop eg).isNone then s
  else
    s.mapEng (fun e =>
      let again (c : Cmd) : Bool := decide (c.eng = .x) && c.started && !c.performed && e.faults.any (fun f => f.eng == .x && f.idx == c.idx)
      { (e.setStop eg none) with
        faults := e.faults.filter (fun f => f.eng != eg),
        cmds := if eg = .x then e.cmds.map (fun c => if again c then { c with left := 0, caps := none } else c) else e.cmds })

/-- ENGINE_STREAM_RESTART: a 1 written to the ECTL bit of stream `eng`. -/
def execEngineStreamRestart (s : State) : Host.Outcome State Fault Refusal := .next (s.restart s.arg.eng)

/-! ### Writing (R82) -/

/-- A pointer or ring register of a stream written: the records of commands that no longer stand between
RP and WP go, and the words that now do are recorded. -/
def State.setRingReg (s : State) (eg : Eng) (f : Ring → Ring) : State :=
  let r := f (s.tile.eng.ring eg)
  let s := s.stamp.mapEng (fun e => { (e.setRing eg r) with
    cmds := e.cmds.filter (fun c => !(c.eng == eg && !c.started && decide ((c.idx - r.rp).toNat ≥ r.used))) })
  if r.q = 0 then s else s.record eg (fun _ => s.tile.eng.ts)

/-- The nearer bound. -/
def clampW (lo hi : Nat) (v : W64) : W64 := BitVec.ofNat 64 (max lo (min hi v.toNat))

/-- A writable register written with a value that R82 lets through. -/
def State.setSpecial (s : State) (n : Nat) (a : W64) : State :=
  let lo32 : W32 := a.extractLsb' 0 32
  match n with
  | 0x000 => s.mapCore (fun c => { c with fcsr := a &&& 0x31F })
  | 0x001 => s.mapCore (fun c => { c with cause := a &&& 0xFF })
  | 0x002 => s.mapCore (fun c => { c with epc := a })
  | 0x003 => s.mapCore (fun c => { c with eval := a })
  | 0x004 => s.mapCore (fun c => { c with exh := a })
  | 0x005 => s.mapCore (fun c => { c with lc := a })
  | 0x006 => s.mapCore (fun c => { c with ssp := a })
  | 0x007 => s.mapCore (fun c => { c with ssbase := a &&& ~~~7 })
  | 0x008 => s.mapCore (fun c => { c with sslim := a &&& ~~~7 })
  | 0x01A => s.mapPar (fun q => { q with estN := a })
  | 0x01B => s.mapPar (fun q => { q with estMean := a })
  | 0x01C => s.mapPar (fun q => { q with estM2 := a })
  | 0x020 => s.mapSys (fun y => { y with mwto := a })
  | 0x030 => s.setRingReg .v (fun r => { r with rp := lo32 })
  | 0x031 => s.setRingReg .v (fun r => { r with wp := lo32 })
  | 0x032 => s.setRingReg .v (fun r => { r with q := a.extractLsb' 60 4, base := a.extractLsb' 0 25 })
  | 0x034 => s.setRingReg .m (fun r => { r with rp := lo32 })
  | 0x035 => s.setRingReg .m (fun r => { r with wp := lo32 })
  | 0x036 => s.setRingReg .m (fun r => { r with q := a.extractLsb' 60 4, base := a.extractLsb' 0 25 })
  | 0x038 => s.setRingReg .x (fun r => { r with rp := lo32 })
  | 0x039 => s.setRingReg .x (fun r => { r with wp := lo32 })
  | 0x03A => s.setRingReg .x (fun r => { r with q := a.extractLsb' 60 4, base := a.extractLsb' 0 25 })
  | 0x03B => s.mapSys (fun y => { y with msat := a &&& 1 })
  | 0x03D => s.mapSys (fun y => { y with midle := if a = 0 then 0 else clampW 64 65536 a })
  | 0x03E => s.mapSys (fun y => { y with efault := a &&& 0xC0000000FFFFFFFF })
  | 0x040 => s.putSq 0 false lo32
  | 0x041 => s.putSq 1 false lo32
  | 0x042 => s.putSq 2 false lo32
  | 0x043 => s.putSq 3 false lo32
  | 0x044 => s.putSq 0 true lo32
  | 0x045 => s.putSq 1 true lo32
  | 0x046 => s.putSq 2 true lo32
  | 0x047 => s.putSq 3 true lo32
  | 0x050 => s.mapSys (fun y => { y with kvec := a })
  | 0x051 => s.mapSys (fun y => { y with kpc := a })
  | 0x052 => s.mapSys (fun y => { y with kstat := a &&& 0xFF })
  | 0x053 => s.mapSys (fun y => { y with kscr := a })
  | 0x054 => s.mapSys (fun y => { y with ptb := a })
  | 0x055 => s.mapSys (fun y => { y with asid := a &&& 0xFFFF })
  | 0x057 =>
    let go (s : State) (i : Nat) (e : Eng) : State := if a.getLsbD i then s.restart e else s
    go (go (go s 1 .v) 2 .m) 3 .x
  | 0x060 => s.mapSys (fun y => { y with ptok := a })
  | 0x061 => s.mapSys (fun y => { y with pkeyb := a })
  | 0x062 => s.mapSys (fun y => { y with pkseq := a })
  | 0x063 => s.mapSys (fun y => { y with cto := clampW 100000 10000000000 a })
  | _ => s

/-- The checks of R82 on the value. -/
def State.specialBad (s : State) (n : Nat) (a : W64) : Option FaultInfo :=
  if (n = 0x004 ∨ n = 0x006) ∧ a &&& 7 ≠ 0 then some { code := .misaligned, eval := some a }
  else if n = 0x006 ∧ (a.toNat < s.tile.core.ssbase.toNat ∨ s.tile.core.sslim.toNat < a.toNat) then some { code := .stackLimit, eval := some 2 }
  else none

/-- ssr (R82). -/
def execSsr (h : Hdr) (a : Reg) (spec : BitVec 12) (s : State) : Host.Outcome State Fault Refusal :=
  s.coreWord h [a] [] false (fun s =>
    match regAccess spec.toNat with
    | none => raiseF .illegalOpcode
    | some acc =>
      if acc.2 ≠ .write then raiseF .illegalOpcode
      else if accessAt s.tile.core.level acc ≠ .write then raiseF .privilege
      else
        match s.specialBad spec.toNat (s.reg a) with
        | some fi => .fault fi
        | none =>
          if isEst spec.toNat && s.nearBusy estRange.1 estRange.2 true then .hold s
          else .done (s.setSpecial spec.toNat (s.reg a)))

end Sys2Proof.Machine
end

