-- ==== Sys2Proof/Machine/Save.lean ====
section
/-! DEFINITION. The context area of a tile (R346) and what is written to it and read from it by ctx.save,
ctx.load and the two procedures of pre-emption (R342 to R344). Where R346 gives a field a place and no
inner form, the form is the model's (log 41). -/

namespace Sys2Proof.Machine

/-! ### Ranges of memory -/

def areaSize : Nat := 0x370000

/-- What a tile's near space holds in a range, scrub-pending lines left out. -/
def Near.cells (n : Near) (lo hi : Nat) : List Host.Cell := (Overlay.within n.mem lo hi).filter (fun c => !inRanges n.scrub c.1)

def Near.granules (n : Near) (lo hi : Nat) : List Nat := n.tags.filter (fun g => decide (lo ≤ 32 * g) && decide (32 * g < hi) && !inRanges n.scrub (32 * g))

/-- A range of the near space replaced. -/
def Near.putRange (n : Near) (lo hi : Nat) (cells : List Host.Cell) (gs : List Nat) : Near :=
  { n with mem := cells.foldl (fun m c => Memory.write m c.1 c.2) (Overlay.without n.mem lo hi),
           scrub := cutRanges n.scrub lo hi,
           tags := gs.foldl setInsert (n.tags.filter (fun g => !(decide (lo ≤ 32 * g) && decide (32 * g < hi)))) }


/-- A range of package memory written by a non-snooping agent, with its tags (R141). -/
def State.putRange (s : State) (lo hi : Nat) (cells : List Host.Cell) (gs : List Nat) : State :=
  let s := (s.heldLines lo hi).foldl State.recall s
  let s := s.updP (fun p => { p.dropL2 lo hi with
    mem := cells.foldl (fun m c => Memory.write m c.1 c.2) (Overlay.without p.mem lo hi),
    scrub := cutRanges p.scrub lo hi,
    tags := gs.foldl setInsert (p.tags.filter (fun g => !(decide (lo ≤ 32 * g) && decide (32 * g < hi)))) })
  s.wake true (fun l => match l with
    | .pkgMem pa _ => decide (lo ≤ pa + 63) && decide (pa < hi)
    | _ => false)

/-- What package memory holds at its homes in a range. -/
def Package.cells (p : Package) (lo hi : Nat) : List Host.Cell :=
  let atop (m : List Host.Cell) (x : Overlay) : List Host.Cell := (Overlay.within x lo hi).foldl (fun m c => Cells.set m c.1 c.2) m
  let m := atop (atop (Overlay.within p.mem lo hi) p.l2kept) p.l2
  m.filter (fun c => !inRanges p.scrub c.1)

def Package.granules (p : Package) (lo hi : Nat) : List Nat := p.tags.filter (fun g => decide (lo ≤ 32 * g) && decide (32 * g < hi) && !inRanges p.scrub (32 * g))

/-- Numbers moved with their range. -/
def shiftGs (gs : List Nat) (lo base : Nat) : List Nat := gs.map (fun g => (32 * g - lo + base) / 32)

/-- The parts of the near space that an area holds: near base, length, offset in the area (R346). -/
def areaParts : List (Nat × Nat × Nat) :=
  [(0, 0x200000, 0x10000), (laneBase, 0x20000, 0x210000), (accBase, 0x30000, 0x230000), (clusterBase, 0x100000, 0x260000)]

/-- The near space that belongs to a tile (R143). -/
def nearParts : List (Nat × Nat) := areaParts.map (fun x => (x.1, x.1 + x.2.1))

/-! ### The state block -/

/-- The first command of an engine that its records name, or RP. -/
def Engs.firstIdx (e : Engs) (eg : Eng) : W32 := ((e.cmds.find? (fun c => c.eng == eg)).map (·.idx)).getD (e.ring eg).rp


/-- One byte of the timestamp ranks: engine, predicate, wait satisfied, placed by the loader, begun, started,
completed. -/
def rankByte (c : Cmd) : Byte :=
  BitVec.ofBool c.done ++ BitVec.ofBool c.started ++ BitVec.ofBool c.began ++ BitVec.ofBool (decide (c.ts < firstTs))
    ++ BitVec.ofBool c.waited ++ BitVec.ofBool c.predTrue ++ engCode c.eng

/-- A stop position. -/
def stopWord : Option W32 → W64
  | some i => (1#64 <<< 63) ||| i.zeroExtend 64
  | none => 0

/-- The four dwords of a ring: RB, RP and WP, S, the stop position. A stop whose fault is not delivered is
not saved: the command faults again. -/
def Engs.ringWords (e : Engs) (eg : Eng) : List W64 :=
  let r := e.ring eg
  [r.word, (r.wp ++ r.rp : BitVec 64), (e.seqOf eg).zeroExtend 64,
   stopWord (if e.faults.any (fun f => f.eng == eg) then none else e.stop eg)]

/-- The latched loop nest of an M command that has begun. -/
def Engs.latched (e : Engs) : Option (List W64) :=
  (e.cmds.find? (fun c => c.eng == .m && c.began && !c.performed)).map (fun c => c.raw.map (fun w => w.extractLsb' 0 64))

/-- The field at 0x0C80. -/
def Engs.ringField (e : Engs) : List W64 :=
  let pend := (e.cmds.find? (fun c => c.eng == .x && c.started && !c.performed && !c.done)).map (·.idx)
  e.ringWords .v ++ e.ringWords .m ++ e.ringWords .x
    ++ [BitVec.ofNat 64 e.mPoint, (BitVec.ofNat 32 e.cmds.length ++ (0#31) ++ BitVec.ofBool e.latched.isSome : BitVec 64)]
    ++ (e.latched.getD (List.replicate 6 0)) ++ [e.msteps, e.mwakes]
    ++ [(e.firstIdx .v).zeroExtend 64, (e.firstIdx .m).zeroExtend 64, (e.firstIdx .x).zeroExtend 64, stopWord pend,
        BitVec.ofNat 64 (((e.cmds.find? (fun c => c.eng == .v && c.started && !c.performed && !c.done)).map (·.left)).getD 0)]

/-- A deferred atomic (R346). -/
def Deferred.word (d : Deferred) : List W64 := [(1#64 <<< 63) ||| d.fn.zeroExtend 64, d.addr, d.opnd, 0]

/-- KSTAT.ARR of the tile's interrupted barrier word. -/
def Tile.arr (t : Tile) : Bool :=
  t.ord.bar.counted

/-- The dwords at 0x0118. -/
def Tile.miscWords (t : Tile) : List W64 :=
  let c := t.core
  let y := t.sys
  [c.lc, c.ssp, c.ssbase, c.sslim, c.exh, c.fcsr, c.cause, c.epc, c.eval, y.mwto, y.msat, t.par.estN, t.par.estMean, t.par.estM2, t.par.itempos]
    ++ y.sqin.toList.map (·.zeroExtend 64) ++ y.sqout.toList.map (·.zeroExtend 64) ++ [y.abcnt, y.midle]

/-- The state block (R346): `pc` the PC at resume, `arr` the bit ARR, `form` 0 or 1, `safeIx` the index of the
safe-table entry. -/
def Tile.stateBlock (t : Tile) (pc : W64) (arr : Bool) (form safeIx : Nat) : List Byte :=
  let y := t.sys
  let e := t.eng
  let hdr : W64 := BitVec.ofNat 64 (1 + form * 2 ^ 16 + t.par.tile.toNat % 16 * 2 ^ 24 + t.par.clus.toNat % 16 * 2 ^ 28 + safeIx % 2 ^ 16 * 2 ^ 32)
  let preds := (List.range 8).foldl (fun a i => a + (if t.core.p.toList.getD i false then 2 ^ i else 0)) 0
  let flags : W64 := BitVec.ofNat 64 (preds + (if arr then 0x100 else 0) + (if y.dbgctl.getLsbD 0 then 0x200 else 0))
  let tags := (List.range 16).foldl (fun a i => a + (if (t.caps.toList.getD i {}).tag then 2 ^ i else 0)) 0
  padTo 0x118 (dwords ([hdr, pc] ++ t.core.s.toList ++ [flags]))
    ++ padTo 0xE8 (dwords t.miscWords)
    ++ padTo 0x280 (t.caps.toList.flatMap Cap.toBytes ++ leBytes 16 tags)
    ++ padTo 0x400 (e.sds.toList.flatMap (fun d => dwords ((List.range 8).map (fun k => if k = 0 then d.get 0 &&& ~~~(1#64 <<< 52) else d.get (BitVec.ofNat 3 k)))))
    ++ padTo 0x100 (e.sds.toList.flatMap (fun d => if d.keyed then dwords [(1#64 <<< 63) ||| d.objid, d.pol.zeroExtend 64] else dwords [0, 0]))
    ++ padTo 0x80 (dwords (e.bank0.toList ++ e.bank1.toList ++ [(BitVec.ofBool e.active ++ BitVec.ofBool e.go : BitVec 2).zeroExtend 64]))
    ++ padTo 0x40 (e.sems.toList.flatMap (fun x => leBytes 2 x.toNat))
    ++ padTo 0x40 (dwords ((List.range 4).map (fun i => e.condq.getD i 0) ++ [BitVec.ofNat 64 e.condq.length]))
    ++ padTo 0x200 (dwords (t.bufs.toList.map Buf.word))
    ++ padTo 0x180 (dwords e.ringField)
    ++ padTo 0x400 (e.byRank.map rankByte)
    ++ padTo 0x100 (dwords [y.ptok, y.pkeyb, y.pkseq, y.cto, y.efault, e.ectl, y.kstat, y.kpc, y.kscr, y.kvec, y.ptb, y.asid])
    ++ padTo 0x2000 (t.task.deferred.flatMap (fun d => dwords d.word))

/-- The first 1024 lines of the commit buffer, in order (R161, R346). -/
def TaskCtx.commitLines (t : TaskCtx) : List Byte := (t.lines.take 1024).flatMap t.lineNow

/-- The held stores with their bytes as the saved lines have them; the tile keeps which bytes of which lines they are (log 41). -/
def TaskCtx.ofLines (t : TaskCtx) (bs : List Byte) : TaskCtx :=
  { t with held := t.held.map (fun h =>
      match t.lines.findIdx? (· == h.addr.toNat / 64) with
      | some k => if k < 1024 then { h with bytes := (bs.drop (64 * k + h.addr.toNat % 64)).take h.bytes.length } else h
      | none => h) }

/-! ### Writing an area -/

/-- The near parts of an area that `ranges` of near addresses name: near base, end, place in the area. -/
def areaPieces (area : Nat) (ranges : List (Nat × Nat)) : List (Nat × Nat × Nat) :=
  areaParts.flatMap (fun x => ranges.filterMap (fun r =>
    let lo := max x.1 r.1
    let hi := min (x.1 + x.2.1) r.2
    if lo < hi then some (lo, hi, area + x.2.2 + (lo - x.1)) else none))

/-- One of them as the tile in focus holds it: its bytes and its tagged granules. -/
def State.pieceCells (s : State) (x : Nat × Nat × Nat) : List Host.Cell × List Nat :=
  (shiftCells (s.tile.near.cells x.1 x.2.1) x.1 x.2.1 x.2.2, shiftGs (s.tile.near.granules x.1 x.2.1) x.1 x.2.2)

/-- All of the near space that an area holds. -/
def wholeNear : List (Nat × Nat) := [(0, 2 * clusterBase)]

/-- The area of the tile in focus written (R342 step 4, R344, R368): the whole of it in FORM 0, the state block and the named
parts in FORM 1 (R346). -/
def State.writeArea (s : State) (area : Nat) (t : Tile) (pc : W64) (arr : Bool) (form safeIx : Nat) (ranges : List (Nat × Nat)) : State :=
  let block := (t.stateBlock pc arr form safeIx).mapIdx (fun i b => (area + i, b))
  let caps := (List.range 16).filterMap (fun i => if (t.caps.toList.getD i {}).tag then some ((area + 0x200 + 32 * i) / 32) else none)
  let pieces := (areaPieces area ranges).map (fun x => (x, s.pieceCells x))
  if form = 0 then
    let lines := t.task.commitLines.mapIdx (fun i b => (area + 0x360000 + i, b))
    s.putRange area (area + areaSize) (block ++ pieces.flatMap (·.2.1) ++ lines) (caps ++ pieces.flatMap (·.2.2))
  else
    pieces.foldl (fun s x => s.putRange x.1.2.2 (x.1.2.2 + (x.1.2.1 - x.1.1)) x.2.1 x.2.2) (s.putRange area (area + 0x10000) block caps)

/-! ### The safe table (R345) -/

/-- Bytes at a package virtual address under a table, through a walk and no TLB: home values, and zero in a frame that is
still to be marked scrub-pending (R143, R356). None where a byte does not translate for the access. -/
def Package.readVirt (p : Package) (ptb : W64) (x : XAcc) (va : W64) : Nat → Option (List Byte)
  | 0 => some []
  | n + 1 =>
    match p.walk ptb va x.num with
    | .error _ => none
    | .ok l =>
      match p.checkLeaf l.pte va l.big x with
      | .error _ => none
      | .ok (pa, _) => (p.readVirt ptb x (va + 1) n).map ((if pteScrub l.pte then 0 else p.home pa) :: ·)

/-- An entry of a section's safe table: WORD, LIVE, and the near ranges of SCR and CLU. -/
structure SafeEntry where
  word : W64
  live : W64
  ranges : List (Nat × Nat)
deriving DecidableEq, Repr, Inhabited

/-- The range a SCR or CLU dword names, from a base. -/
def safeRange (base : Nat) (w : W64) : List (Nat × Nat) :=
  let lo := base + (w.extractLsb' 0 25).toNat
  let n := (w.extractLsb' 32 25).toNat
  if n = 0 then [] else [(lo, lo + n)]

/-- Entry i of the safe table, which ends the control section of a launch. -/
def Package.safeEntry (p : Package) (l : Launch) (i : Nat) : Option SafeEntry :=
  if i ≥ l.img.nsafe then none
  else (p.readVirt l.ptb .ex (l.rc.code + BitVec.ofNat 64 (l.img.codeLen - 32 * (l.img.nsafe - i))) 32).map (fun bs =>
    ⟨dword bs 0, dword bs 8, safeRange 0 (dword bs 16) ++ safeRange clusterBase (dword bs 24)⟩)

/-- The entry for a word's address, with its index. -/
def Package.safeAt (p : Package) (l : Launch) (pc : W64) : Option (Nat × SafeEntry) :=
  (List.range l.img.nsafe).findSome? (fun i => (p.safeEntry l i).bind (fun e => if e.word = pc - l.rc.code then some (i, e) else none))

/-! ### Settling (R343) -/

/-- Started commands have all completed, but M commands between steps, a v.cmp that waits to push, X commands that wait
before their first access, and those that a fault has stopped. -/
def Engs.settled (e : Engs) : Bool :=
  e.cmds.all (fun c => !c.started || c.done
    || (!c.performed && c.writes.isEmpty && (c.eng == .m || c.eng == .v || e.faults.any (fun f => f.eng == c.eng && f.idx == c.idx) || (c.eng == .x && c.left == 0 && c.move.isNone))))

/-- Nothing of the control core is under way. -/
def State.coreQuiet (s : State) : Bool :=
  s.tile.ord.lq.isEmpty && s.tile.ord.sq.isEmpty && !s.pkg.chans.any (fun c => c.src == s.tile.phys)
    && !s.pkg.poolCh.any (fun m => m.src == s.tile.phys && m.byWord)

/-! ### Reading an area -/

def dwordsAt (bs : List Byte) (o n : Nat) : List W64 := (List.range n).map (fun i => dword bs (o + 8 * i))

def vecOf (n : Nat) (xs : List W64) : Vector W64 n := Vector.ofFn (fun i => xs.getD i.val 0)

/-- Buffers that a begun command has taken, told again from its accesses. -/
def Tile.takenBufs (t : Tile) (acc : List Rng) : List (BitVec 6) × List (BitVec 6) :=
  let u := bufUses t.decls acc
  ((u.filter (fun x => x.2.2)).map (fun x => BitVec.ofNat 6 x.1), (u.filter (fun x => !x.2.2)).map (fun x => BitVec.ofNat 6 x.1))

/-- A command's record as the rank byte describes it. -/
def State.restoreCmd (s : State) (c : Cmd) (b : Byte) (k : Nat) (latched : List W64) (pushed : Nat) : Cmd :=
  let c := { c with ts := if b.getLsbD 4 then k else firstTs + k, predTrue := b.getLsbD 2, waited := b.getLsbD 3, began := b.getLsbD 5,
                    started := b.getLsbD 6, done := b.getLsbD 7, performed := b.getLsbD 7 }
  if c.done || !(c.began || c.started) then c
  else
    match c.eng, decodeEng c.eng (s.ringWords c.eng c.idx c.words) with
    | .m, .ok i =>
      match mOf i with
      | some (op, m) =>
        let u := s.tile.takenBufs (s.mAcc op m ((nestPoints latched).take s.tile.eng.mPoint))
        { c with raw := latched.map (fun w => w.zeroExtend 128), semr := m.semr, sds := op.sds m, prod := u.1, cons := u.2, rngs := s.mRngs op m latched c.idx }
      | none => c
    | .x, .ok i =>
      let u := s.tile.takenBufs (s.xAcc i)
      let ws := s.ringWords .x c.idx c.words
      { c with raw := ws, semr := (ws.headD 0).extractLsb' 108 6, prod := u.1, cons := u.2 }
    | .x, .error _ => { c with raw := s.ringWords .x c.idx c.words }
    | .v, .ok i =>
      -- a v.cmp that has pushed some of its words reads its sources again (log 128)
      let u := s.tile.takenBufs (vAccOf i)
      let ws := s.ringWords .v c.idx c.words
      { c with raw := ws, semr := (ws.headD 0).extractLsb' 44 6, prod := u.1, cons := u.2, left := pushed }
    | _, _ => c

/-- The commands' records of a restored tile, from the rank bytes; `next` is the next command of each engine. -/
def State.restoreCmds (s : State) (latched : List W64) (pushed : Nat) : Nat → List Byte → (Eng → W32) → State
  | _, [], _ => s
  | k, b :: r, next =>
    let eg : Eng := match (b.extractLsb' 0 2).toNat with
      | 1 => .v | 2 => .m | _ => .x
    match s.tile.eng.cmd eg (next eg) with
    | none => s.restoreCmds latched pushed (k + 1) r next
    | some c =>
      (s.updCmd eg c.idx (fun x => s.restoreCmd x b k latched pushed)).restoreCmds latched pushed (k + 1) r
        (fun e => if e = eg then next e + BitVec.ofNat 32 c.words else next e)

/-- A key binding made again (R343, R369). -/
def State.rebind (s : State) (n : Nat) (obj pol : W64) : Try State :=
  let refuse : Try State := .error { code := .sealedPolicy, eval := some pol }
  let sd : BitVec 4 := BitVec.ofNat 4 n
  if !obj.getLsbD 63 then .ok s
  else
    let c := s.cap (s.sd sd).cap
    if !c.tag || !c.isSealed || c.pol.zeroExtend 64 != pol then refuse
    else
      match (s.pkg.launch s.tile.handle).bind (fun l => if l.rc.measured then s.pkg.policy c l.rc.meas else none), s.sealHdr c with
      | some (x, e), .ok (t, hd) =>
        if BitVec.ofNat 64 hd.objid != obj &&& ~~~(1#64 <<< 63) then refuse
        else
          let d := t.sd sd
          let bound : Sd := { d with keyed := true, objid := BitVec.ofNat 64 hd.objid, pol := c.pol, key := t.tenantKey x e }
          .ok ({ t with fresh := t.fresh + 4 }.mapEng (fun g => { g with sds := g.sds.set sd.toFin bound }))
      | _, _ => refuse

def State.rebinds (s : State) (bs : List Byte) : List Nat → Try State
  | [] => .ok s
  | n :: r =>
    match s.rebind n (dword bs (0x880 + 16 * n)) (dword bs (0x888 + 16 * n)) with
    | .error fi => .error fi
    | .ok t => t.rebinds bs r

/-- A buffer entry from its word. -/
def Buf.ofWord (w : W64) : Buf := { st := bufStOf (w.extractLsb' 62 2), v := w.getLsbD 61, len := w.extractLsb' 16 16, base := w.extractLsb' 0 15 }

/-- A stream's ring, counts and stop position from its four dwords. -/
def Engs.setRingWords (e : Engs) (eg : Eng) (ws : List W64) : Engs :=
  let r : Ring := { q := (ws.getD 0 0).extractLsb' 60 4, base := (ws.getD 0 0).extractLsb' 0 25,
                    rp := (ws.getD 1 0).extractLsb' 0 32, wp := (ws.getD 1 0).extractLsb' 32 32 }
  let st := ws.getD 3 0
  ((e.setRing eg r).setSeq eg ((ws.getD 2 0).extractLsb' 0 32)).setStop eg (if st.getLsbD 63 then some (st.extractLsb' 0 32) else none)

/-- The registers of a state block; reserved bits read as zero whatever the area holds (R23, R24, R330), and so do s0 and, but
in an ESTIMATING launch, ITEMPOS (R18, R122). KSTAT, KPC and the level are the caller's. -/
def Tile.loadBlock (t : Tile) (bs : List Byte) : Tile :=
  let m := dwordsAt bs 0x118 25
  let y := dwordsAt bs 0x1200 12
  let f := dwordsAt bs 0xC80 26
  let flags := dword bs 0x110
  let g (i : Nat) : W64 := m.getD i 0
  let z (i : Nat) : W64 := y.getD i 0
  let k := dwordsAt bs 0x980 13
  let eng := { t.eng with
    sds := Vector.ofFn (fun i => { w := vecOf 8 ((dwordsAt bs (0x480 + 64 * i.val) 8).mapIdx (fun j w => if j = 0 then w &&& ~~~(0x3FFF#64 <<< 40) else w)),
                                   sealed_ := (dword bs (0x480 + 64 * i.val)).getLsbD 53 }),
    bank0 := vecOf 6 (k.take 6), bank1 := vecOf 6 ((k.drop 6).take 6), go := (k.getD 12 0).getLsbD 0, active := (k.getD 12 0).getLsbD 1,
    sems := Vector.ofFn (fun i => BitVec.ofNat 16 (leNat ((bs.drop (0xA00 + 2 * i.val)).take 2))),
    condq := (dwordsAt bs 0xA40 4).take (dword bs 0xA60).toNat,
    mPoint := (f.getD 12 0).toNat, msteps := f.getD 20 0, mwakes := f.getD 21 0, faults := [], cmds := [] }
  let eng := ((eng.setRingWords .v (f.take 4)).setRingWords .m ((f.drop 4).take 4)).setRingWords .x ((f.drop 8).take 4)
  { t with
    core := { t.core with
      s := (vecOf 32 (dwordsAt bs 0x10 32)).set 0 0, p := Vector.ofFn (fun i => if i.val = 0 then true else flags.getLsbD i.val),
      lc := g 0, ssp := g 1, ssbase := g 2 &&& ~~~7, sslim := g 3 &&& ~~~7, exh := g 4, fcsr := g 5 &&& 0x31F, cause := g 6 &&& 0xFF,
      epc := g 7, eval := g 8 },
    par := { t.par with estN := g 11, estMean := g 12, estM2 := g 13, itempos := if t.par.kind = .estimating then g 14 else 0 },
    sys := { t.sys with
      mwto := g 9, msat := g 10 &&& 1, sqin := Vector.ofFn (fun i => (g (15 + i.val)).extractLsb' 0 32), sqout := Vector.ofFn (fun i => (g (19 + i.val)).extractLsb' 0 32),
      abcnt := g 23, midle := g 24, ptok := z 0, pkeyb := z 1, pkseq := z 2, cto := z 3, efault := z 4 &&& 0xC0000000FFFFFFFF,
      kstat := z 6 &&& 0xFF, kpc := z 7, kscr := z 8, kvec := z 9, ptb := z 10, asid := z 11 &&& 0xFFFF },
    caps := Vector.ofFn (fun i => Cap.ofBytes ((bs.drop (0x200 + 32 * i.val)).take 32) ((dword bs 0x400).getLsbD i.val)),
    bufs := Vector.ofFn (fun i => Buf.ofWord (dword bs (0xA80 + 8 * i.val))),
    eng := eng }

/-- The near ranges that an area holds (R344): all, or those of its safe-table entry with the return stack. -/
def State.areaRanges (s : State) (area form : Nat) : List (Nat × Nat) :=
  if form = 0 then wholeNear
  else
    let bs := s.pkg.homeN area 0x140
    let ix := ((dword bs 0).extractLsb' 32 16).toNat
    (stackAddr (dword bs 0x128), stackAddr (dword bs 0x120))
      :: (((s.pkg.launch s.tile.handle).bind (fun l => s.pkg.safeEntry l ix)).elim [] (·.ranges))

/-- The near ranges that an area holds put back; in FORM 1 every other line is scrub-pending (R369),
and what a range leaves of its first and last line reads zero. -/
def State.loadNear (s : State) (area form : Nat) (ranges : List (Nat × Nat)) : State :=
  let s := if form = 1 then s.mapNear (fun n => { n with scrub := nearParts, tags := [] }) else s
  areaParts.foldl (fun s x => ranges.foldl (fun s r =>
    let lo := max x.1 r.1
    let hi := min (x.1 + x.2.1) r.2
    if lo < hi then
      let a := area + x.2.2 + (lo - x.1)
      let b := a + (hi - lo)
      s.mapNear (fun n => ((n.settle (lo / 64)).settle ((hi - 1) / 64)).putRange lo hi (shiftCells (s.pkg.cells a b) a b lo) (shiftGs (s.pkg.granules a b) a lo))
    else s) s) s

/-- Deferred atomics of an area (R346): the place of each follows from its address, and it is found again when the atomic
performs. -/
def State.deferredOf (s : State) (bs : List Byte) : List Deferred :=
  ((chunks 32 bs).filter (fun c => (dword c 0).getLsbD 63)).map (fun c =>
    { fn := (dword c 0).extractLsb' 0 7, addr := dword c 8, opnd := dword c 16,
      loc := match s.taskPlace (dword c 8) with
        | .ok (_, l) => l
        | .error _ => .own 0 })

/-- An uncorrectable error in the bytes of an area that a load or a resume reads (R339): the whole of it in FORM 0, the state
block and the held ranges in FORM 1. -/
def Package.areaBad (p : Package) (area form : Nat) (ranges : List (Nat × Nat)) : Bool :=
  let bad (lo hi : Nat) : Bool := p.ecc.any (fun l => decide (lo ≤ 64 * l + 63) && decide (64 * l < hi))
  if form = 0 then bad area (area + areaSize)
  else bad area (area + 0x10000) || (areaPieces area ranges).any (fun x => bad x.2.2 (x.2.2 + (x.2.1 - x.1)))

/-- The tile's registers, near memory and engines from an area (R369, R343): an M command goes on from its
point, queued commands keep their order and stand below every access made after. An uncorrectable error in it is
MEM_UNCORRECTABLE (R339). -/
def State.loadArea (s : State) (area form : Nat) (ranges : List (Nat × Nat)) : Try State :=
  if s.pkg.areaBad area form ranges then .error { code := .memUncorrectable }
  else
  let bs := s.pkg.homeN area 0x3300
  let s := s.loadNear area form ranges
  let s := s.updT (fun t => t.loadBlock bs)
  let s := s.mapTask (fun t => { t with deferred := s.deferredOf ((bs.drop 0x1300).take 0x2000) })
  let s := if form = 0 then s.mapTask (fun t => t.ofLines (s.pkg.homeN (area + 0x360000) (64 * min 1024 t.lines.length))) else s
  let f := dwordsAt bs 0xC80 27
  let first (e : Eng) : W32 := ((f.getD (match e with | .v => 22 | .m => 23 | .x => 24) 0)).extractLsb' 0 32
  let n := ((f.getD 13 0).extractLsb' 32 32).toNat
  let latched := (f.drop 14).take 6
  let s := [Eng.v, .m, .x].foldl (fun s e =>
    if (s.tile.eng.ring e).q = 0 then s
    else s.recordFrom e (fun _ => firstTs) ((s.tile.eng.ring e).wp - first e).toNat (first e)) s
  let s := s.restoreCmds latched (f.getD 26 0).toNat 0 (((bs.drop 0xE00).take 0x400).take n) first
  let s := s.mapEng (fun e => { e with ts := firstTs + n })
  s.rebinds bs (List.range 16)

end Sys2Proof.Machine
end

