-- ==== Sys2Proof/Machine/System.lean ====
section
/-! DEFINITION. System instructions (R360 to R372): traps and their return, kernel calls, translation
maintenance, context save and load, safe words, breakpoints and idle. -/

namespace Sys2Proof.Machine

/-! ### trap, kcall, tret -/

/-- trap (R361). -/
def execTrap (h : Hdr) (a : Reg) (code : BitVec 8) (s : State) : Host.Outcome State Fault Refusal :=
  s.coreWord h [a] [] false (fun s =>
    match trapCodeOf code.toNat with
    | none => raiseF .illegalOpcode
    | some c => .goto (s.trapCore { code := c, eval := some (s.reg a) } s.tile.core.pc (nextPc s.tile.core.pc)))

/-- A message or kernel call enters the handler; without a handler it ends the launch (R331; log 42). -/
def State.takeMessage (s : State) (msg resume : W64) (arr : Bool) : State :=
  if s.canTrap then s.enterMessage msg resume arr else s.fatal .illegalOpcode s.tile.core.pc

/-- kcall (R362, R363). -/
def execKcall (h : Hdr) (svc : BitVec 12) (s : State) : Host.Outcome State Fault Refusal :=
  s.coreWord h [] [] false (fun s =>
    if kstatNest s.tile.sys.kstat then raiseF .illegalOpcode
    else .goto (s.takeMessage ((1#64 <<< 62) ||| svc.zeroExtend 64) (nextPc s.tile.core.pc) false))

/-- The barrier word to which a return with ARR goes back waits without arriving again (R332, R334). -/
def State.barReturn (s : State) (arr : Bool) : State := s.mapOrd (fun o => o.backToArrival s.tile.core.pc arr)

/-- tret (R334, R364). -/
def execTret (h : Hdr) (s : State) : Host.Outcome State Fault Refusal :=
  s.coreWord h [] [] true (fun s =>
    let k := s.tile.sys.kstat
    if kstatPpriv k ≥ 2 then raiseF .privilege
    else if s.tile.sys.kpc &&& 7 ≠ 0 then raiseV .misaligned s.tile.sys.kpc
    else .goto (s.trapReturn.barReturn (kstatArr k)))

/-! ### Translation maintenance (R359, R365, R366) -/

/-- An entry that an invalidation removes. -/
def TlbEntry.gone (e : TlbEntry) (form : BitVec 2) (va asid : W64) : Bool :=
  match form.toNat with
  | 0 => e.hits va asid
  | 1 => !pteG e.pte && e.asid.extractLsb' 0 16 == asid.extractLsb' 0 16
  | _ => true

/-- The matching entries removed from every TLB of the package. -/
def State.dropTlb (s : State) (form : BitVec 2) (va asid : W64) : State :=
  (s.mapTiles (fun t => { t with ord := { t.ord with tlb := t.ord.tlb.filter (fun e => !e.gone form va asid),
                                                     xtlb := t.ord.xtlb.filter (fun e => !e.gone form va asid) } })).updP
    (fun p => { p with l2tlb := p.l2tlb.filter (fun e => !e.2.gone form va asid) })

/-- Accesses under way anywhere in the package that were translated: (tile, place in program order). -/
def State.accessesOpen (s : State) : List (Nat × Nat) :=
  let mem (q : QEntry) : Bool := match q.op with
    | .load (.regs _) _ _ _ | .loadCap (.regs _) _ | .loadWait (.regs _) _ _ | .store (.regs _) _ _ _ | .amo (.regs _) _ _ _ _ _ _ _
    | .load (.pkgMem _ _) _ _ _ | .loadCap (.pkgMem _ _) _ | .loadWait (.pkgMem _ _) _ _ | .store (.pkgMem _ _) _ _ _
    | .amo (.pkgMem _ _) _ _ _ _ _ _ _ | .flush _ _ => true
    | _ => false
  s.allTiles.flatMap (fun t => ((t.ord.lq ++ t.ord.sq).filter mem).map (fun q => (t.phys, q.seq)))

/-- X commands of the package that hold a translation: started ones with accesses located and not performed. One that
waits before its first access locates it when it tries. -/
def State.xOpen (s : State) : List (Nat × Eng × W32) :=
  s.allTiles.flatMap (fun t => (t.eng.cmds.filter (fun c =>
    (c.eng == .x && c.started && !c.performed && (c.move.isSome || decide (0 < c.left))) || !c.writes.isEmpty)).map
    (fun c => (t.phys, c.eng, c.idx)))

/-- The record that a pod-scope invalidation sends (R398), acknowledged by its own package. -/
def Package.sendInval (p : Package) (form : BitVec 2) (va asid : W64) : Package :=
  { p with podSeq := p.podSeq + 1,
           podOut := p.podOut ++ [{ seq := p.podSeq, sent := p.time, inval := some (form, va, asid), acked := [p.num] }],
           podNext := (p.podNext.filter (fun x => x.1 != p.num)) ++ [(p.num, p.podSeq + 1)] }

/-- The members of the pod, by package number. -/
def State.members (s : State) : List Nat := ((s.pkg :: s.peers).filter (·.member)).map (·.num)

/-- A record that every member has acknowledged is no longer kept (R399). -/
def State.settlePod (s : State) : State :=
  let ms := s.members
  let f (p : Package) : Package := { p with podOut := p.podOut.filter (fun r => !ms.all r.acked.contains) }
  { s with pkg := f s.pkg, peers := s.peers.map f }

/-- An invalidation that has come to the head of SQ, after the release before it. -/
def State.invalidate (s : State) (form : BitVec 2) (va asid : W64) (pod : Bool) : State :=
  let q := s.accessesOpen
  let x := s.xOpen
  let n := s.pkg.podSeq
  let s := s.dropTlb form va asid
  let s := s.mapOrd (fun o => { o with tlbiQ := (o.tlbiQ ++ q).eraseDups, tlbiX := (o.tlbiX ++ x).eraseDups, tlbiPod := if pod then o.tlbiPod ++ [n] else o.tlbiPod })
  if pod then (s.updP (fun p => p.sendInval form va asid)).settlePod else s

/-- A tlbi word: a rel.p, and behind it the invalidation (R365). -/
def State.tlbiWord (s : State) (h : Hdr) (rs : List Reg) (form : BitVec 2) (va asid : State → W64) (pod : Bool) : Host.Outcome State Fault Refusal :=
  s.coreWord h rs [] true (fun s => .done ((s.pushMarker .rel 2).pushSq (.tlbi form (va s) (asid s) pod)).nextSeq)

/-- tlbi.page (R365). -/
def execTlbiPage (h : Hdr) (d a : Reg) (pod : Bool) (s : State) : Host.Outcome State Fault Refusal :=
  s.tlbiWord h [d, a] 0 (fun s => s.reg a &&& 0x3FFFFFFFFFFF) (fun s => s.reg d &&& 0xFFFF) pod

/-- tlbi.asid (R365). -/
def execTlbiAsid (h : Hdr) (d : Reg) (pod : Bool) (s : State) : Host.Outcome State Fault Refusal :=
  s.tlbiWord h [d] 1 (fun _ => 0) (fun s => s.reg d &&& 0xFFFF) pod

/-- tlbi.all (R365). -/
def execTlbiAll (h : Hdr) (pod : Bool) (s : State) : Host.Outcome State Fault Refusal :=
  s.tlbiWord h [] 2 (fun _ => 0) (fun _ => 0) pod

/-- Every tlbi of this core is complete: none stands in SQ, no access or transfer that may hold an old
translation is left, and every member has acknowledged (R359, R366). -/
def State.tlbiDone (s : State) : Bool :=
  let o := s.tile.ord
  let q := s.accessesOpen
  let x := s.xOpen
  !o.sq.any (fun e => match e.op with
    | .tlbi _ _ _ _ => true
    | _ => false)
    && !o.tlbiQ.any q.contains && !o.tlbiX.any x.contains && !s.pkg.podOut.any (fun r => o.tlbiPod.contains r.seq)

/-- tlbsync (R366). -/
def execTlbsync (h : Hdr) (s : State) : Host.Outcome State Fault Refusal :=
  s.coreWord h [] [] true (fun s =>
    if s.tlbiDone then .done (s.mapOrd (fun o => { o with tlbiQ := [], tlbiX := [], tlbiPod := [] })) else .hold s)

/-! ### ctx.save and ctx.load (R367 to R369) -/

/-- The checks of R367 on an area address. -/
def State.areaFault (s : State) (a : W64) : Option FaultInfo :=
  if a.toNat % 0x40000 ≠ 0 then some (at' .misaligned a)
  -- a stack of HBM is a multiple of an area's alignment: an area lies in the stacks of its first and last byte (R464)
  else if a.toNat + areaSize > s.pkg.bound ∨ s.pkg.stackGone a.toNat ∨ s.pkg.stackGone (a.toNat + areaSize - 1) then some (at' .pagePerm a)
  else none

/-- The streams held until tret, while the engines settle. -/
def State.holdStreams (s : State) : State := s.mapEng (fun e => { e with heldStreams := true })

/-- The work of a context word once the engines have settled and rel.p is complete. While it waits they start nothing. -/
def State.ctxWord (s : State) (a : Reg) (f : State → OpRes) : OpRes :=
  match s.areaFault (s.reg a) with
  | some fi => .fault fi
  | none =>
    if s.tile.eng.settled && s.coreQuiet then f ((s.mapEng (fun e => { e with settling := false })).holdStreams).releaseAll
    else .hold (s.mapEng (fun e => { e with settling := true }))

/-- ctx.save (R368): the slot of s[A], of s0 too, takes KSCR. -/
def execCtxSave (h : Hdr) (a : Reg) (s : State) : Host.Outcome State Fault Refusal :=
  s.coreWord h [a] [] true (fun s => s.ctxWord a (fun s =>
    let t := (s.mapCore (fun c => { c with s := c.s.set a.toFin s.tile.sys.kscr })).tile
    .done (s.writeArea (s.reg a).toNat t s.tile.sys.kpc (kstatArr s.tile.sys.kstat) 0 0 wholeNear)))

/-- KPC, ARR and PPRIV for the return, HALT as saved (R369, R349). -/
def State.ctxReturn (s : State) (pc flags : W64) : State :=
  (s.mapSys (fun y => { y with
    kpc := pc, kstat := (y.kstat &&& ~~~0x83) ||| (if flags.getLsbD 8 then 0x80 else 0),
    dbgctl := (y.dbgctl &&& ~~~1) ||| (if flags.getLsbD 9 then 1 else 0) }))

/-- ctx.load (R369). -/
def execCtxLoad (h : Hdr) (a : Reg) (s : State) : Host.Outcome State Fault Refusal :=
  s.coreWord h [a] [] true (fun s => s.ctxWord a (fun s =>
    let area := (s.reg a).toNat
    let bs := s.pkg.homeN area 0x118
    let hdr := dword bs 0
    let form := (hdr.extractLsb' 16 8).toNat
    if hdr.extractLsb' 0 16 != 1 || decide (form > 1) || (hdr.extractLsb' 24 4).toNat != s.tile.par.tile.toNat || (hdr.extractLsb' 28 4).toNat != s.tile.par.clus.toNat then
      raiseV .illegalOpcode (s.reg a)
    else
      match s.loadArea area form (s.areaRanges area form) with
      | .error fi => .fault fi
      | .ok t => .done (t.ctxReturn (dword bs 8) (dword bs 0x110))))

/-! ### safe, brk, idle -/

/-- The three streams are quiescent: every ring is empty and every command has completed (R344). -/
def Engs.quiescent (e : Engs) : Bool := e.ringV.rp == e.ringV.wp && e.ringM.rp == e.ringM.wp && e.ringX.rp == e.ringX.wp && e.cmds.all (·.done)

/-- safe (R370, R344): with a class S save under way and a table entry, the tile stops once its streams are
quiescent. -/
def execSafe (h : Hdr) (s : State) : Host.Outcome State Fault Refusal :=
  s.coreWord h [] [] false (fun s =>
    if s.tile.disp.preempt ≠ .classS then .done s
    else
      match (s.pkg.launch s.tile.handle).bind (fun l => s.pkg.safeAt l s.tile.core.pc) with
      | none => .done s
      | some (i, _) =>
        if !(s.tile.eng.quiescent && s.coreQuiet) then .hold s
        else .goto (s.mapDisp (fun d => { d with run := .stopped, safeIx := some i })))

/-- brk (R371). -/
def execBrk (h : Hdr) (_tag : BitVec 12) (s : State) : Host.Outcome State Fault Refusal :=
  s.coreWord h [] [] false (fun s => .done (if s.tile.sys.dbgctl.getLsbD 4 then (s.mapSys (fun y => { y with dbgctl := y.dbgctl ||| 3 })).haltIf else s))

/-- idle (R372). -/
def execIdle (h : Hdr) (s : State) : Host.Outcome State Fault Refusal :=
  s.coreWord h [] [] true (fun s =>
    if s.tile.disp.msg.isSome || s.tile.disp.preempt != .none || s.tile.sys.dbgctl.getLsbD 0 then .done s else .hold s)

end Sys2Proof.Machine
end

