-- ==== Sys2Proof/Machine/Order.lean ====
section
/-! DEFINITION. The steps of the ordering machine (R162 to R181): reading loads, performing stores, arriving
at ports, completing markers, evicting and writing back lines, waking monitors, scrubbing. -/

namespace Sys2Proof.Machine

/-! ### Own stores that a load sees (R165, R159) -/

/-- A store of the queue: where, what, with which tag. -/
def QOp.stored : QOp → Option (Loc × List Byte × Option Bool)
  | .store l bs t _ => some (l, bs, t)
  | _ => none

/-- What the core's own earlier stores say of n bytes at a location: nothing, all of them with the tag, or
only some. -/
inductive Fwd where
  | none
  | all (bs : List Byte) (tag : Bool)
  | part

/-- STORE8s of the core in its pool channels, as stores (R391). -/
def State.pooledStores (s : State) : List QEntry :=
  s.pkg.poolCh.filterMap (fun m =>
    match m.op with
    | .store8 off v => if m.src = s.tile.phys ∧ m.eng.isNone then some ⟨m.seq, m.pc, .store (.direct m.obj off) (leBytes 8 v.toNat) none m.token⟩ else none
    | _ => none)

/-- The youngest earlier store of the core, in SQ or in its channel, that meets the load. -/
def State.forwarded (s : State) (l : Loc) (n seq : Nat) : Fwd :=
  let own := (s.pkg.chans.filter (fun c => c.src == s.tile.phys)).map (·.e) ++ s.pooledStores ++ s.tile.ord.sq
  match ((own.filter (fun e => decide (e.seq < seq))).filterMap (fun e => e.op.stored)).reverse.find? (fun x => l.meets n x.1 x.2.1.length) with
  | none => .none
  | some (m, bs, t) =>
    if m.key.2 ≤ l.key.2 ∧ l.key.2 + n ≤ m.key.2 + bs.length then .all ((bs.drop (l.key.2 - m.key.2)).take n) (t.getD false) else .part

/-- A loaded value with the task's earlier held stores laid over it, byte by byte. -/
def State.overHeld (s : State) (l : Loc) (seq : Nat) (bs : List Byte) (tag : Bool) : List Byte × Bool :=
  (s.tile.task.held.filter (fun h => decide (h.seq < seq) && l.meets bs.length h.loc h.bytes.length)).foldl (fun x h =>
    (x.1.mapIdx (fun i b => if h.loc.key.2 ≤ l.key.2 + i ∧ l.key.2 + i < h.loc.key.2 + h.bytes.length then h.bytes.getD (l.key.2 + i - h.loc.key.2) 0 else b),
     h.tag.getD false)) (bs, tag)

/-! ### Reading -/

/-- The bytes and the tag at a location now, and what the read does to the caches (R140, R169, R172). -/
def State.readLoc (s : State) (l : Loc) (n : Nat) : State × List Byte × Bool :=
  match l with
  | .pkgMem pa true => let t := s.share (pa / 64); (t, t.coherentN pa n, t.pkg.tagged pa && t.pkg.tag pa)
  | .pkgMem pa false => (s, s.pkg.behindN pa n, s.pkg.tagged pa && s.pkg.tag pa)
  | .regs off => (s.tileRegRecord off n false, s.tileRegBytes off n, false)
  | .frame pa _ _ => let t := s.share (pa / 64); (t, t.coherentN pa n, false)
  | .cluster tile off => (s, s.sliceN tile off n, (s.tileAt tile).elim false (fun t => t.near.tag (clusterBase + off)))
  | _ => (s, List.replicate n 0, false)

/-- The value of a load delivered (R186, R187, R194). -/
def State.delivered (s : State) (op : QOp) (bs : List Byte) (tag : Bool) : State :=
  match op with
  | .load _ _ sg d => s.setReg d (loadValue bs sg)
  | .loadCap _ d => s.setCap d (Cap.ofBytes bs tag)
  | .loadWait _ d cmp =>
    let v := leWord bs
    -- the hold of R194 begins with the read, and MWTO counts from there (R195)
    (s.setReg d v).mapOrd (fun o => { o with mon := o.mon.map (fun m => { m with read := true, matched := v == cmp, since := s.pkg.time }) })
  | _ => s

/-- Location and size of a load. -/
def QOp.loads : QOp → Option (Loc × Nat)
  | .load l n _ _ => some (l, n)
  | .loadCap l _ => some (l, 32)
  | .loadWait l _ _ => some (l, 8)
  | _ => none

def State.popLq (s : State) : State := s.mapOrd (fun o => { o with lq := o.lqRest })
def State.popSq (s : State) : State := s.mapOrd (fun o => { o with sq := o.sq.drop 1 })

/-- The place of an access as it stands when it performs: a page of the pool may have gone since its word
(R383). -/
def State.locNow (s : State) (l : Loc) (write : Bool) : Try Loc :=
  match l with
  | .frame _ obj off => s.pkg.frameLoc obj (BitVec.ofNat 64 off) write
  | _ => .ok l

/-- A fault of an access that performs after its word (R383): taken at the word's address; it ends the launch, or
aborts the task, where END has been applied, and is nothing to a tile that has stopped. -/
def State.lateFault (s : State) (fi : FaultInfo) (pc : W64) : State :=
  match s.tile.disp.run with
  | .running => s.takeFault fi pc
  | .ended =>
    if fi.code.kind = .abort ∧ s.tile.par.kind ≠ .single ∧ s.tile.task.index.isSome then (s.dropBad fi).coreFaultMark.abortTask fi pc
    else (s.coreFaultMark.writeCause fi pc).fatal fi.code pc
  | _ => s

/-- LOAD_READ (R165): the load at the head of LQ reads, or is sent into its channel. -/
def execLoadRead (s : State) : Host.Outcome State Fault Refusal :=
  match s.tile.ord.lqHead with
  | none => .next s
  | some e =>
    match e.op.loads with
    | none => .next s
    | some (l, n) =>
      match s.forwarded l n e.seq with
      | .part => .next s
      | .all bs t =>
        let v := s.overHeld l e.seq bs t
        .next (s.popLq.delivered e.op v.1 v.2)
      | .none =>
        match l with
        | .cluster tile _ => .next (s.popLq.updP (fun p => { p with chans := p.chans ++ [⟨s.tile.phys, clusOf tile, tile, e⟩] }))
        | .direct obj off =>
          let d := e.op.dest.getD 0
          .next (s.popLq.updP (fun p => { p with poolCh := p.poolCh ++ [{ obj := obj, op := .load8 off d, token := 0, src := s.tile.phys, pc := e.pc, eng := none, seq := e.seq, launch := some s.tile.handle }] }))
        | _ =>
          match s.locNow l false with
          | .error fi => .next (s.popLq.lateFault fi e.pc)
          | .ok l' =>
            let (t, bs, tag) := s.popLq.readLoc l' n
            let v := t.overHeld l e.seq bs tag
            .next (t.delivered e.op v.1 v.2)

/-! ### Performing (R166, R175) -/

/-- An access of the core before a place in program order that has not read (R166). -/
def State.loadsOpen (s : State) (seq : Nat) : Bool :=
  let me := s.tile.phys
  s.tile.ord.lq.any (fun e => decide (e.seq < seq) && e.op.loads.isSome)
    || s.pkg.chans.any (fun c => c.src == me && decide (c.e.seq < seq) && c.e.op.loads.isSome)
    || s.pkg.poolCh.any (fun m => m.src == me && m.eng.isNone && decide (m.seq < seq) && (match m.op with
      | .load8 _ _ => true
      | _ => false))

/-- An atomic at its place of execution: the old word, and the state with the new one (R142, R169, R172). -/
def State.atomicAt (s : State) (l : Loc) (op : BitVec 3) (b x tok : W64) : State × W64 :=
  match l with
  | .pkgMem pa true =>
    let s := s.recall (pa / 64)
    let m := leWord (s.pkg.homeN pa 8)
    (match amoNew op m b x with
     | some v => s.writeHomeLine pa (leBytes 8 v.toNat) tok
     | none => s, m)
  | .pkgMem pa false =>
    let m := leWord (s.pkg.behindN pa 8)
    (match amoNew op m b x with
     | some v =>
       let s := (s.updP (fun p => (p.settle (pa / 64)).clearTags pa 8)).keepCopies pa 8
       (s.updP (fun p => { p with mem := Memory.writeN p.mem pa (leBytes 8 v.toNat) })).wake true (Loc.onLine (pa / 64))
     | none => s, m)
  | .cluster tile off =>
    let m := leWord (s.sliceN tile off 8)
    (match amoNew op m b x with
     | some v => s.storeSlice tile off (leBytes 8 v.toNat) none true
     | none => s, m)
  | .regs off => (s.tileRegRecord off 8 true, leWord (s.tileRegBytes off 8))
  | _ => (s, 0)

/-- The marker of an atomic in LQ becomes a fence of its scope, or goes (R175). -/
def OrdSt.amoDone (o : OrdSt) (e : QEntry) (scope : BitVec 2) : OrdSt :=
  { o with lq := if scope = 0 then o.lq.filter (fun x => x.seq != e.seq) else o.lq.map (fun x => if x.seq = e.seq then { x with op := .marker .fence scope } else x) }

/-- The head of SQ gives way to the fence that its atomic acts as. -/
def OrdSt.sqFence (o : OrdSt) (e : QEntry) (scope : BitVec 2) : OrdSt :=
  { o with sq := if scope = 0 then o.sq.drop 1 else { e with op := .marker .fence scope } :: o.sq.drop 1 }

/-- An entry into the channel of a slice. -/
def State.send (s : State) (tile : Nat) (e : QEntry) : State :=
  s.updP (fun p => { p with chans := p.chans ++ [⟨s.tile.phys, clusOf tile, tile, e⟩] })

/-- A message into the pool channel. -/
def State.sendPool (s : State) (obj : Nat) (op : PoolOp) (tok : W64) (e : QEntry) : State :=
  s.updP (fun p => { p with poolCh := p.poolCh ++ [{ obj := obj, op := op, token := tok, src := s.tile.phys, pc := e.pc, eng := none, seq := e.seq, launch := some s.tile.handle }] })

/-- The entry at the head of SQ performs or is sent (R166, R175, R196, R233, R359). -/
def State.perform (s : State) (e : QEntry) : State :=
  match e.op with
  | .store l bs t tok =>
    match l with
    | .pkgMem pa ca => s.popSq.storePkg pa ca bs t tok
    | .frame _ _ _ =>
      match s.locNow l true with
      | .error fi => s.popSq.lateFault fi e.pc
      | .ok (.frame pa _ _) => s.popSq.storePkg pa true bs t tok
      | .ok _ => s.popSq
    | .cluster tile _ => s.popSq.send tile e
    | .direct obj off => s.popSq.sendPool obj (.store8 off (leWord bs)) tok e
    | .own a => s.popSq.mapNear (fun n => n.store a bs)
    | .regs off => s.popSq.tileRegRecord off bs.length true
  | .amo l op b x d scope key tok =>
    match l with
    | .cluster tile _ => (s.mapOrd (fun o => o.sqFence e scope)).send tile e
    | .direct obj off => (s.mapOrd (fun o => o.sqFence e scope)).sendPool obj (.atomic off op b x key (some d) none) tok e
    | _ =>
      let r := s.atomicAt l op b x tok
      (r.1.setReg d r.2).mapOrd (fun o => (o.sqFence e scope).amoDone e scope)
  | .flush pa inv => s.popSq.flushLine pa inv
  | .sem n => if s.tile.eng.sems[n.toFin] = 0xFFFF then s else s.popSq.setSem n.toNat (· + 1)
  | .tlbi form va asid pod => s.popSq.invalidate form va asid pod
  | _ => s

/-- STORE_PERFORM (R166). -/
def execStorePerform (s : State) : Host.Outcome State Fault Refusal :=
  match s.tile.ord.sq with
  | [] => .next s
  | e :: _ => .next (if s.loadsOpen e.seq then s else s.perform e)

/-- PORT_ARRIVAL (R167): the oldest entry of the channel from the tile in focus to slice `slice`. -/
def execPortArrival (s : State) : Host.Outcome State Fault Refusal :=
  let mine (c : ChanEntry) : Bool := c.src == s.tile.phys && c.slice == s.arg.slice
  match s.pkg.chans.find? mine with
  | none => .next s
  | some c =>
    let t := s.updP (fun p => { p with chans := p.chans.eraseP mine })
    match c.e.op with
    | .store (.cluster tile off) bs tag _ => .next (t.storeSlice tile off bs tag false)
    | .amo l op b x d scope _ tok =>
      let r := t.atomicAt l op b x tok
      .next ((r.1.setReg d r.2).mapOrd (fun o => o.amoDone c.e scope))
    | op =>
      match op.loads with
      | some (l, n) =>
        let (u, bs, tag) := t.readLoc l n
        let v := u.overHeld l c.e.seq bs tag
        .next (u.delivered op v.1 v.2)
      | none => .next t

/-! ### Markers (R173, R174, R177, R181, R236) -/

/-- Accesses of the core sent before a place in program order that have not performed at their port: entries of
the slice channels, and ATOMICs whose result has not returned from the pool (R391). -/
def State.sentOpen (s : State) (seq : Nat) : Bool :=
  s.pkg.chans.any (fun c => c.src == s.tile.phys && decide (c.e.seq ≤ seq))
    || s.pkg.poolCh.any (fun m => m.src == s.tile.phys && m.eng.isNone && decide (m.seq ≤ seq) && (match m.op with
      | .atomic _ _ _ _ _ _ _ => true
      | _ => false))

/-- A line of host memory whose stored bytes are not through to the host: some agent holds them dirty, or L2 does. -/
def State.lineOpen (s : State) (line : Nat) : Bool :=
  !(s.ownerDirty line).isEmpty || s.pkg.l2.any (fun c => c.1 / 64 == line)

/-- An entry of a pool channel that a marker at a place in program order waits for: a write of an earlier word or of a
command appended before it, or a forwarded line (R181). -/
def State.poolEarlier (s : State) (m : PoolMsg) (seq : Nat) : Bool :=
  m.src == s.tile.phys
    && (match m.op with
        | .load8 _ _ => false
        | .put _ _ => m.eng.all (fun i => (s.tile.eng.cmd .x i).all (fun c => decide (c.pos ≤ seq)))
        | _ => match m.eng with
          | some i => (s.tile.eng.cmd .x i).all (fun c => decide (c.pos ≤ seq))
          | none => decide (m.seq ≤ seq))

/-- The further conditions of R181 for a marker at a place in program order: the core's earlier stores to host memory are
through to the host, and earlier writes of the tile to the pool have been answered. A rejection on its way to the tile is
fatal before the marker completes (R388, R392). -/
def State.podOpen (s : State) (seq : Nat) : Bool :=
  s.tile.ord.hostOpen.any s.lineOpen || !s.tile.disp.fenced.isEmpty || s.pkg.poolCh.any (fun m => s.poolEarlier m seq)

/-- The release record of R174: the lines in M or O, listed when the rel marker has come to the head of SQ with every earlier
store performed. -/
def State.takeRecord (s : State) : State :=
  s.mapOrd (fun o => { o with relRec := some (o.relRec.getD ((o.l1.filter (fun l => l.st = .m ∨ l.st = .o)).map (·.line))) })

/-- The bytes of a line that some other agent owns now reach the home; it keeps the line. -/
def State.ownerHome (s : State) (line : Nat) : State :=
  match s.dirtyOf line with
  | none => s
  | some (src, l) =>
    let clean (x : L1Line) : L1Line := if x.line = line then { x with dirty := [] } else x
    ((s.updP (fun p => p.writeBack src l)).mapTiles (fun t => { t with ord := { t.ord with l1 := t.ord.l1.map clean } })).updP
      (fun p => { p with host := p.host.map clean })

/-- The next line of the record is written back; so is one that another core has since taken over, with what it holds of it
(R174). -/
def State.releaseNext (s : State) : State :=
  match s.tile.ord.relRec with
  | some (l :: r) => ((s.releaseLine l).ownerHome l).mapOrd (fun o => { o with relRec := some r })
  | _ => s

/-- Whether a marker is complete; a rel needs its release record written back. `lqHead` and
`sqHead`: it stands at the head of the queue. Whether acq.s is as acq.p, as the table of R173 has it, or waits under R181 too,
as R193 has it, is a free value (log 99). -/
def State.markDone (s : State) (e : QEntry) (k : MarkKind) (scope : BitVec 2) (lqHead sqHead : Bool) : Bool :=
  let far := scope != 3 || !s.podOpen e.seq
  match k with
  | .fence => scope == 0 || (lqHead && sqHead && !s.sentOpen e.seq && !s.loadsOpen e.seq && far)
  | .acq => scope == 0 || (lqHead && !s.loadsOpen e.seq && (far || !Config.acqWaits))
  | .rel => sqHead && !s.sentOpen e.seq && (scope == 0 || !s.loadsOpen e.seq) && s.tile.ord.relRec == some [] && far

/-- A marker leaves the queues. -/
def OrdSt.dropSeq (o : OrdSt) (seq : Nat) : OrdSt :=
  { o with lq := o.lq.filter (fun e => e.seq != seq), sq := o.sq.filter (fun e => e.seq != seq),
           relRec := if o.sq.head?.any (fun e => e.seq == seq) then none else o.relRec }

/-- The marker entry `e` completes if its conditions hold; a rel takes its release record first and writes a line of it
back. A rejected frame line raises FENCED at the first marker of scope .s (R388). -/
def State.tryMark (s : State) (e : QEntry) : State :=
  let lqHead := s.tile.ord.lqHead.any (fun x => x.seq == e.seq)
  let sqHead := s.tile.ord.sq.head?.any (fun x => x.seq == e.seq)
  match e.op with
  | .marker k scope =>
    let ready := k != .rel || (sqHead && !s.sentOpen e.seq && (scope == 0 || !s.loadsOpen e.seq))
    let s := if k = .rel ∧ ready then s.takeRecord.releaseNext else s
    let s := if scope = 3 then s.mapOrd (fun o => { o with hostOpen := o.hostOpen.filter s.lineOpen }) else s
    if !s.markDone e k scope lqHead sqHead then s
    else if scope = 3 ∧ s.tile.disp.lineRej then
      ((s.coreFaultMark.writeCause { code := .fenced } e.pc).fatal .fenced e.pc).mapDisp (fun d => { d with lineRej := false })
    else s.mapOrd (fun o => o.dropSeq e.seq)
  | .xmark eg ts =>
    -- a command stands below the xfence once its last word has been appended (R231)
    if s.tile.eng.cmds.any (fun c => c.eng == eg && c.path && c.whole && decide (c.ts < ts) && c.predTrue && !c.performed) then s
    else s.mapOrd (fun o => o.dropSeq e.seq)
  | _ => s

/-- MARKER_COMPLETE (R173): the markers at the heads of LQ and SQ. -/
def execMarkerComplete (s : State) : Host.Outcome State Fault Refusal :=
  let s := match s.tile.ord.lqHead with
    | some e => s.tryMark e
    | none => s
  .next (match s.tile.ord.sq with
    | e :: _ => s.tryMark e
    | [] => s)

/-! ### Caches -/

/-- LINE_EVICTION (R140, R170, R180): the L1 of the tile evicts line `line`. -/
def execLineEviction (s : State) : Host.Outcome State Fault Refusal :=
  match s.tile.ord.line s.arg.line with
  | none => .next s
  | some l => .next (s.evict l)

/-- L2_WRITE_BACK (R172). -/
def execL2WriteBack (s : State) : Host.Outcome State Fault Refusal := .next (s.updP (fun p => p.l2Back s.arg.line))

/-! ### Waits and scrubbing -/

def State.wakeMine (s : State) : State := s.mapOrd (fun o => { o with mon := o.mon.map (fun m => { m with woken := true }) })

/-- MWAIT_WAKE (R180): the machine may take a spurious event at any step. -/
def execMwaitWake (s : State) : Host.Outcome State Fault Refusal := .next s.wakeMine

/-- MWAIT_TIMEOUT (R195). -/
def execMwaitTimeout (s : State) : Host.Outcome State Fault Refusal :=
  .next (if s.tile.ord.mon.any s.timedOut then s.wakeMine else s)

/-- BACKGROUND_SCRUB (R143): line `line` of the near space or of package memory. -/
def execBackgroundScrub (s : State) : Host.Outcome State Fault Refusal :=
  .next (if s.arg.near then s.mapNear (fun n => n.settle s.arg.line) else s.updP (fun p => p.settle s.arg.line))

end Sys2Proof.Machine
end

