-- ==== Sys2Proof/Machine/Launch.lean ====
section
/-! DEFINITION. Launch records, images and the loader (R89 to R92, R95, R97, R151 to R153, R208 to R210,
R350 to R352), placement (R103 to R106), the start of a tile (R92, R143, R210) and the end of a launch with
its result record (R91). -/

namespace Sys2Proof.Machine

/-! ### Reading what system software placed -/

def allZero (bs : List Byte) : Bool := bs.all (· == 0)

/-- Bytes at a package virtual address as system software reads them, whatever their page allows. -/
def Package.readSys (p : Package) (ptb va : W64) (n : Nat) : Option (List Byte) :=
  ((p.readVirt ptb .rd va n).or (p.readVirt ptb .ex va n)).or (p.readVirt ptb .wr va n)

/-- The fields of a launch record (R89); `tag` is the tag of ROOT's granule. -/
def parseRec (bs : List Byte) (tag : Bool) : LaunchRec :=
  let q (o : Nat) : W64 := dword bs o
  let kind : LaunchKind := match fieldAt bs 2 1 with
    | 1 => .tasked | 2 => .estimating | _ => .single
  let est (n : Nat) : Nat := if kind = .estimating then n else 0
  { version := fieldAt bs 0 2, kind := kind, cls := fieldAt bs 3 1, prio := fieldAt bs 4 1, ttslot := fieldAt bs 5 1,
    ntile := fieldAt bs 6 1, nclus := fieldAt bs 7 1, nstage := fieldAt bs 8 1,
    tsymm := BitVec.ofNat 8 (fieldAt bs 9 1), csymm := BitVec.ofNat 8 (fieldAt bs 10 1),
    code := q 0x10, entry := q 0x18, ringv := q 0x20, ringm := q 0x28, ringx := q 0x30, args := q 0x38,
    root := Cap.ofBytes ((bs.drop 0x40).take 32) tag, result := q 0x60, seed := q 0x68, meas := (bs.drop 0x70).take 48,
    tlist := q 0xA0, ntask := fieldAt bs 0xA8 8, en := est (fieldAt bs 0xA0 8), eb := est (fieldAt bs 0xA8 4), ek := est (fieldAt bs 0xAC 4),
    nmin := fieldAt bs 0xB0 8, z := q 0xB8, tau := q 0xC0 }

/-! ### Ring images (R208, R209) -/

/-- A ring image as the loader reads it. -/
structure RingImg where
  q : Nat
  loop : Option (List W64)
  sds : Option (List (List W64))
  words : List Byte
  size : Nat
deriving DecidableEq, Repr, Inhabited

/-- Where the initial words stand in an image. -/
def imgWords : Eng → Nat
  | .m => 0x480
  | _ => 0x40

/-- A ring image that keeps the rules of R208. -/
def Package.ringImg (p : Package) (ptb : W64) (eg : Eng) (va : W64) : Option RingImg :=
  match p.readSys ptb va (imgWords eg) with
  | none => none
  | some h =>
    let q := fieldAt h 0 1
    let fl := fieldAt h 1 1
    let n := fieldAt h 4 4
    let w := engWordSize eg
    let loopB := (h.drop 0x40).take 0x40
    let sdB := (h.drop 0x80).take 0x400
    let hdrBad := fieldAt h 2 2 != 0 || !allZero ((h.drop 8).take 56) || decide (q < 4) || decide (14 < q) || decide (n > 2 ^ q)
    let tabBad := match eg with
      | .m => decide (fl > 3) || !allZero ((h.drop 0x70).take 16) || (fl % 2 == 0 && !allZero loopB) || (fl / 2 % 2 == 0 && !allZero sdB)
      | _ => fl != 0
    if hdrBad || tabBad then none
    else
      (p.readSys ptb (va + BitVec.ofNat 64 (imgWords eg)) (n * w)).map (fun ws =>
        { q := q, loop := if fl % 2 = 1 then some (dwordsAt h 0x40 6) else none,
          sds := if fl / 2 % 2 = 1 then some ((List.range 16).map (fun i => dwordsAt h (0x80 + 64 * i) 8)) else none,
          words := ws, size := imgWords eg + n * w })

/-- The image address of an engine's ring. -/
def LaunchRec.ringVa (r : LaunchRec) : Eng → W64
  | .v => r.ringv | .m => r.ringm | .x => r.ringx

/-- The rings of a launch with their near bases: V highest, M below it, X below M. An image that no longer
keeps the rules of R208 is no ring. -/
def Package.rings (p : Package) (l : Launch) : List (Eng × RingImg × Nat) :=
  let put (acc : List (Eng × RingImg × Nat) × Nat) (e : Eng) : List (Eng × RingImg × Nat) × Nat :=
    if l.rc.ringVa e = 0 then acc
    else
      match p.ringImg l.ptb e (l.rc.ringVa e) with
      | none => acc
      | some r =>
        let sz := 2 ^ r.q * engWordSize e
        let b := (acc.2 - sz) / sz * sz
        (acc.1 ++ [(e, r, b)], b)
  ([Eng.v, .m, .x].foldl put ([], 0x1EFFC0)).1

/-! ### Objects (R151, R152) -/

/-- Permissions of c2 and c3 (R151). -/
def c2Perm : BitVec 12 := 0xDC0
def c3Perm : BitVec 12 := 0xD00

/-- An object that a `.cap` line declares, with its base and the length of its data section if it is measured. -/
structure Obj where
  decl : CapDecl
  base : Nat
  data : Option DataDecl
  meas : Bool
deriving DecidableEq, Repr, Inhabited

/-- The objects in directive order: NEAR ones upward from 0 as R152 says; where in c1's bounds the LOCAL ones stand R152 does not
say, and that they go downward from the end of ROOT is the model's choice (log 43). None where R152 rejects. -/
def Launch.objects (l : Launch) : Option (List Obj) :=
  let root := l.rc.root
  let put (acc : Option (List Obj × Nat × Nat)) (d : CapDecl) : Option (List Obj × Nat × Nat) :=
    acc.bind (fun x =>
      let ix := l.img.data.findIdx? (fun s => s.reg == d.reg)
      let o (b : Nat) : Obj := { decl := d, base := b, data := ix.bind (fun i => l.img.data[i]?), meas := ix.any (fun i => l.img.meas.contains (4 + i)) }
      if d.typ == 1 then
        let b := (x.2.1 + 63) / 64 * 64
        if d.perm &&& c2Perm == d.perm && decide (b + d.len ≤ 0x1EFFC0) then some (x.1 ++ [o b], b + d.len, x.2.2) else none
      else if d.typ == 2 then
        let b := (x.2.2 - d.len) / 64 * 64
        if root.typ == 2 && d.perm &&& root.perm == d.perm && decide (root.base.toNat + d.len ≤ x.2.2) && decide (root.base.toNat ≤ b) then some (x.1 ++ [o b], x.2.1, b) else none
      else none)
  let named (s : DataDecl) : Bool := l.img.caps.any (fun d => d.reg == s.reg && decide (s.bytes.length ≤ d.len))
  if !l.img.data.all named || l.img.caps.any (fun d => decide (d.reg.toNat < 4)) then none
  else (l.img.caps.foldl put (some ([], 0, root.base.toNat + root.len.toNat))).map (·.1)

/-- The rings reach objects (R209). -/
def Package.ringsReach (p : Package) (l : Launch) (os : List Obj) : Bool :=
  let bottom := (p.rings l).foldl (fun m r => min m r.2.2) 0x1EFFC0
  os.any (fun o => o.decl.typ == 1 && decide (bottom < o.base + o.decl.len))

/-! ### Measurement (R350 to R352) -/

/-- The bytes of a measured section, by its number in the image. -/
def Package.sectionBytes (p : Package) (l : Launch) (k : Nat) : Option (List Byte) :=
  let ring (e : Eng) : Option (List Byte) :=
    (p.ringImg l.ptb e (l.rc.ringVa e)).bind (fun r => p.readSys l.ptb (l.rc.ringVa e) r.size)
  match k with
  | 0 => p.readSys l.ptb l.rc.code l.img.codeLen
  | 1 => ring .v | 2 => ring .m | 3 => ring .x
  | n + 4 => (l.img.data[n]?).map (·.bytes)

/-- SHA-384 over the measured sections in source order. -/
def Package.measurement (p : Package) (l : Launch) : List Byte :=
  sha384 (l.img.meas.flatMap (fun k =>
    let bs := (p.sectionBytes l k).getD []
    BitVec.ofNat 8 (min k 4) :: (leBytes 8 bs.length ++ bs)))

/-- Measured ranges of package memory: (base, length, is code). -/
def Package.measRanges (p : Package) (l : Launch) (os : List Obj) : List (Nat × Nat × Bool) :=
  let ring (k : Nat) (e : Eng) : List (Nat × Nat × Bool) :=
    if l.img.meas.contains k && l.rc.ringVa e != 0 then ((p.ringImg l.ptb e (l.rc.ringVa e)).elim [] (fun r => [((l.rc.ringVa e).toNat, r.size, false)])) else []
  (if l.img.meas.contains 0 then [(l.rc.code.toNat, l.img.codeLen, true)] else [])
    ++ ring 1 .v ++ ring 2 .m ++ ring 3 .x
    ++ os.filterMap (fun o => if o.decl.typ == 2 && o.meas then some (o.base, (o.data.elim 0 (·.bytes.length)), false) else none)

/-- Unmeasured ranges of the launch in package memory. -/
def Package.freeRanges (p : Package) (l : Launch) (os : List Obj) : List (Nat × Nat) :=
  let ring (k : Nat) (e : Eng) : List (Nat × Nat) :=
    if !l.img.meas.contains k && l.rc.ringVa e != 0 then ((p.ringImg l.ptb e (l.rc.ringVa e)).elim [] (fun r => [((l.rc.ringVa e).toNat, (l.rc.ringVa e).toNat + r.size)])) else []
  let root := l.rc.root
  let rest := if root.typ == 2 then (p.measRanges l os).foldl (fun rs m => cutRanges rs m.1 (m.1 + m.2.1)) [(root.base.toNat, root.base.toNat + root.len.toNat)] else []
  (if l.img.meas.contains 0 then [] else [(l.rc.code.toNat, l.rc.code.toNat + l.img.codeLen)])
    ++ ring 1 .v ++ ring 2 .m ++ ring 3 .x ++ [(l.rc.result.toNat, l.rc.result.toNat + 64)]
    ++ (if l.rc.kind = .tasked then [(l.rc.tlist.toNat, l.rc.tlist.toNat + 128 * l.rc.ntask)] else []) ++ rest

/-- The 256 KiB pages of a range. -/
def pagesIn (a n : Nat) : List Nat := if n = 0 then [] else (List.range ((a + n - 1) / pageSize + 1 - a / pageSize)).map (fun i => a / pageSize + i)

/-- The page rule of R352. -/
def Package.measPagesOk (p : Package) (l : Launch) (os : List Obj) : Bool :=
  (p.measRanges l os).all (fun m => (pagesIn m.1 m.2.1).all (fun g =>
    !meetsRanges (p.freeRanges l os) (g * pageSize) ((g + 1) * pageSize)
      && (match p.walk l.ptb (BitVec.ofNat 64 (g * pageSize)) 0 with
          | .ok leaf => !leaf.big
          | .error _ => false)))

/-- A page entry rewritten by the loader (R352). -/
def State.remap (s : State) (ptb va : W64) (f : W64 → W64) : State :=
  match s.pkg.walk ptb va 0 with
  | .error _ => s
  | .ok l => s.writeHomeLine l.where_ (leBytes 8 (f l.pte).toNat) 0

/-- Measured pages: code EX = 1, RD = 0, LK = 1, data WR = 0, LK = 1. -/
def State.lockPages (s : State) (l : Launch) (os : List Obj) : State :=
  let code (e : W64) : W64 := (e ||| (1#64 <<< 57) ||| (1#64 <<< 54)) &&& ~~~(1#64 <<< 59)
  let data (e : W64) : W64 := (e ||| (1#64 <<< 54)) &&& ~~~(1#64 <<< 58)
  let t := (s.acornPkg.measRanges l os).foldl (fun s m => (pagesIn m.1 m.2.1).foldl (fun s g =>
    s.remap l.ptb (BitVec.ofNat 64 (g * pageSize)) (if m.2.2 then code else data)) s) s
  t.dropTlb 2 0 0

/-! ### Placement (R103 to R106) -/

/-- The image of a mesh position under a symmetry (R104). -/
def meshSym (c : Nat) (p : Nat × Nat) : Nat × Nat :=
  match c with
  | 0 => (p.1, p.2)
  | 1 => (p.2, 3 - p.1)
  | 2 => (3 - p.1, 3 - p.2)
  | 3 => (3 - p.2, p.1)
  | 4 => (p.1, 3 - p.2)
  | 5 => (3 - p.1, p.2)
  | 6 => (p.2, p.1)
  | _ => (3 - p.2, 3 - p.1)

/-- A logical cluster's physical number under a symmetry and a translation; none outside the mesh. -/
def placeClus (c : Nat) (dr dc : Int) (n : Nat) : Option Nat :=
  let p := meshSym c (n / 4, n % 4)
  let r := (p.1 : Int) + dr
  let k := (p.2 : Int) + dc
  if 0 ≤ r ∧ r < 4 ∧ 0 ≤ k ∧ k < 4 then some (r.toNat * 4 + k.toNat) else none

def placeTile (c n : Nat) : Nat := let p := meshSym c (n / 4, n % 4); p.1 * 4 + p.2

/-- The placement of a launch under one choice: lclus · 16 + ltile with its physical tile. -/
def LaunchRec.placed (r : LaunchRec) (cs : Nat) (dr dc : Int) (ts : Nat) : Option (List (Nat × Nat)) :=
  ((List.range r.nclus).mapM (placeClus cs dr dc)).map (fun pcs =>
    pcs.mapIdx (fun lc pc => (List.range r.ntile).map (fun lt => (lc * 16 + lt, pc * 16 + placeTile ts lt))) |>.flatten)

def translations : List Int := [-3, -2, -1, 0, 1, 2, 3]

/-- Every placement in the order of R105 conditions 3 to 5. -/
def LaunchRec.placements (r : LaunchRec) : List (List (Nat × Nat)) :=
  ((List.range 8).filter (fun c => r.csymm.getLsbD c)).flatMap (fun cs => translations.flatMap (fun dr => translations.flatMap (fun dc =>
    ((List.range 8).filter (fun c => r.tsymm.getLsbD c)).filterMap (fun ts => r.placed cs dr dc ts))))

/-- A tile that the package does not have enabled (R2, R464). -/
def Package.off (p : Package) (phys : Nat) : Bool := p.fused.contains phys || p.disabled.contains phys

/-- Placements on enabled tiles, in the clusters that a mask allows. -/
def State.placeable (s : State) (r : LaunchRec) (mask : BitVec 16) : List (List (Nat × Nat)) :=
  r.placements.filter (fun pl => pl.all (fun x => !s.pkg.off x.2 && mask.getLsbD (x.2 / 16)))

/-- The placement that R105 takes now. -/
def State.choosePlace (s : State) (r : LaunchRec) (mask : BitVec 16) : Option (List (Nat × Nat)) :=
  let open_ (x : Nat × Nat) : Bool := (s.tileAt x.2).any (fun t => decide (t.disp.slot.length < 4))
  let idle (x : Nat × Nat) : Bool := (s.tileAt x.2).any (fun t => t.disp.slot.isEmpty && t.disp.bind.isNone)
  let all := (s.placeable r mask).filter (fun pl => pl.all open_)
  (all.find? (fun pl => pl.all idle)).or all.head?

/-- The most tiles that a cluster has enabled. -/
def Package.tilesPerCluster (p : Package) : Nat :=
  (List.range 16).foldl (fun m c => max m ((List.range 16).filter (fun t => !p.off (16 * c + t))).length) 0

/-! ### The loader's checks (R90, R91, R97) -/

/-- A binary64 value that is finite and above zero. -/
def posFinite (w : W64) : Bool := !w.getLsbD 63 && w.extractLsb' 52 11 != 0x7FF && w != 0

/-- An Event of the Acorn ring (R328, R461): 1024 records, then the overflow count. -/
def Package.post (p : Package) (e : EventRec) : Package :=
  if p.events.length < 1024 then { p with events := p.events ++ [e] } else { p with eventOvf := p.eventOvf + 1 }

/-- The cached reads of firmware over a physical range: owners of its lines supply them (R140). An uncorrectable error there
is an Event: no launch runs yet that it could fault (R339). -/
def State.acornReads (s : State) (lo hi : Nat) : State :=
  let s := (s.heldLines lo hi).foldl State.acornRead s
  (s.pkg.ecc.filter (fun l => decide (lo ≤ 64 * l + 63) && decide (64 * l < hi))).foldl (fun s l => s.updP (fun p => p.post (.memError l))) s

/-- The walks and reads of firmware over n bytes: a frame whose entry has SCRUB set is marked scrub-pending (R143, R356). -/
def State.touchVirt (s : State) (ptb va : W64) (n : Nat) : State :=
  (pagesIn va.toNat n).foldl (fun s g =>
    let a := BitVec.ofNat 64 (max (g * pageSize) va.toNat)
    match s.pkg.walk ptb a 0 with
    | .ok l =>
      let pa := leafPa l.pte a l.big
      (if pteScrub l.pte then s.scrubFrame l a else s).acornReads pa (pa + (min ((g + 1) * pageSize) (va.toNat + n) - a.toNat))
    | .error _ => s) s

/-- The LOCAL objects that take data lie in pages that translate (R152, log 43). -/
def Package.dataPagesOk (p : Package) (l : Launch) (os : List Obj) : Bool :=
  os.all (fun o => o.decl.typ != 2 || (pagesIn o.base (o.data.elim 0 (·.bytes.length))).all (fun g =>
    match p.walk l.ptb (BitVec.ofNat 64 (max (g * pageSize) o.base)) 1 with
    | .ok _ => true
    | .error _ => false))

/-- What the loader reads of a launch, its record and what its walks find. -/
def State.touchLaunch (s : State) (l : Launch) : State :=
  let ring (s : State) (e : Eng) : State :=
    let va := l.rc.ringVa e
    if va = 0 then s
    else
      let s := s.touchVirt l.ptb va (imgWords e)
      (s.acornPkg.ringImg l.ptb e va).elim s (fun r => s.touchVirt l.ptb va r.size)
  let s := [Eng.v, .m, .x].foldl ring ((s.acornReads l.recPA (l.recPA + 256)).touchVirt l.ptb l.rc.code l.img.codeLen)
  if l.rc.kind = .tasked then s.touchVirt l.ptb l.rc.tlist (128 * min l.rc.ntask (2 ^ 24)) else s

/-- Every page of the control-code section translates with EX. -/
def Package.codePagesOk (p : Package) (l : Launch) : Bool :=
  (pagesIn l.rc.code.toNat (max l.img.codeLen 1)).all (fun g =>
    let va := BitVec.ofNat 64 (max (g * pageSize) l.rc.code.toNat)
    match p.walk l.ptb va 2 with
    | .ok leaf => (match p.checkLeaf leaf.pte va leaf.big .ex with
      | .ok _ => true
      | .error _ => false)
    | .error _ => false)

def inCode (l : Launch) (e : W64) : Bool :=
  e.toNat % 8 == 0 && decide (l.rc.code.toNat ≤ e.toNat) && decide (e.toNat + 8 ≤ l.rc.code.toNat + l.img.codeLen)

/-- The fields of a record in offset order, each with whether it fails (R90). A firing's placements are those in its
entry's clusters (R108, log 108). -/
def State.recChecks (s : State) (l : Launch) (bs : List Byte) : List (Nat × Bool) :=
  let r := l.rc
  let k := fieldAt bs 2 1
  let p := s.acornPkg
  let ring (e : Eng) : Bool := r.ringVa e != 0 && (p.ringImg l.ptb e (r.ringVa e)).isNone
  let noTask := k == 0 && fieldAt bs 0xA0 8 != 0
  [ (0x00, r.version != 1), (0x02, decide (k > 2)), (0x03, decide (r.cls > 1)), (0x04, decide (r.prio > 7)),
    (0x05, decide (r.ttslot > 63) && r.ttslot != 0xFF),
    (0x06, r.ntile == 0 || decide (r.ntile > 16) || decide (r.ntile > p.tilesPerCluster)),
    (0x07, r.nclus == 0 || decide (r.nclus > 16)),
    (0x08, r.nstage == 0 || decide (r.nstage > 16) || r.nclus * r.ntile % r.nstage != 0),
    (0x09, r.tsymm == 0 || (s.placeable r l.mask).isEmpty && r.csymm != 0),
    (0x0A, r.csymm == 0), (0x0B, !allZero ((bs.drop 0x0B).take 5)),
    (0x10, r.code == 0 || r.code.toNat % 8 != 0 || !p.codePagesOk l), (0x18, !inCode l r.entry),
    (0x20, ring .v), (0x28, ring .m), (0x30, ring .x),
    (0x40, !r.root.tag || (match l.objects with
      | none => true
      | some os => p.ringsReach l os || !p.dataPagesOk l os)),
    (0x70, r.measured && (p.measurement l != r.meas || !p.measPagesOk l (l.objects.getD []))),
    (0xA0, noTask || (k == 2 && (r.en == 0 || decide (r.en > 2 ^ 40)))),
    (0xA8, (k == 0 && r.ntask != 0) || (k == 1 && (r.ntask == 0 || decide (r.ntask > 2 ^ 24))) || (k == 2 && (r.eb == 0 || decide (r.eb > 65536)))),
    (0xAC, k == 2 && (r.ek == 0 || decide (r.ek < r.eb) || r.ek % r.eb != 0)),
    (0xB0, (k != 2 && r.nmin != 0) || (k == 2 && (decide (r.nmin < 2) || decide (r.nmin > r.en)))),
    (0xB8, (k != 2 && r.z != 0) || (k == 2 && !posFinite r.z)),
    (0xC0, (k != 2 && r.tau != 0) || (k == 2 && !posFinite r.tau)),
    (0xC8, !allZero ((bs.drop 0xC8).take 56)) ]

/-- The ranges of a task descriptor. -/
def rangesAt (bs : List Byte) (o : Nat) : List (Nat × Nat) :=
  ((List.range 3).map (fun i => (fieldAt bs (o + 16 * i) 8, fieldAt bs (o + 16 * i + 8) 8))).filter (fun r => r.2 != 0)

def rangesMeet (a b : List (Nat × Nat)) : Bool := a.any (fun x => b.any (fun y => decide (x.1 < y.1 + y.2) && decide (y.1 < x.1 + x.2)))

/-- 64-byte lines that write ranges take, in bytes (R161). -/
def lineBytes (rs : List (Nat × Nat)) : Nat := rs.foldl (fun n r => n + ((r.1 + r.2 + 63) / 64 * 64 - r.1 / 64 * 64)) 0

/-- A task descriptor (R95), none where R97 or R161 rejects it. -/
def Launch.taskAt (l : Launch) (p : Package) (i : Nat) : Option TaskRec :=
  match p.readVirt l.ptb .rd (l.rc.tlist + BitVec.ofNat 64 (128 * i)) 128 with
  | none => none
  | some bs =>
    let rds := rangesAt bs 0x20
    let wrs := rangesAt bs 0x50
    if rangesMeet rds wrs || !allZero ((bs.drop 0x14).take 12) || !inCode l (dword bs 0) || decide (lineBytes wrs > 0x4000000) then none
    else some { entry := dword bs 0, arg := dword bs 8, id := BitVec.ofNat 64 (fieldAt bs 0x10 4), rds := rds, wrs := wrs, st := .ready, aborts := 0 }

/-- The task list, or the index of its first descriptor that fails. -/
def Launch.taskList (l : Launch) (p : Package) : Nat → Nat → Except Nat (List TaskRec)
  | 0, _ => .ok []
  | n + 1, i =>
    match l.taskAt p i with
    | none => .error i
    | some t => (l.taskList p n (i + 1)).map (t :: ·)

/-! ### Result records (R91) -/

/-- The 64 bytes of RESULT are writable for the launch. -/
def Package.resultOk (p : Package) (l : Launch) : Bool := l.rc.result.toNat % 8 == 0 && (p.readVirt l.ptb .wr l.rc.result 64).isSome

/-- Bytes written at a virtual address by firmware: an Acorn core's cached write, which invalidates every other copy and
takes the owner's dirty bytes over, and goes home at once (R140, log 107). The walk marks a frame with SCRUB set (R356). -/
def State.writeVirt (s : State) (ptb va : W64) (bs : List Byte) : State :=
  (chunks 8 bs).foldl (fun (acc : State × W64) c =>
    (match acc.1.pkg.walk ptb acc.2 1 with
     | .ok l => (if pteScrub l.pte then acc.1.scrubFrame l acc.2 else acc.1).writeHome (leafPa l.pte acc.2 l.big) c 0
     | .error _ => acc.1, acc.2 + 8)) (s, va) |>.1


/-- The mean's variance, and the canonical NaN below two items. -/
def Almond.var (a : Almond) : W64 := if a.n ≥ 2 then d64Count a.m2 (a.n - 1) else 0x7FF8000000000000

/-- A completion entry at CTAIL, or where 256 entries stand unread from CHEAD on, a wait for room (R458). -/
def Mailbox.put (b : Mailbox) (x : W64 × W64) : Mailbox :=
  if (b.ctail - b.chead).toNat < 256 then
    { b with page := Memory.writeN b.page (0x3000 + 16 * (b.ctail.toNat % 256)) (leBytes 8 x.1.toNat ++ leBytes 8 x.2.toNat), ctail := b.ctail + 1 }
  else { b with waiting := b.waiting ++ [x] }

/-- The completions that wait, as far as the ring has room. -/
def Mailbox.drain (b : Mailbox) : Mailbox := b.waiting.foldl Mailbox.put { b with waiting := [] }

/-- A completion entry for a mailbox submission (R458). -/
def Package.complete (p : Package) (handle : Nat) (result : W64) : Package :=
  { p with boxes := p.boxes.map (fun b =>
      match b.pending.find? (fun x => x.1 == handle) with
      | some x => ({ b with pending := b.pending.filter (fun y => y.1 != handle) } : Mailbox).put (x.2, result)
      | none => b) }

/-- The result record of a launch written, or its Event posted (R91). MEAN, VAR and HW of a launch that is not ESTIMATING
are 0 (log 139). -/
def State.writeResult (s : State) (l : Launch) (status code : Nat) (fwhere fepc : W64) : State :=
  let est := l.rc.kind == .estimating
  let a := l.almond
  let z (v : W64) : W64 := if est then v else 0
  let bs := [BitVec.ofNat 8 status, BitVec.ofNat 8 code, BitVec.ofNat 8 (if est then a.stop else 0), 0, 0, 0, 0, 0]
    ++ dwords [z (BitVec.ofNat 64 a.n), z a.mean, z a.var, z a.hw, fwhere, fepc, s.time]
  if s.pkg.resultOk l then (s.writeVirt l.ptb l.rc.result bs).updP (fun p => p.complete l.handle l.rc.result)
  else s.updP (fun p => (p.post (.resultUnwritable l.handle)).complete l.handle 0)

end Sys2Proof.Machine
end

