-- ==== Sys2Proof/Machine/Schedule.lean ====
section
/-! DEFINITION. Sprout's ring of step schedule records (R393, R394): reading them and writing their STATE. -/

namespace Sys2Proof.Machine

/-- The values of STATE (R394). -/
inductive RecSt where
  | published | fetching | ready | running | done | failed
deriving DecidableEq, Repr, Inhabited

def RecSt.num : RecSt → Nat
  | .published => 0 | .fetching => 1 | .ready => 2 | .running => 3 | .done => 4 | .failed => 5

/-- A page-list entry. -/
structure PageEntry where
  count : Nat
  page : Nat
  lmode : Nat
  objid : Nat
deriving DecidableEq, Repr, Inhabited

/-- A schedule record as Sprout reads it. -/
structure StepRec where
  at_ : Nat
  token : W64
  launch : Nat
  state : Nat
  npl : Nat
  plist : Nat
  tstart : Nat
  deadline : Nat
deriving DecidableEq, Repr, Inhabited

/-- Record n of the ring. -/
def Package.stepRec (p : Package) (n : W32) : StepRec :=
  let a := p.regs.spbase.toNat + 64 * (n.toNat % 64)
  let bs := p.homeN a 64
  { at_ := a, token := dword bs 0x10, launch := fieldAt bs 0x18 2, state := fieldAt bs 0x1A 1, npl := fieldAt bs 0x1C 4, plist := fieldAt bs 0x20 8,
    tstart := fieldAt bs 0x28 8, deadline := fieldAt bs 0x30 8 }

/-- Published records inside the window of 16 beyond SPDONE (R393). -/
def Package.window16 (p : Package) : List W32 :=
  let k := min 16 (p.regs.sppub - p.regs.spdone).toNat
  (List.range k).map (fun i => p.regs.spdone + BitVec.ofNat 32 i)

/-- A page-list entry by its bytes. -/
def PageEntry.ofBytes (bs : List Byte) : PageEntry :=
  { count := fieldAt bs 12 4, page := fieldAt bs 8 4, lmode := fieldAt bs 6 2 % 4, objid := fieldAt bs 0 6 }

/-- The page list of a record, none where it is malformed (R394, R395). -/
def Package.pageList (p : Package) (r : StepRec) : Option (List PageEntry) :=
  if r.npl > 256 ∨ r.plist % 16 ≠ 0 then none
  else
    let es := (List.range r.npl).map (fun i => PageEntry.ofBytes (p.homeN (r.plist + 16 * i) 16))
    let ok (e : PageEntry) : Bool := decide (1 ≤ e.count) && decide (e.count ≤ 4096) && (e.lmode == 1 || e.lmode == 2) && (p.object e.objid).any (fun d => !d.direct)
    if es.all ok then some es else none

/-- The pages of a record: object, page, whether WRITE. -/
def Package.recPages (p : Package) (r : StepRec) : List (Nat × Nat × Bool) :=
  ((p.pageList r).getD []).flatMap (fun e => (List.range e.count).map (fun i => (e.objid, e.page + i, e.lmode == 2)))

/-- STATE written by Sprout, a non-snooping agent (R141). -/
def State.putRecState (s : State) (r : StepRec) (x : RecSt) : State := s.writeHomeLine (r.at_ + 0x1A) [BitVec.ofNat 8 x.num] 0

/-- The step's launch has been bound: its READY record runs (R395), and the record's TOKEN is the launch's, which PTOK takes
at every start (R377, R394). -/
def State.markStep (s : State) (handle : Nat) : State :=
  let rs := (s.pkg.window16.map s.pkg.stepRec).filter (fun r => r.launch == handle)
  if rs.any (fun r => r.state == 3) then s
  else
    match rs.find? (fun r => r.state == 2) with
    | some r => (s.putRecState r .running).updP (fun p => p.updLaunch handle (fun l => { l with token := r.token }))
    | none => s

end Sys2Proof.Machine
end

