-- ==== Sys2Proof/Machine/Sched.lean ====
section
/-! DEFINITION. Binds and dispatch (R107 to R113), the start of a tile for a launch (R92, R143, R151, R210), and how
a launch ends (R93, R94, R340, R388, R467). -/

namespace Sys2Proof.Machine

/-! ### Other tiles of the package -/

/-- A change made with another tile of the package in focus. -/
def State.onTile (s : State) (phys : Nat) (f : State → State) : State :=
  match s.focus s.pkg.num phys with
  | none => s
  | some u => ((f u).focus s.pkg.num s.tile.phys).getD s

/-- A change made at every tile of a list, each in focus in turn. -/
def State.onTiles (s : State) (ps : List Nat) (f : State → State) : State := ps.foldl (fun s p => s.onTile p f) s

/-! ### The start of a tile -/

/-- 64-byte lines of a near range. -/
def wholeLines (a n : Nat) : Nat × Nat := (a / 64 * 64, (a + n + 63) / 64 * 64)

/-- Write-locked near ranges of a measured launch (R352). -/
def Package.nearLocks (p : Package) (l : Launch) : List (Nat × Nat) :=
  if !l.rc.measured then []
  else
    (l.objects.getD []).filterMap (fun o => if o.decl.typ == 1 && o.meas then some (wholeLines o.base o.decl.len) else none)
      ++ (p.rings l).filterMap (fun r =>
        let k := match r.1 with
          | .v => 1 | .m => 2 | .x => 3
        if l.img.meas.contains k then some (wholeLines r.2.2 (2 ^ r.2.1.q * engWordSize r.1)) else none)

/-- The first start of the tile in focus for a launch (R143, R152, R154): its near space is scrub-pending, NEAR
objects take their data, buffers are undeclared. -/
def State.beginTile (s : State) (l : Launch) : State :=
  let s := s.updT (fun t => { t with
    near := { t.near with scrub := nearParts, tags := [], kinds := Vector.replicate 192 .raw, locked := [] },
    bufs := Vector.replicate 64 {} })
  let s := (l.objects.getD []).foldl (fun s o =>
    match o.decl.typ == 1, o.data with
    | true, some d => s.mapNear (fun n => n.writeN o.base d.bytes)
    | _, _ => s) s
  let locks := s.acornPkg.nearLocks l
  (s.mapNear (fun n => { n with locked := locks })).updP (fun p => p.updLaunch l.handle (fun x => { x with begun := setInsert x.begun s.tile.phys }))

/-- The capabilities of a start (R151, R152, R352). -/
def Launch.capsAtStart (l : Launch) : Vector Cap 16 :=
  let t := l.rc.root.tenant
  let near (p : BitVec 12) (b n : Nat) : Cap := { typ := 1, perm := p, base := BitVec.ofNat 64 b, len := BitVec.ofNat 64 n, cursor := BitVec.ofNat 64 b, tenant := t, tag := true }
  Vector.ofFn (fun i =>
    if i.val = 1 then l.rc.root
    else if i.val = 2 then near c2Perm 0 accEnd
    else if i.val = 3 then near c3Perm clusterBase (l.rc.ntile * sliceSize)
    else
      match (l.objects.getD []).find? (fun o => o.decl.reg.toNat == i.val) with
      | some o => { typ := o.decl.typ, perm := if l.rc.measured && o.meas then o.decl.perm &&& ~~~0x400 else o.decl.perm,
                    base := BitVec.ofNat 64 o.base, len := BitVec.ofNat 64 o.decl.len, cursor := BitVec.ofNat 64 o.base, tenant := t, tag := true }
      | none => {})

/-- The fetch capability (R151, R352). -/
def Launch.fetchCap (l : Launch) : Cap :=
  { typ := 7, perm := if l.rc.measured then 0x200 else 0xA00, base := l.rc.code, len := BitVec.ofNat 64 l.img.codeLen, cursor := l.rc.code, tenant := l.rc.root.tenant, tag := true }

/-- The coordinates of a logical tile (R86, R87). -/
def Launch.coords (l : Launch) (lt : Nat) (task itempos : W64) : Par :=
  let r := l.rc
  let u := lt / 16 * r.ntile + lt % 16
  { tile := BitVec.ofNat 64 (lt % 16), clus := BitVec.ofNat 64 (lt / 16), stage := BitVec.ofNat 64 (u * r.nstage / (r.nclus * r.ntile)),
    ntile := BitVec.ofNat 64 r.ntile, nclus := BitVec.ofNat 64 r.nclus, nstage := BitVec.ofNat 64 r.nstage,
    task := task, launch := BitVec.ofNat 64 l.handle, seed := r.seed, itempos := itempos, kind := r.kind }

/-- The coordinates of a tile that runs a bind: STAGE is that of the bind record (R110), at a start and at a resume; where
firmware wrote another one than R87 gives, the record counts (log 132). -/
def Launch.coordsOf (l : Launch) (b : Option Bind) (lt : Nat) (task itempos : W64) : Par :=
  let c := l.coords lt task itempos
  { c with stage := b.elim c.stage (fun b => b.stage.zeroExtend 64) }

/-- The engines of the tile in focus prepared (R209, R210). -/
def State.prepareEngines (s : State) (l : Launch) : State :=
  let rings := s.acornPkg.rings l
  let m := (rings.find? (fun r => r.1 == .m)).map (fun r => r.2.1)
  let mask (k : Nat) (w : W64) : W64 := if k = 0 then w &&& ~~~(0x3FFF#64 <<< 40) else if k = 2 then w &&& ~~~(0xFF#64 <<< 40) else if k = 7 then 0 else w
  let sds : Vector Sd 16 := Vector.ofFn (fun i => { w := vecOf 8 ((((m.bind (·.sds)).getD []).getD i.val []).mapIdx mask) })
  let bank0 := vecOf 6 (((m.bind (·.loop)).getD []).map (fun w => w &&& ~~~(0xFFFF#64 <<< 32)))
  let e : Engs := { ts := firstTs, sds := sds, bank0 := bank0, go := (m.bind (·.loop)).isSome }
  let s := s.mapEng (fun _ => e)
  let s := s.mapNear (fun n => n.writeN 0x1EFFC0 (List.replicate 64 0))
  rings.foldl (fun s r =>
    let n := r.2.1.words.length / engWordSize r.1
    let s := s.mapNear (fun x => x.writeN r.2.2 r.2.1.words)
    let s := s.mapEng (fun e => e.setRing r.1 { q := BitVec.ofNat 4 r.2.1.q, base := BitVec.ofNat 25 r.2.2, rp := 0, wp := BitVec.ofNat 32 n })
    s.record r.1 (fun i => i.toNat)) s

/-- A start of the tile in focus (R18, R92, R151, R210, R330, R377): at `pc`, with `arg` in s2. -/
def State.prepare (s : State) (l : Launch) (lt : Nat) (pc arg task itempos : W64) (aborts : Nat) : State :=
  let s := s.updT (fun t => { t with
    core := { pc := pc, s := ((Vector.replicate 32 0).set 1 l.rc.args).set 2 arg },
    par := l.coordsOf t.disp.bind lt task itempos,
    sys := { kvec := l.kvec, ptb := l.ptb, asid := l.asid &&& 0xFFFF, ptok := l.token, wdlim := t.sys.wdlim, dbgctl := t.sys.dbgctl, abcnt := BitVec.ofNat 64 aborts },
    caps := l.capsAtStart, fetch := l.fetchCap, tenant := l.rc.root.tenant,
    near := { t.near with kinds := Vector.replicate 192 .raw },
    ord := { seq := t.ord.seq, l1 := t.ord.l1, tlb := t.ord.tlb, xtlb := t.ord.xtlb } })
  (s.prepareEngines l).mapDisp (fun d => { d with run := .running, lastDone := s.pkg.time })

/-! ### Accesses under way -/

/-- X commands under way: transfers, and between tasks every started command of the task that is gone (R337 step 3). -/
def Tile.xUnderWay (t : Tile) : Bool :=
  t.eng.cmds.any (fun c => c.move.isSome || !c.writes.isEmpty || (t.disp.run == .between && c.eng == .x && c.started && !c.performed))

/-- Nothing of a tile's accesses is under way but writes that no endpoint will take (R408), and no rejection is on
its way to the tile (R388). -/
def State.tileQuiet (s : State) (t : Tile) : Bool :=
  t.disp.fenced.isEmpty && !t.xUnderWay && t.ord.lq.isEmpty && t.ord.sq.isEmpty && !s.pkg.chans.any (fun c => c.src == t.phys) && !s.pkg.peerCh.any (fun m => m.src == t.phys && !s.peerLost m)
    && !s.pkg.poolCh.any (fun m => m.src == t.phys && m.byWord)

/-! ### Bind records (R110 to R113) -/

/-- The bind record a 64-bit value writes. -/
def bindOf (v : W64) (tt : Bool) (stamp : BitVec 24) : Bind :=
  { tt := tt, prio := v.extractLsb' 59 3, launch := v.extractLsb' 40 16, ltile := v.extractLsb' 36 4,
    lclus := v.extractLsb' 32 4, stage := v.extractLsb' 28 4, age := 0, order := stamp }

/-- A bind into the slot of a tile; a full slot drops it and sets FULLERR. -/
def State.writeBind (s : State) (phys : Nat) (b : Bind) : State :=
  match s.tileAt phys with
  | none => s
  | some t =>
    if t.disp.slot.length ≥ 4 then s.updTile phys (fun t => { t with disp := { t.disp with fullerr := true } })
    else (s.updTile phys (fun t => { t with disp := { t.disp with slot := t.disp.slot ++ [{ b with since := s.pkg.time }] } })).updP (fun p => { p with stamp := p.stamp + 1 })

/-- A launch whose logical tile LCLUS·16 + LTILE a bind has put on a physical tile (R110). -/
def Launch.bound (l : Launch) (b : Bind) (phys : Nat) : Launch :=
  let x := (b.lclus.toNat * 16 + b.ltile.toNat, phys)
  { l with place := if l.place.contains x then l.place else l.place.filter (fun y => y.1 != x.1 && y.2 != phys) ++ [x] }

/-- BIND_WRITE (R110): the record `val` into the slot of the tile in focus; a record with V clear clears
FULLERR (log 44). The schedule record of the launch then runs (R395). -/
def execBindWrite (s : State) : Host.Outcome State Fault Refusal :=
  .next (if s.arg.val.getLsbD 63 then
      let b := bindOf s.arg.val false s.pkg.stamp
      let t := if s.tile.disp.slot.length < 4 then s.updP (fun p => p.updLaunch b.launch.toNat (fun l => l.bound b s.tile.phys)) else s
      (t.writeBind s.tile.phys b).markStep b.launch.toNat
    else s.mapDisp (fun d => { d with fullerr := false }))

/-- EPRIO of a bind under AGECAP (R111): a TT bind does not age. -/
def Bind.eprio (b : Bind) (cap : Nat) : Nat := if b.tt then b.prio.toNat else min (b.prio.toNat + b.age.toNat) (max b.prio.toNat cap)

/-- AGE after a further interval of n ns, if it has passed. -/
def Bind.aged (b : Bind) (n now : Nat) : Bind :=
  if b.tt || n == 0 || decide (now < b.since + n) then b else { b with age := BitVec.ofNat 4 (min 15 (b.age.toNat + 1)), since := b.since + n }

/-- BIND_AGE_TICK (R111): bind `ix` of the slot has waited a further AGEINT, in µs. -/
def execBindAgeTick (s : State) : Host.Outcome State Fault Refusal :=
  .next (s.mapDisp (fun d => { d with slot := d.slot.modify s.arg.ix (fun b => b.aged (1000 * s.pkg.regs.ageint) s.pkg.time) }))

/-- Whether bind a is preferred to b (R112): TT first, then the higher EPRIO, then the lower ORDER. -/
def Bind.before (cap : Nat) (a b : Bind) : Bool :=
  if a.tt != b.tt then a.tt
  else if a.eprio cap != b.eprio cap then decide (a.eprio cap > b.eprio cap)
  else decide (a.order.toNat < b.order.toNat)

/-- The bind that stands first in a slot. -/
def Disp.first (d : Disp) (cap : Nat) : Option Bind :=
  d.slot.foldl (fun m b => match m with
    | none => some b
    | some x => if Bind.before cap b x then some b else some x) none

/-- The tile is free, and its first bind is of a launch. -/
def Tile.readyFor (t : Tile) (cap h : Nat) : Bool := t.disp.run == .free && (t.disp.first cap).any (fun b => b.launch.toNat == h)

/-- The tile's first bind becomes its running one. -/
def Tile.takeBind (t : Tile) (cap : Nat) : Tile :=
  match t.disp.first cap with
  | some b => { t with disp := { t.disp with slot := t.disp.slot.erase b, bind := some b, run := .between, fault := none, preempt := .none, safeIx := none, lineRej := false } }
  | none => t

/-- A launch that may start binds. -/
def Launch.startable (l : Launch) : Bool :=
  (l.st == .queued || l.st == .running) && (if l.rc.kind = .estimating then l.almond.stop == 0 else !l.almond.cancel)

/-- A cancel that still has to end the launch (R467): of an ESTIMATING launch it has no further effect once the launch has
stopped (R117). -/
def Launch.cancelling (l : Launch) : Bool := l.cancelled || (l.almond.cancel && (l.rc.kind != .estimating || l.almond.stop == 0))

/-- A launch whose tiles a cancel stops now is not saved any more: an ESTIMATING one stops at its next merge, or saved. -/
def Launch.savable (l : Launch) : Bool := l.rc.kind == .estimating || !l.almond.cancel

/-- The logical tile that a physical one has in a launch. -/
def Launch.logical (l : Launch) (phys : Nat) : Option Nat := (l.place.find? (fun x => x.2 == phys)).map (·.1)

/-- The launch runs from now on. -/
def State.markRunning (s : State) (h : Nat) : State :=
  s.updP (fun p => p.updLaunch h (fun l => if l.st = .queued then { l with st := .running, started := p.time } else l))

/-- A gang start (R112, R143): every slice is marked before any tile begins. -/
def State.startGang (s : State) (l : Launch) : State :=
  let ps := l.place.map (·.2)
  let s := (s.markRunning l.handle).onTiles ps (fun s => (s.updT (fun t => t.takeBind s.pkg.regs.agecap)).beginTile l)
  l.place.foldl (fun s x => s.onTile x.2 (fun s => (s.updT (fun t => { t with task := {} })).prepare l x.1 l.rc.entry 0 0 0 0)) s

/-- The tile in focus joins the dispatch of a TASKED or ESTIMATING launch. -/
def State.joinDispatch (s : State) (l : Launch) : State :=
  let s := (s.markRunning l.handle).updT (fun t => t.takeBind s.pkg.regs.agecap)
  let lt := (l.logical s.tile.phys).getD 0
  let s := if l.begun.contains s.tile.phys then s else s.beginTile l
  s.updT (fun t => { t with par := l.coordsOf t.disp.bind lt 0 0, tenant := l.rc.root.tenant, task := {} })

/-- The tiles of a placement are all enabled (R2, R464), free for the launch with its bind first, and quiet. -/
def State.gangReady (s : State) (place : List (Nat × Nat)) (h : Nat) : Bool :=
  place.all (fun x => !s.pkg.off x.2 && (s.tileAt x.2).any (fun t => t.readyFor s.pkg.regs.agecap h && s.tileQuiet t))

/-- BIND_DISPATCH (R112): the tile in focus starts its first bind, a SINGLE launch all its binds together, once
what an abandoned task had issued has performed (log 94). A tile that is not enabled starts none (R2, R464). -/
def execBindDispatch (s : State) : Host.Outcome State Fault Refusal :=
  match s.tile.disp.first s.pkg.regs.agecap with
  | none => .next s
  | some b =>
    match s.pkg.launch b.launch.toNat with
    | none => .next s
    | some l =>
      if s.tile.disp.run ≠ .free ∨ !l.startable ∨ !s.tileQuiet s.tile ∨ s.pkg.off s.tile.phys then .next s
      else if l.rc.kind = .single then
        .next (if l.st = .queued ∧ s.gangReady l.place l.handle then s.startGang l else s)
      else .next (s.joinDispatch l)

/-! ### Loading a launch (R90, R97) -/

/-- The session of a measured launch keeps the MEAS of its last 32 (R452). -/
def Package.noteMeas (p : Package) (l : Launch) : Package :=
  if !l.rc.measured then p
  else { p with sessions := p.sessions.map (fun x => if x.num = l.session then let m := x.meas ++ [l.rc.meas]; { x with meas := m.drop (m.length - 32) } else x) }

/-- LOCAL objects take their data, measured pages are locked, and the launch is in the package's list. -/
def State.enterLaunch (s : State) (l : Launch) : State :=
  let os := l.objects.getD []
  let s := os.foldl (fun s o =>
    match o.decl.typ == 2, o.data with
    | true, some d => s.writeVirt l.ptb (BitVec.ofNat 64 o.base) d.bytes
    | _, _ => s) s
  let s := if l.rc.measured then s.lockPages l os else s
  s.updP (fun p => { (p.noteMeas l) with launches := p.launches.filter (fun x => x.handle != l.handle) ++ [l] })

/-- A launch that the loader rejects: its record, and its place among the ended launches. -/
def State.rejectLaunch (s : State) (l : Launch) (code : Nat) (fwhere : W64) : State :=
  (s.writeResult l 2 code fwhere 0).updP (fun p => { p with launches := p.launches.filter (fun x => x.handle != l.handle) ++ [{ l with st := .ended 2, code := code }] })

/-- The launch that a record in memory describes, with what system software hands over. R89 aligns a record to 256 bytes
and names no check: one at another address is read where it stands (log 138). -/
def State.launchOf (s : State) (handle recPA : Nat) : Launch :=
  let x := s.arg
  { handle := handle, recPA := recPA, rc := parseRec (s.acornPkg.homeN recPA 256) (s.pkg.tag (recPA + 0x40)),
    img := x.img, commit := x.commit, token := x.token, session := x.session, ptb := x.ptb, asid := x.asid, kvec := x.kvec }

/-- A launch that has passed its checks takes the placement that R105 gives it now, or waits until tiles free. -/
def State.placeLaunch (s : State) (l : Launch) : State :=
  match s.choosePlace l.rc l.mask with
  | some pl => s.enterLaunch { l with st := .queued, place := pl }
  | none => s.updP (fun p => { p with launches := p.launches.filter (fun x => x.handle != l.handle) ++ [{ l with st := .waiting }] })

/-- The loader (R90, R91, R97, R105): rejection, or a placement, or a wait for tiles to free. `slot` is the
table entry of a firing. -/
def State.load (s : State) (l : Launch) (mask : BitVec 16) (slot : Option Nat) : State :=
  let l := { l with mask := mask, tt := slot.isSome }
  let s := s.touchLaunch l
  let bs := s.acornPkg.homeN l.recPA 256
  let checks := (s.recChecks l bs).map (fun c => if c.1 = 5 then (c.1, c.2 || slot.any (fun i => l.rc.ttslot != i)) else c)
  if !s.pkg.resultOk l then s.rejectLaunch l 0x60 0
  else
    match checks.find? (·.2) with
    | some (off, _) => s.rejectLaunch l off 0
    | none =>
      match (if l.rc.kind = .tasked then l.taskList s.acornPkg l.rc.ntask 0 else .ok []) with
      | .error i => s.rejectLaunch l 0xA0 (BitVec.ofNat 64 i)
      | .ok ts => s.placeLaunch { l with tasks := ts }

/-- Firmware writes to a launch only under its handle; a handle in use is not loaded again. -/
def Package.inUse (p : Package) (h : Nat) : Bool :=
  (p.launch h).any (fun l => match l.st with
    | .ended _ => false
    | _ => true)

/-- The PRIO of its binds: that of its record, capped where it came through a mailbox (R458). -/
def Launch.basePrio (l : Launch) : Nat := l.prioCap.elim l.rc.prio (min l.rc.prio)

/-- What dispatch binds of a loaded launch: one record for each of its tiles (R108, R110). -/
def State.bindTiles (s : State) (l : Launch) (tt : Bool) : State :=
  l.place.foldl (fun s x =>
    s.writeBind x.2 { tt := tt, prio := BitVec.ofNat 3 l.basePrio, launch := BitVec.ofNat 16 l.handle, ltile := BitVec.ofNat 4 (x.1 % 16),
                      lclus := BitVec.ofNat 4 (x.1 / 16), stage := (l.coords x.1 0 0).stage.extractLsb' 0 4, age := 0, order := s.pkg.stamp }) s

/-- Tasks of a class S launch go back to the ready set without a higher ABCNT, and only the dispatch state is
saved (R344); a batch that the stop of R118 has reached is discarded. A tile that has faulted keeps its fault, which ends the
launch (R94). -/
def State.requeueTask (s : State) : State :=
  let h := s.tile.handle
  match s.tile.task.index with
  | some i =>
    if s.tile.disp.run = .faulted then s
    else (s.updP (fun p => p.updLaunch h (fun l => { l with tasks := l.tasks.modify i (fun r => { r with st := if s.tile.task.stop then .committed else .ready }) }))).leaveTask
  | none => s

/-- A launch whose running tasks a save drops: class S with tasks (R344). -/
def Launch.dropsTasks (l : Launch) : Bool := l.rc.cls == 0 && l.rc.kind != .single

/-- The tiles that a launch runs on now. -/
def State.tilesOf (s : State) (l : Launch) : List Tile :=
  l.place.filterMap (fun x => (s.tileAt x.2).bind (fun t => if t.disp.bind.any (fun b => b.launch.toNat == l.handle) then some t else none))

/-- A pre-emption begun at every tile of a launch (R341, R342, R344), but of one that a cancel is stopping (R467). -/
def State.askSave (s : State) (l : Launch) (area : Nat) : State :=
  if !l.savable then s
  else
  let s := s.updP (fun p => p.updLaunch l.handle (fun x => { x with st := .saving, saveAt := some p.time, area := area }))
  if l.dropsTasks then s.onTiles ((s.tilesOf l).map (·.phys)) State.requeueTask
  else
    let how : Preempt := if l.rc.cls = 1 then .classP else .classS
    (s.tilesOf l).foldl (fun s t => s.updTile t.phys (fun t => { t with disp := { t.disp with preempt := how } })) s

/-- The launches of non-TT work on the tiles that a launch is placed on. -/
def State.displaced (s : State) (l : Launch) : List Launch :=
  s.pkg.launches.filter (fun v => v.handle != l.handle && v.st == .running
    && (s.tilesOf v).any (fun t => t.disp.bind.any (fun b => !b.tt) && l.place.any (fun x => x.2 == t.phys)))

/-- TT binds for a loaded launch, one for each of its tiles, pre-empt the launch of every tile that runs non-TT work (R108,
R341). The areas of the launches saved stand one after the other from `area` on (log 110). -/
def State.ttBinds (s : State) (l : Launch) (area : Nat) : State :=
  let s := s.bindTiles l true
  ((s.displaced l).zipIdx).foldl (fun s v => s.askSave v.1 (area + v.2 * 256 * 0x380000)) s

/-- The binds that dispatch or firmware writes of a launch once it has its placement: TT ones of a firing (R108), those of a
submission through a mailbox (R458). Of another launch they come by BIND_WRITE. -/
def State.ownBinds (s : State) (l : Launch) (area : Nat) : State :=
  if l.st ≠ .queued then s else if l.tt then s.ttBinds l area else if l.prioCap.isSome then s.bindTiles l false else s

/-- A saved launch placed again, and its binds written (R112, R347). A time-triggered one displaces what runs on its tiles
(R108, R109). -/
def State.bindAgain (s : State) (l : Launch) (mask : BitVec 16) (area : Nat) : State :=
  match s.choosePlace l.rc mask with
  | none => s
  | some new =>
    let s := s.updP (fun p => p.updLaunch l.handle (fun x => { x with again := new }))
    if l.tt then s.ttBinds { l with place := new } area else s.bindTiles { l with place := new } false

/-- LAUNCH_LOAD (R90, R105): the record at `recPA` under `handle`; a launch that waits under it is placed once tiles have
freed, and then has its binds. -/
def execLaunchLoad (s : State) : Host.Outcome State Fault Refusal :=
  .next (match s.pkg.launch s.arg.handle with
    | some l =>
      if l.st = .waiting then
        let t := s.placeLaunch l
        (t.pkg.launch l.handle).elim t (fun x => t.ownBinds x s.arg.area)
      else if s.pkg.inUse s.arg.handle then s else s.load (s.launchOf s.arg.handle s.arg.recPA) 0xFFFF none
    | none => s.load (s.launchOf s.arg.handle s.arg.recPA) 0xFFFF none)

/-! ### The end of a launch -/

/-- A tile that a launch leaves (R112). -/
def Tile.leave (t : Tile) : Tile :=
  { t with task := {}, eng := t.eng.drop,
           ord := { t.ord with lq := [], sq := [], hold := none, mon := none, nasWait := none, bar := .idle, arrs := [] },
           disp := { t.disp with run := .free, bind := none, fault := none, preempt := .none, safeIx := none, fenced := [], lineRej := false } }

/-- The tiles of a launch freed, its queued binds and what is under way for it, or lost (R408), forgotten. -/
def State.freeTiles (s : State) (l : Launch) : State :=
  let ps := (s.tilesOf l).map (·.phys)
  let s := ps.foldl (fun s p => (s.updP (fun k => { (k.forgetLoads p) with chans := k.chans.filter (fun c => c.src != p), peerCh := k.peerCh.filter (fun m => !(m.src == p && s.peerLost m)) })).updTile p Tile.leave) s
  s.mapTiles (fun t => { t with disp := { t.disp with slot := t.disp.slot.filter (fun b => b.launch.toNat != l.handle) } })

/-- A launch ends (R91, R93, R94): its record is written, its tiles free, its reservations and collectives
go. -/
def State.endLaunch (s : State) (l : Launch) (status code : Nat) (fwhere fepc : W64) : State :=
  let ps := l.place.map (·.2)
  let mine (x : Option Nat) : Option Nat := if x = some l.handle then none else x
  let s := (s.writeResult l status code fwhere fepc).freeTiles l
  -- what it leaves behind is of no launch that runs (R388)
  let s := s.mapTiles (fun t => { t with ord := { t.ord with l1 := t.ord.l1.map (fun x => { x with launch := mine x.launch }) } })
  s.updP (fun p => { (p.updLaunch l.handle (fun x => { x with st := .ended status, code := code, fwhere := fwhere, fepc := fepc, saved := [], again := [] })) with
    poolCh := p.poolCh.map (fun m => { m with launch := mine m.launch }),
    windows := p.windows.filter (fun w => !(w.handle == l.handle && w.overrun)),
    optics := { p.optics with resvs := p.optics.resvs.filter (fun r => r.launch != l.handle) },
    colls := p.colls.filter (fun c => c.away != some l.handle && (c.away.isSome || !ps.contains c.phys)) })

/-- Pool writes of a launch that no gate has answered (R388). -/
def State.poolOpen (s : State) (l : Launch) : Bool :=
  s.pkg.poolCh.any (fun m => m.launch == some l.handle && (match m.op with
    | .load8 _ _ => false
    | _ => true))

/-- FWHERE of a physical tile. -/
def Launch.whereOf (l : Launch) (phys : Nat) : W64 :=
  let lt := (l.logical phys).getD 0
  BitVec.ofNat 64 (lt / 16 * 256 + lt % 16)

/-- A tile stopped from outside at its word boundary (R94, R467): held words are abandoned, commands that
have not started are dropped. -/
def Tile.halt (t : Tile) : Tile :=
  if t.disp.run = .faulted then t
  else { t with eng := t.eng.drop, ord := { t.ord with hold := none, mon := none, nasWait := none, bar := .idle, arrs := [] }, disp := { t.disp with run := .stopped } }

/-- Every tile of a launch stopped. -/
def State.haltAll (s : State) (l : Launch) : State := (s.tilesOf l).foldl (fun s t => s.updTile t.phys Tile.halt) s

/-- FENCED with no word named ends a launch whose pool writes were rejected (R388). -/
def State.endChecked (s : State) (l : Launch) (status : Nat) : State :=
  if ((s.pkg.launch l.handle).any (·.rejected)) then s.endLaunch l 1 0x34 0 0 else s.endLaunch l status 0 0 0

/-- The first tile to fault by TIME, ties to the lower physical position (R94). -/
def firstFault (ts : List Tile) : Option (Nat × FaultRec) :=
  (ts.filterMap (fun t => t.disp.fault.map (fun f => (t.phys, f)))).foldl (fun m x => match m with
    | none => some x
    | some y => if x.2.time < y.2.time ∨ (x.2.time = y.2.time ∧ x.1 < y.1) then some x else some y) none

/-- What the words before the stop have issued has performed (R332), but for what stands behind a signal to a
full semaphore. -/
def State.drained (s : State) (t : Tile) : Bool :=
  (match t.ord.sq with
   | e :: _ => (match e.op with
     | .sem _ => true
     | _ => false)
   | [] => false) && !t.eng.cmds.any (fun c => c.move.isSome || !c.writes.isEmpty) || s.tileQuiet t

/-- The launch may end after a stop: its accesses have performed and its pool writes are answered. -/
def State.stopped (s : State) (l : Launch) : Bool := !s.poolOpen l && (s.tilesOf l).all s.drained

/-- LAUNCH_FAULT_STOP (R94): a tile of the launch `handle` has faulted, or a host write has ended it (R353). -/
def execLaunchFaultStop (s : State) : Host.Outcome State Fault Refusal :=
  match s.pkg.launch s.arg.handle with
  | none => .next s
  | some l =>
    match firstFault ((s.tilesOf l).filter (fun t => t.disp.run == .faulted)) with
    | none => .next (if l.hostFault ∧ s.stopped l then s.endLaunch l 1 FaultCode.codeWrite.num 0 0 else s)
    | some (phys, f) =>
      let s := s.haltAll l
      .next (if s.stopped l then s.endLaunch l 1 f.code.num (l.whereOf phys) f.epc else s)

/-- Every core has applied END and every stream has ended (R93, R210). -/
def Tile.finished (t : Tile) : Bool := t.disp.run == .ended && t.eng.quiescent

/-- LAUNCH_COMPLETE (R93, R98, R118): the launch `handle` has done all its work. -/
def execLaunchComplete (s : State) : Host.Outcome State Fault Refusal :=
  match s.pkg.launch s.arg.handle with
  | none => .next s
  | some l =>
    let ts := s.tilesOf l
    if l.st ≠ .running ∨ s.poolOpen l ∨ l.hostFault ∨ ts.any (fun t => t.disp.run == .faulted) then .next s
    else
      match l.rc.kind with
      | .single => .next (if ts.length = l.place.length ∧ ts.all (fun t => t.finished && s.tileQuiet t) then s.endChecked l 0 else s)
      | .tasked => .next (if !l.almond.cancel ∧ l.tasks.all (fun t => t.st == .committed) ∧ ts.all s.tileQuiet then s.endChecked l 0 else s)
      | .estimating =>
        let idle (t : Tile) : Bool := t.disp.run != .running && t.disp.run != .ended
        .next (if l.almond.stop ≠ 0 ∧ ts.all (fun t => idle t && s.tileQuiet t) then s.endChecked l (if l.almond.stop = 3 then 3 else 0) else s)

/-- Whether a requester may cancel a launch (R467). -/
def mayCancel (r : Requester) (l : Launch) : Bool :=
  match r with
  | .acornF | .acornK => true
  | .ide n => n == l.session
  | _ => false

/-- A running task ended without commit and without a requeue (R126, R467), while it is being saved too. -/
def State.dropTask (s : State) : State :=
  if s.tile.disp.run = .running ∨ s.tile.disp.run = .ended ∨ s.tile.disp.run = .saving then s.stopTask else s

/-- LAUNCH_CANCEL (R467). One that has been accepted goes on whoever makes the step. -/
def execLaunchCancel (s : State) : Host.Outcome State Fault Refusal :=
  match s.pkg.launch s.arg.handle with
  | none => .next s
  | some l =>
    if !mayCancel s.arg.req l && !l.cancelling || l.hostFault then .next s
    else
      let mark (s : State) : State := s.updP (fun p => p.updLaunch l.handle (fun x => { x with almond := { x.almond with cancel := true } }))
      match l.st with
      | .ended _ => .next s
      | .saved =>
        -- it ends without being resumed, once its pool writes are answered (R388); a stop that came first stands (R117)
        if l.rc.kind = .estimating ∧ l.almond.stop ≠ 0 ∧ !l.cancelled then .next s
        else if s.poolOpen l then .next (s.updP (fun p => p.updLaunch l.handle (fun x => { x with cancelled := true })))
        else .next (s.endChecked { l with almond := { l.almond with stop := 3 } } 3)
      | .waiting | .queued =>
        -- of an ESTIMATING launch the stop comes at its next merge (R117)
        if l.rc.kind = .estimating then .next (mark s) else .next (s.endLaunch l 3 0 0 0)
      | _ =>
        match l.rc.kind with
        | .single =>
          let t := (mark s).haltAll l
          .next (if t.stopped l then t.endChecked l 3 else t)
        | .tasked =>
          let t := (mark s).onTiles ((s.tilesOf l).map (·.phys)) State.dropTask
          .next (if t.stopped l then t.endChecked l 3 else t)
        | .estimating => .next (if l.almond.stop = 0 then mark s else s)

/-! ### The watchdog (R340) -/

/-- Logical tiles in cluster then tile order. -/
def Launch.inOrder (l : Launch) : List (Nat × Nat) := (List.range 256).filterMap (fun lt => l.place.find? (fun x => x.1 == lt))

/-- WATCHDOG: the launch `handle` has made no progress for WDLIM. A halted tile pauses the count. -/
def execWatchdog (s : State) : Host.Outcome State Fault Refusal :=
  match s.pkg.launch s.arg.handle with
  | none => .next s
  | some l =>
    let ts := s.tilesOf l
    let last := ts.foldl (fun m t => max m t.disp.lastDone) l.started
    let lim := ts.foldl (fun m t => max m t.sys.wdlim.toNat) 0
    if l.st ≠ .running ∨ l.hostFault ∨ ts.isEmpty ∨ ts.any (fun t => t.sys.dbgctl.getLsbD 1) ∨ s.pkg.time < last + lim then .next s
    else
      let held := l.inOrder.findSome? (fun x => (ts.find? (fun t => t.phys == x.2)).bind (fun t => t.ord.hold.map (fun h => (x.2, h.pc))))
      let t := (s.onTiles (ts.map (·.phys)) State.flushMoves).haltAll l
      -- no record is written while a pool write of the launch is unanswered (R388)
      .next (if t.poolOpen l then s else t.endLaunch l 1 FaultCode.watchdog.num ((held.map (fun x => l.whereOf x.1)).getD 0) ((held.map (·.2)).getD 0))

end Sys2Proof.Machine
end

