-- ==== Sys2Proof/Machine/Tasks.lean ====
section
/-! DEFINITION. Tasks: dispatch, commit and the merge of batches (R95 to R98, R115 to R118, R160), and the
firings of the time-triggered table (R107 to R109). -/

namespace Sys2Proof.Machine

/-! ### Dispatch (R96, R98, R115, R337) -/

/-- A range widened to 256-byte boundaries (R96). -/
def widen (r : Nat × Nat) : Nat × Nat := (r.1 / 256 * 256, (r.1 + r.2 + 255) / 256 * 256 - r.1 / 256 * 256)

/-- Two tasks conflict (R96). -/
def TaskRec.conflicts (a b : TaskRec) : Bool :=
  let ar := a.rds.map widen
  let aw := a.wrs.map widen
  let br := b.rds.map widen
  let bw := b.wrs.map widen
  rangesMeet aw (br ++ bw) || rangesMeet bw (ar ++ aw)

/-- A task of the list that may be dispatched as far as its own state goes (R337 step 5). -/
def TaskSt.eligible (st : TaskSt) (p : Package) (ptb : W64) : Bool :=
  match st with
  | .ready => true
  | .waitVa va acc =>
    match p.walk ptb va acc with
    | .ok _ => true
    | .error _ => false
  | .waitPage obj page write => (p.frameOf obj page).any (fun f => (f.write || !write) && !f.expired p.time)
  | _ => false

/-- The earlier tasks of the list that conflict with a task have committed. -/
def clearToStart (ts : List TaskRec) (i : Nat) (t : TaskRec) : Bool := (ts.take i).all (fun x => x.st == .committed || !x.conflicts t)

/-- The lowest eligible list index. -/
def Launch.nextTask (l : Launch) (p : Package) : Option Nat :=
  (List.range l.tasks.length).find? (fun i => match l.tasks[i]? with
    | some t => t.st.eligible p l.ptb && clearToStart l.tasks i t
    | none => false)

/-- The record of batch c: its one read range is the bounds of the launch's ROOT (R326). -/
def Launch.batch (l : Launch) (c : Nat) : TaskRec :=
  { entry := l.rc.entry, arg := 0, id := BitVec.ofNat 64 c, rds := [(l.rc.root.base.toNat, l.rc.root.len.toNat)], wrs := [], st := .ready, aborts := 0 }

/-- The task that a tile takes: one of the list, or in an ESTIMATING launch the next batch (R115). -/
def Launch.pick (l : Launch) (p : Package) : Option (Launch × Nat) :=
  match l.nextTask p with
  | some i => some (l, i)
  | none =>
    let c := l.tasks.length
    if l.rc.kind = .estimating ∧ c * l.rc.eb < l.rc.en then some ({ l with tasks := l.tasks ++ [l.batch c] }, c) else none

/-- No task is dispatched after a stop, and none of a TASKED launch after a cancel (R118, R467). -/
def Launch.dispatches (l : Launch) : Bool :=
  l.st == .running && (match l.rc.kind with
    | .single => false
    | .tasked => !l.almond.cancel
    | .estimating => l.almond.stop == 0)

/-- Task `i` of the launch starts on the tile in focus (R92, R115). -/
def State.startTask (s : State) (l : Launch) (i : Nat) (t : TaskRec) : State :=
  let phys := s.tile.phys
  let s := s.updP (fun p => p.updLaunch l.handle (fun _ => { l with tasks := l.tasks.modify i (fun r => { r with st := .running phys }) }))
  let s := s.prepare l ((l.logical phys).getD 0) t.entry t.arg t.id (if l.rc.kind = .estimating then BitVec.ofNat 64 (i * l.rc.eb) else 0) t.aborts
  s.mapTask (fun _ => { index := some i, rds := t.rds, wrs := t.wrs, virt := l.rc.kind == .estimating && l.rc.root.typ != 1 })

/-- TASK_DISPATCH (R98): the tile in focus, between tasks of its launch, takes the eligible task with the
lowest list index, once started transfers of the last one, and the accesses that it had issued, have performed
(R337 step 3; log 94). -/
def execTaskDispatch (s : State) : Host.Outcome State Fault Refusal :=
  match s.tile.disp.bind.bind (fun b => s.pkg.launch b.launch.toNat) with
  | none => .next s
  | some l =>
    if s.tile.disp.run ≠ .between ∨ !s.tileQuiet s.tile ∨ s.tile.disp.preempt ≠ .none ∨ !l.dispatches then .next s
    else
      match l.pick s.pkg with
      | none => .next s
      | some (l, i) =>
        match l.tasks[i]? with
        | none => .next s
        | some t => .next (s.startTask l i t)

/-! ### Commit (R98, R160) -/

/-- The task's held effects with their places (R359, log 104). -/
def State.placeStores : List HeldStore → State → Try (State × List HeldStore)
  | [], s => .ok (s, [])
  | h :: r, s =>
    match s.taskPlace h.addr with
    | .error fi => .error fi
    | .ok (s, l) =>
      match placeStores r s with
      | .error fi => .error fi
      | .ok (s, hs) => .ok (s, { h with loc := l } :: hs)

def State.placeAtomics : List Deferred → State → Try (State × List Deferred)
  | [], s => .ok (s, [])
  | d :: r, s =>
    match s.taskPlace d.addr with
    | .error fi => .error fi
    | .ok (s, l) =>
      match placeAtomics r s with
      | .error fi => .error fi
      | .ok (s, ds) => .ok (s, { d with loc := l } :: ds)

/-- Every held effect of the task has its place, or the fault of the first that has none: then none performs (R160). -/
def State.placeTask (s : State) : Try State :=
  match State.placeStores s.tile.task.held s with
  | .error fi => .error fi
  | .ok (s, hs) =>
    match State.placeAtomics s.tile.task.deferred s with
    | .error fi => .error fi
    | .ok (s, ds) => .ok (s.mapTask (fun t => { t with held := hs, deferred := ds }))

/-- A held store performs. -/
def State.performHeld (s : State) (h : HeldStore) : State :=
  match h.loc with
  | .pkgMem pa ca => s.storePkg pa ca h.bytes h.tag s.tile.sys.ptok
  | .cluster tile off => s.storeSlice tile off h.bytes h.tag false
  | .regs off => s.tileRegRecord off h.bytes.length true
  | _ => s

/-- A deferred atomic performs; a cas compares with s0, its destination. -/
def State.performDeferred (s : State) (d : Deferred) : State :=
  (s.atomicAt d.loc (((d.fn - 0x10) >>> 2).extractLsb' 0 3) d.opnd 0 s.tile.sys.ptok).1

/-- The held effects of a task, then its fence at package scope. -/
def State.performTask (s : State) : State :=
  let s := s.tile.task.held.foldl State.performHeld s
  (s.tile.task.deferred.foldl State.performDeferred s).releaseAll

/-- The task ends committed; a batch's moments go to Almond. -/
def State.commitTask (s : State) (i : Nat) : State :=
  let h := s.tile.handle
  let f := s.tile.task.flush
  let s := s.performTask
  let s := s.updP (fun p => p.updLaunch h (fun l => { l with
    tasks := l.tasks.modify i (fun r => { r with st := .committed }),
    almond := match f with
      | some m => if l.almond.stop = 0 then { l.almond with held := l.almond.held ++ [(i, m.1, m.2.1, m.2.2)] } else l.almond
      | none => l.almond }))
  s.leaveTask

/-- TASK_COMMIT (R98, R160): the task of the tile in focus has applied END and its streams have ended. A batch
that the stop of R118 has reached is discarded. -/
def execTaskCommit (s : State) : Host.Outcome State Fault Refusal :=
  match s.tile.task.index with
  | none => .next s
  | some i =>
    -- no task of a launch commits after a fatal fault (R338)
    let dead := (s.pkg.launch s.tile.handle).any (fun l => (s.tilesOf l).any (fun t => t.disp.run == .faulted))
    if s.tile.disp.run ≠ .ended ∨ !s.tile.eng.quiescent ∨ !s.coreQuiet ∨ !s.tileQuiet s.tile ∨ dead then .next s
    else if s.tile.task.stop then .next s.stopTask
    else
      match s.placeTask with
      | .error fi => .next (s.lateFault fi s.tile.core.pc)
      | .ok t => .next (t.commitTask i)

/-! ### Almond (R116, R117) -/

/-- A merge (R116). -/
def Almond.merge (a : Almond) (nB : Nat) (mean m2 : W64) : Almond :=
  let n := a.n + nB
  let d := d64 .sub mean a.mean
  let w := d64Count (d64OfNat nB) n
  { a with n := n, mean := d64 .add a.mean (d64 .mul d w),
           m2 := d64 .add (d64 .add a.m2 m2) (d64 .mul (d64 .mul d d) (d64 .mul (d64OfNat a.n) w)), next := a.next + 1 }

/-- Round(sqrt(x)) of a binary64 value. -/
def d64Sqrt (x : W64) : W64 := BitVec.ofNat 64 (fmt64.round .rne (FVal.sqrt (fmt64.decode x.toNat)).1).1

/-- The half-width H (R117). -/
def Almond.half (a : Almond) (z : W64) : W64 := d64 .mul z (d64Sqrt (d64Count a.m2 ((a.n - 1) * a.n)))

/-- The check after a merge (R117), and a cancel that waits for it. -/
def Almond.check (a : Almond) (r : LaunchRec) : Almond :=
  let a := if a.n % r.ek = 0 ∨ a.n = r.en then
      (if a.n < r.nmin then (if a.n = r.en then { a with stop := 2 } else a)
       else
         let h := a.half r.z
         { a with hw := h, stop := if d64lt h r.tau then 1 else if a.n = r.en then 2 else 0 })
    else a
  if a.stop = 0 ∧ a.cancel then { a with stop := 3 } else a

/-- The next batch in order merged and checked; a stop discards what Almond holds back (R118). -/
def Almond.step (a : Almond) (r : LaunchRec) : Almond :=
  if a.stop ≠ 0 then a
  else
    match a.held.find? (fun x => x.1 == a.next) with
    | none => a
    | some x =>
      let b := ({ a with held := a.held.erase x }.merge x.2.1.toNat x.2.2.1 x.2.2.2).check r
      if b.stop ≠ 0 then { b with held := [] } else b

/-- ALMOND_MERGE (R116, R117): the next batch of the launch `handle`. -/
def execAlmondMerge (s : State) : Host.Outcome State Fault Refusal :=
  .next (s.updP (fun p => p.updLaunch s.arg.handle (fun l => if l.rc.kind = .estimating then { l with almond := l.almond.step l.rc } else l)))

/-- ESTIMATE_STOP_ARRIVAL (R118): the stop of the launch reaches the tile in focus. A tile with no batch frees
when the launch ends. -/
def execEstimateStopArrival (s : State) : Host.Outcome State Fault Refusal :=
  .next (if (s.pkg.launch s.tile.handle).any (fun l => l.rc.kind == .estimating && l.almond.stop != 0) && s.tile.task.index.isSome
    then s.mapTask (fun t => { t with stop := true }) else s)

/-! ### The time-triggered table (R107 to R109) -/

/-- The start of slot s of the cycle that TIME is in, or none before TTBASE. -/
def Package.slotStart (p : Package) (slot : Nat) : Option Nat :=
  let r := p.regs
  if p.time < r.ttbase.toNat ∨ r.ttlen = 0 then none
  else
    let q := (p.time - r.ttbase.toNat) / (64 * r.ttlen.toNat)
    some (r.ttbase.toNat + (64 * q + slot) * r.ttlen.toNat)

/-- Slot `slot` is the one that TIME is in. -/
def Package.inSlot (p : Package) (slot : Nat) : Bool :=
  (p.slotStart slot).any (fun t => decide (t ≤ p.time) && decide (p.time < t + p.regs.ttlen.toNat))

/-- The end of the window of an entry that fires at `start`. -/
def Package.windowEnd (p : Package) (e : TtEntry) (start : Nat) : Nat := start + (e.len.toNat + 1) * p.regs.ttlen.toNat

def Package.updEntry (p : Package) (i : BitVec 6) (f : TtEntry → TtEntry) : Package :=
  { p with tt := p.tt.set i.toFin (f p.tt[i.toFin]) }

/-- Whether a firing of an entry is skipped: an overrun launch that skips the next firing, or another
entry's window that has not overrun, holds one of its clusters. -/
def Package.skipsFiring (p : Package) (i : BitVec 6) (e : TtEntry) : Bool :=
  p.windows.any (fun w => w.clmask &&& e.clmask != 0 && (if w.overrun then w.skipNext else w.entry != i && w.handle != 0))

/-- A skipped firing: SKIPS rises, the overrun's skip is used up, and a window marks its end, where the rule
applies again. -/
def Package.skip (p : Package) (i : BitVec 6) (e : TtEntry) (start : Nat) : Package :=
  let hit (w : TtWindow) : Bool := w.overrun && w.skipNext && w.clmask &&& e.clmask != 0
  let p := p.updEntry i (fun e => { e with skips := min 4095 (e.skips + 1) })
  if p.windows.any hit then
    { p with windows := p.windows.map (fun w => if hit w then { w with skipNext := false } else w)
                ++ [{ entry := i, handle := 0, clmask := e.clmask, overrun := false, skipNext := false, ends := p.windowEnd e start }] }
  else p


/-- The saved launch that the next firing of an entry resumes (R109, R347). -/
def Package.savedOf (p : Package) (e : TtEntry) : Option Launch :=
  p.launches.find? (fun l => l.handle == e.launch.toNat && l.tt && l.st == .saved)

/-- TT_FIRING (R108, R109): entry `ix` at the start of its slot, once in the slot (log 109). A saved launch of the entry takes
the place of a new one: it is bound again, and LAUNCH_RESUME goes on with it. A launch whose handle is in use is not loaded again, and no skip
is counted (log 108). The launches that the firing displaces are saved from `area` on. -/
def execTtFiring (s : State) : Host.Outcome State Fault Refusal :=
  let i := BitVec.ofNat 6 s.arg.ix
  let e := s.pkg.tt[i.toFin]
  let open_ (s : State) (h start : Nat) : State :=
    s.updP (fun p => { p with windows := p.windows ++ [{ entry := i, handle := h, clmask := e.clmask, overrun := false, skipNext := false, ends := p.windowEnd e start }] })
  if !e.en || !s.pkg.inSlot i.toNat || e.fired == s.pkg.slotStart i.toNat then .next s
  else
    let start := (s.pkg.slotStart i.toNat).getD 0
    let s := s.updP (fun p => p.updEntry i (fun e => { e with fired := some start }))
    if s.pkg.skipsFiring i e then .next (s.updP (fun p => p.skip i e start))
    else
      match s.pkg.savedOf e with
      | some l => .next (open_ (if l.again.isEmpty then s.bindAgain l e.clmask s.arg.area else s) l.handle start)
      | none =>
        if s.pkg.inUse e.launch.toNat then .next s
        else
          let h := e.launch.toNat
          let s := s.load (s.launchOf h e.recPA) e.clmask (some i.toNat)
          match s.pkg.launch h with
          | some l => .next (if l.st = .queued then open_ (s.ttBinds l s.arg.area) h start else if l.st = .waiting then open_ s h start else s)
          | none => .next s

/-- The physical clusters in which the tiles of a launch stand. -/
def Launch.clusters (l : Launch) : BitVec 16 := l.place.foldl (fun m x => m ||| (1#16 <<< (x.2 / 16))) 0

/-- RULE at the end of a window whose launch still runs (R109). The clusters of an overrun launch are those that its tiles
stand in (log 108). -/
def State.overrun (s : State) (w : TtWindow) (l : Launch) (area : Nat) : State :=
  if s.pkg.tt[w.entry.toFin].rule then
    (s.updP (fun p => { p with windows := p.windows.filter (fun x => x.handle != w.handle) })).askSave l area
  else
    s.updP (fun p => { p with windows := p.windows.map (fun x => if x.handle = w.handle then { x with overrun := true, skipNext := true, clmask := l.clusters } else x) })

/-- TT_WINDOW_END (R109): the first window of entry `ix` that ends. At the end of a skipped firing's window the
rule applies again to each overrun that it was skipped for. A pre-empted launch is saved from `area` on. The window of a launch
that does not run yet closes, and the launch stays queued (log 108). -/
def execTtWindowEnd (s : State) : Host.Outcome State Fault Refusal :=
  let i := BitVec.ofNat 6 s.arg.ix
  match s.pkg.windows.find? (fun w => w.entry == i && !w.overrun && decide (w.ends ≤ s.pkg.time)) with
  | none => .next s
  | some w =>
    let s := if w.handle = 0 then s.updP (fun p => { p with windows := p.windows.erase w }) else s
    let done := if w.handle = 0 then s.pkg.windows.filter (fun x => x.overrun && x.clmask &&& w.clmask != 0) else [w]
    .next (done.foldl (fun s x =>
      match s.pkg.launch x.handle with
      | some l =>
        if l.st = .running then s.overrun x l s.arg.area
        else s.updP (fun p => { p with windows := p.windows.filter (fun y => y.handle != x.handle) })
      | none => s.updP (fun p => { p with windows := p.windows.filter (fun y => y.handle != x.handle) })) s)

end Sys2Proof.Machine
end

