-- ==== Sys2Proof/Machine/Entry.lean ====
section
/-! DEFINITION. What stops the control core at a word boundary from outside (R332), and the entries that are
taken there: engine faults and messages (R331, R333, R335, R363). -/

namespace Sys2Proof.Machine

/-! ### The boundary (R332) -/

/-- A stop asked for from outside: the core stands at a boundary, to go on at `pc`, its barrier arrival counted
or not; or it first takes the step to the state given. -/
inductive Boundary where
  | at (s : State) (pc : W64) (arr : Bool)
  | later (s : State)

/-- The idle word that holds the core, if that is what holds it. -/
def State.heldIdle (s : State) : Option Hdr :=
  match s.fetch with
  | .error _ => none
  | .ok (_, w) =>
    match Sys2Proof.decode w with
    | .ok (.idle h) => some h
    | _ => none

/-- A hold abandoned: the word has had no effect. -/
def State.abandon (s : State) : State :=
  (s.mapOrd (fun o => { o with hold := none, mon := none, bar := .idle })).mapEng (fun e => { e with settling := false })

/-- A hold whose barrier stays where it is. -/
def State.unhold (s : State) : State := s.mapOrd (fun o => { o with hold := none })

/-- The core stopped from outside (R332). mwait and idle complete; a barrier word whose arrival has counted, its hold begun
or just gone back to, is entered again with ARR; every other holding word is abandoned, and so is an idle word that waits
for a register and has not begun. -/
def State.interrupt (s : State) : Boundary :=
  let pc := s.tile.core.pc
  if s.tile.ord.nasWait.isSome then .later s
  else if s.tile.ord.bar.counted then .at s.unhold pc true
  else if !s.tile.ord.hold.any (fun h => h.pc == pc) then .at s pc false
  else if s.tile.ord.mon.isSome then .later s.wakeMine
  else
    match s.heldIdle with
    | some h => if s.nasPending h then .at s.abandon pc false else .later (s.nasAfter s h (s.predField h.pred))
    | none => .at s.abandon pc false

/-! ### Engine faults and messages -/

/-- A stream's fault leaves the list: of X the faults of its other commands go with it, and the started
commands that faulted will run again at a restart (R335). -/
def Engs.deliver (e : Engs) (f : EFault) : Engs :=
  let again (c : Cmd) : Bool := f.eng == .x && c.eng == .x && c.started && !c.performed && e.faults.any (fun g => g.eng == .x && g.idx == c.idx)
  { e with faults := e.faults.filter (fun g => g.eng != f.eng), cmds := e.cmds.map (fun c => if again c then { c with left := 0, caps := none } else c) }

/-- An engine fault delivered at a boundary: kind 0b01, or the end of the launch (R331, R335). -/
def State.enterEngine (s : State) (f : EFault) (pc : W64) (arr : Bool) : State :=
  let ok := s.canTrap
  let s := (s.mapEng (fun e => e.deliver f)).writeEFault f.eng f.idx { code := f.code, eval := some f.eval } f.epc
  if ok then s.enter 1 pc arr else s.fatal f.code f.epc

/-- The message of the tile taken at a boundary. -/
def State.enterPosted (s : State) (m : W32) (pc : W64) (arr : Bool) : State :=
  (s.mapDisp (fun d => { d with msg := none })).takeMessage (m.zeroExtend 64) pc arr

/-- What waits for the core's next boundary (R333): an engine fault while NEST = 0, then a message while
NEST = 0 and IE = 1. A halted core takes none (R349), and a wait that has been woken completes first. At a core that has applied END an engine fault is fatal
(R335). -/
def State.boundaryEntry (s : State) : Option State :=
  if s.tile.disp.run = .ended then s.endedFault
  else if s.tile.disp.run ≠ .running ∨ s.tile.sys.dbgctl &&& 3 ≠ 0 ∨ kstatNest s.tile.sys.kstat ∨ s.tile.ord.mon.any (·.woken) then none
  else
    match s.tile.eng.nextFault with
    | some f =>
      match s.interrupt with
      | .at t pc arr => some (t.enterEngine f pc arr)
      | .later t => some t
    | none =>
      match s.tile.disp.msg with
      | none => none
      | some m =>
        if !kstatIe s.tile.sys.kstat then none
        else
          match s.interrupt with
          | .at t pc arr => some (t.enterPosted m pc arr)
          | .later t => some t

/-- TRAP_ENTRY (R331): the entry that waits for the core in focus. A word that must complete first takes its
step, and the entry follows. -/
def execTrapEntry (s : State) : Host.Outcome State Fault Refusal := .next (s.boundaryEntry.getD s)

end Sys2Proof.Machine
end

