-- ==== Sys2Proof/Machine/Preempt.lean ====
section
/-! DEFINITION. Pre-emption of a launch and its resume (R341 to R347, R369). -/

namespace Sys2Proof.Machine

/-! ### The request (R341) -/

/-- The launch saved, with what dispatch keeps; its tiles are free, its reservations are released, and those that it held
will be asked for again; the other parties of its collectives wait (R343, R413, R436). -/
def State.markSaved (s : State) (l : Launch) (sv : List SavedTile) : State :=
  let held := s.pkg.optics.resvs.filter (fun r => r.launch == l.handle && r.granted)
  (s.freeTiles l).updP (fun p => { (p.updLaunch l.handle (fun x => { x with st := .saved, saveAt := none, saved := sv, resvs := held })) with
    colls := p.colls.map (fun c => if c.away.isNone ∧ l.place.any (fun x => x.2 == c.phys) then { c with away := some l.handle } else c),
    optics := { p.optics with resvs := p.optics.resvs.filter (fun r => r.launch != l.handle) } })

/-- PREEMPT_REQUEST (R341): the launch `handle` is saved from `area` on. -/
def execPreemptRequest (s : State) : Host.Outcome State Fault Refusal :=
  match s.pkg.launch s.arg.handle with
  | none => .next s
  | some l => .next (if l.st = .running then s.askSave l s.arg.area else s)  -- askSave leaves a launch that a cancel stops

/-! ### Areas -/

/-- The area of a logical tile: areas stand 0x38_0000 bytes apart, in unit order (R87). -/
def Launch.areaOf (l : Launch) (lt : Nat) : Nat := l.area + (lt / 16 * l.rc.ntile + lt % 16) * 0x380000

/-- What dispatch keeps of the tile in focus. -/
def State.savedTile (s : State) (lt area form : Nat) (run : RunSt) : SavedTile :=
  { lt := lt, area := area, form := form, run := run, task := s.tile.task, taskId := s.tile.par.task, level := s.tile.core.level,
    bar := s.tile.ord.bar, arrs := s.tile.ord.arrs, kinds := s.tile.near.kinds }

/-! ### Class P (R342, R343) -/

/-- The core in focus stops at its next boundary, and its engines start nothing more. -/
def State.stopForSave (s : State) : State :=
  if s.tile.disp.run ≠ .running then s.holdStreams
  else
    match s.interrupt with
    | .at t pc _ => ((t.setPc pc).mapDisp (fun d => { d with run := .saving })).holdStreams
    | .later t => t

/-- The tile has stopped, its engines have settled, and nothing of it is under way. -/
def State.readyToSave (s : State) : Bool :=
  s.tile.disp.run != .running && s.tile.disp.run != .faulted && s.tile.eng.settled && s.coreQuiet && s.tileQuiet s.tile
    && !s.pkg.poolCh.any (fun m => m.src == s.tile.phys)

/-- The tile in focus written to its area as class P: rel.p, then the area. -/
def State.saveFull (s : State) (area : Nat) : State :=
  let s := s.releaseAll
  s.writeArea area s.tile s.tile.core.pc s.tile.arr 0 0 wholeNear

/-- Every tile of a launch saved as class P, and the list that dispatch keeps. -/
def State.saveAllFull (s : State) (l : Launch) : List Tile → List SavedTile → State
  | [], acc => s.markSaved l acc
  | t :: r, acc =>
    let lt := (l.logical t.phys).getD 0
    let a := l.areaOf lt
    let run : RunSt := match t.disp.run with
      | .saving | .stopped => .running
      | x => x
    let sv := (s.focus s.pkg.num t.phys).elim acc (fun u => acc ++ [u.savedTile lt a 0 run])
    (s.onTile t.phys (fun u => u.saveFull a)).saveAllFull l r sv

/-- CLASS_P_SAVE (R342): a step of the save of the launch `handle`: cores stop, engines settle, and once all
have, every area is written. -/
def execClassPSave (s : State) : Host.Outcome State Fault Refusal :=
  match s.pkg.launch s.arg.handle with
  | none => .next s
  | some l =>
    if l.st ≠ .saving ∨ !l.savable ∨ !(s.tilesOf l).all (fun t => t.disp.preempt == .classP) then .next s
    else
      let ps := (s.tilesOf l).map (·.phys)
      let s := s.onTiles ps State.stopForSave
      let ready := ps.all (fun p => (s.focus s.pkg.num p).any State.readyToSave)
      .next (if ready then s.saveAllFull l (s.tilesOf l) [] else s)

/-! ### Class S (R344) -/

/-- Registers outside a LIVE mask are saved as zero. -/
def Tile.masked (t : Tile) (live : W64) : Tile :=
  { t with
    core := { t.core with
      s := Vector.ofFn (fun i => if live.getLsbD i.val && i.val != 0 then t.core.s[i] else 0),
      p := Vector.ofFn (fun i => if i.val = 0 then true else live.getLsbD (31 + i.val) && t.core.p[i]),
      lc := if live.getLsbD 39 then t.core.lc else 0 },
    caps := Vector.ofFn (fun i => if i.val ≠ 0 ∧ live.getLsbD (39 + i.val) then t.caps[i] else {}) }

/-- The tile in focus, stopped at safe word `ix`, written to its area as class S. -/
def State.saveLive (s : State) (l : Launch) (area ix : Nat) : State :=
  match s.pkg.safeEntry l ix with
  | none => s.saveFull area
  | some e =>
    let s := s.releaseAll
    s.writeArea area (s.tile.masked e.live) s.tile.core.pc false 1 ix
      ((stackAddr s.tile.core.ssbase, stackAddr s.tile.core.ssbase + (s.tile.core.ssp - s.tile.core.ssbase).toNat) :: e.ranges)

/-- Every tile of a launch saved as class S. -/
def State.saveAllLive (s : State) (l : Launch) : List Tile → List SavedTile → State
  | [], acc => s.markSaved l acc
  | t :: r, acc =>
    let lt := (l.logical t.phys).getD 0
    let a := l.areaOf lt
    let ix := t.disp.safeIx.getD 0
    let sv := (s.focus s.pkg.num t.phys).elim acc (fun u => acc ++ [u.savedTile lt a (if (s.pkg.safeEntry l ix).isSome then 1 else 0) .running])
    (s.onTile t.phys (fun u => u.saveLive l a ix)).saveAllLive l r sv

/-- CLASS_S_SAVE (R344): every tile of the launch `handle` has stopped at a safe word. Of a launch with tasks only
the dispatch state is saved, once what the tasks had issued has performed (log 94). -/
def execClassSSave (s : State) : Host.Outcome State Fault Refusal :=
  match s.pkg.launch s.arg.handle with
  | none => .next s
  | some l =>
    let ts := s.tilesOf l
    let ready := ts.all (fun t => t.disp.preempt == .classS && t.disp.run == .stopped && t.disp.safeIx.isSome && t.eng.settled && s.tileQuiet t)
    .next (if l.st ≠ .saving ∨ !l.savable then s
      -- a tile that has faulted ends the launch (R94)
      else if l.dropsTasks then (if ts.all (fun t => s.tileQuiet t && t.disp.run != .faulted) ∧ !s.poolOpen l then s.markSaved l [] else s)
      else if ready then s.saveAllLive l ts [] else s)

/-- SPLIM_EXPIRY (R344): the tiles of the launch `handle` have not all stopped within SPLIM; the save goes on
as class P. -/
def execSplimExpiry (s : State) : Host.Outcome State Fault Refusal :=
  match s.pkg.launch s.arg.handle with
  | none => .next s
  | some l =>
    if l.st = .saving ∧ !l.dropsTasks ∧ l.saveAt.any (fun t => decide (t + s.pkg.regs.splim ≤ s.pkg.time)) then
      .next ((s.tilesOf l).foldl (fun s t => s.updTile t.phys (fun t => { t with disp := { t.disp with preempt := .classP } })) s)
    else .next s

/-! ### The resume (R347, R369) -/

/-- A physical tile of the old placement in the new one. -/
def movedTile (old new : List (Nat × Nat)) (p : Nat) : Nat :=
  ((old.find? (fun x => x.2 == p)).bind (fun x => (new.find? (fun y => y.1 == x.1)).map (·.2))).getD p

def Loc.moved (old new : List (Nat × Nat)) : Loc → Loc
  | .cluster t off => .cluster (movedTile old new t) off
  | l => l

def TaskCtx.moved (t : TaskCtx) (old new : List (Nat × Nat)) : TaskCtx :=
  { t with held := t.held.map (fun h => { h with loc := h.loc.moved old new }), deferred := t.deferred.map (fun d => { d with loc := d.loc.moved old new }) }

/-- The tile in focus takes up a saved tile as the bind that stands first in its slot; a key binding that cannot be made again
is SEALED_POLICY (R343). -/
def State.restoreTile (s : State) (l : Launch) (old : List (Nat × Nat)) (v : SavedTile) : State :=
  let locks := s.acornPkg.nearLocks l
  let s := s.updT (fun t => let t := t.takeBind s.pkg.regs.agecap; { t with
    par := l.coordsOf t.disp.bind v.lt v.taskId 0, fetch := l.fetchCap, tenant := l.rc.root.tenant, eng := {},
    near := { t.near with kinds := v.kinds, locked := locks }, ord := { seq := t.ord.seq, l1 := t.ord.l1, tlb := t.ord.tlb, xtlb := t.ord.xtlb },
    task := v.task.moved old l.place, disp := { slot := t.disp.slot, fullerr := t.disp.fullerr, bind := t.disp.bind, run := v.run } })
  match s.loadArea v.area v.form (s.areaRanges v.area v.form) with
  | .error fi => (s.writeCause fi (dword (s.pkg.homeN v.area 16) 8)).fatal fi.code (dword (s.pkg.homeN v.area 16) 8)
  | .ok s =>
    let flags := dword (s.pkg.homeN (v.area + 0x110) 8) 0
    let pc := dword (s.pkg.homeN v.area 16) 8
    let again (b : BarSt) : BarSt := match b with
      | .arrived i b _ => .arrived i b s.tile.eng.ts
      | .releasing _ _ _ => .idle
      | b => b
    let s := s.mapCore (fun c => { c with pc := pc &&& ~~~7, level := v.level })
    let s := s.mapSys (fun y => { y with dbgctl := (y.dbgctl &&& 0x18) ||| (if flags.getLsbD 9 then 3 else 0) })
    let s := s.mapDisp (fun d => if flags.getLsbD 9 then d.haltedAt s.pkg.time else d)
    -- an area has no place for KMSG (log 96)
    let s := (s.mapSys (fun y => { y with kmsg := Config.openWord s.fresh &&& 0xC0000000FFFFFFFF })).draw
    let now := s.pkg.time
    (s.mapOrd (fun o => { o with bar := again v.bar, arrs := v.arrs.map (fun x => (x.1, again x.2)) })).mapDisp (fun d => { d with lastDone := now })

/-- The launch's own list and the collectives follow its new placement. -/
def Package.rehome (p : Package) (l : Launch) (new : List (Nat × Nat)) : Package :=
  let mv := movedTile l.place new
  { (p.updLaunch l.handle (fun x => { x with
      st := .running, place := new, begun := (x.saved.map (fun v => ((new.find? (fun y => y.1 == v.lt)).map (·.2)).getD 0)).foldl setInsert [],
      saved := [], again := [], resvs := [], started := p.time,
      tasks := x.tasks.map (fun t => match t.st with
        | .running q => { t with st := .running (mv q) }
        | _ => t) })) with
    colls := p.colls.map (fun c => if c.away = some l.handle then { c with phys := mv c.phys, away := none } else c),
    optics := { p.optics with resvs := p.optics.resvs ++ l.resvs.map (fun r => { r with granted := false, since := p.time, again := true }) } }

/-- The clusters that a resume may take: for a time-triggered launch those of its open window (R109). -/
def Package.resumeMask (p : Package) (l : Launch) : Option (BitVec 16) :=
  if !l.tt then some 0xFFFF else (p.windows.find? (fun w => w.handle == l.handle && !w.overrun)).map (·.clmask)

/-- The tile in focus takes up a launch with tasks whose save kept nothing of it: it stands between tasks, its near
space as at a first start (R143, R344). -/
def State.rejoin (s : State) (l : Launch) (lt : Nat) : State :=
  let s := s.updT (fun t => t.takeBind s.pkg.regs.agecap)
  (s.beginTile l).updT (fun t => { t with par := l.coordsOf t.disp.bind lt 0 0, tenant := l.rc.root.tenant, task := {} })

/-- The saved launch goes on at once on every tile of its new placement. -/
def State.resumeAll (s : State) (l : Launch) (new : List (Nat × Nat)) : State :=
  let s := s.updP (fun p => p.rehome l new)
  new.foldl (fun s y =>
    match l.saved.find? (fun v => v.lt == y.1) with
    | some v => s.onTile y.2 (fun u => u.restoreTile { l with place := new } l.place v)
    | none => if l.rc.kind = .single then s else s.onTile y.2 (fun u => u.rejoin { l with place := new } y.1)) s

/-- LAUNCH_RESUME (R112, R347): the saved launch `handle` is placed again and bound, and once every one of its binds is first
in its slot on a free tile, all its tiles go on at once. -/
def execLaunchResume (s : State) : Host.Outcome State Fault Refusal :=
  match s.pkg.launch s.arg.handle with
  | none => .next s
  | some l =>
    if l.st ≠ .saved ∨ l.cancelling then .next s
    else
      let s := if l.again.isEmpty then (s.pkg.resumeMask l).elim s (fun m => s.bindAgain l m s.arg.area) else s
      let new := ((s.pkg.launch l.handle).map (·.again)).getD []
      .next (if !new.isEmpty ∧ s.gangReady new l.handle then s.resumeAll l new else s)

end Sys2Proof.Machine
end

