-- ==== Sys2Proof/Machine/RegSpace.lean ====
section
/-! DEFINITION. The register space as it is written (R405, R444 to R449, R454), and the light budget that a write
may lower (R415, R417). Where the spec gives a page and no offsets, the offsets are the model's (log 50). -/

namespace Sys2Proof.Machine

/-! ### The optical block (R405, R415) -/

/-- Bytes queued for a destination at a port. -/
def Port.queuedFor (p : Port) (d : Nat) : Nat := ((p.queued.find? (fun q => q.1 == d)).map (·.2)).getD 0

/-- The lit slots that reservations hold, in their order, each with the reservation's number: slots on wavelengths to its
destination that no earlier one holds. -/
def Port.allot (p : Port) : List Resv → List (Nat × Nat) → List (Nat × Nat)
  | [], _ => []
  | r :: rs, lit =>
    let mine := (lit.filter (fun s => p.destOf s.2 == some r.dest)).take r.slots
    mine.map (fun s => (s.1, r.id)) ++ p.allot rs (lit.filter (fun s => !mine.contains s))

/-- Reserved slots of a port, each with its reservation. -/
def Optics.reservedSlots (o : Optics) (n : Nat) (p : Port) : List (Nat × Nat) :=
  p.allot (o.resvs.filter (fun r => r.port == n && r.granted)) p.lit

/-- The slot of a port that goes dark next (R417): unreserved before reserved, fewest queued bytes first. -/
def Optics.nextDark (o : Optics) (n : Nat) (p : Port) : Option Nat :=
  let held := (o.reservedSlots n p).map (·.1)
  let load (s : Nat × Nat) : Nat := ((p.destOf s.2).map p.queuedFor).getD 0
  let least (xs : List (Nat × Nat)) : Option (Nat × Nat) := xs.foldl (fun m x => match m with
    | none => some x
    | some y => if load x < load y then some x else some y) none
  ((least (p.lit.filter (fun s => !held.contains s.1))).or (least p.lit)).map (·.1)

def Optics.updPort (o : Optics) (n : Nat) (f : Port → Port) : Optics := { o with ports := o.ports.modify n f }

/-- A slot of a port goes dark; a reservation that loses its slots is withdrawn (R417). -/
def Optics.darken (o : Optics) (n slot : Nat) : Optics :=
  match o.ports[n]? with
  | none => o
  | some p =>
    let holder := ((o.reservedSlots n p).find? (fun x => x.1 == slot)).map (·.2)
    let o := o.updPort n (fun p => { p with lit := p.lit.filter (fun s => s.1 != slot) })
    { o with resvs := o.resvs.filter (fun r => some r.id != holder) }

/-- Slots of a port go dark until the budget is kept; how many did. -/
def Optics.fitPort (n : Nat) : Nat → Optics → Nat → Optics × Nat
  | 0, o, k => (o, k)
  | fuel + 1, o, k =>
    if o.used ≤ o.lbudget then (o, k)
    else
      match (o.ports[n]?).bind (fun p => o.nextDark n p) with
      | none => (o, k)
      | some slot => Optics.fitPort n fuel (o.darken n slot) (k + 1)

/-- The budget kept after LBUDGET was lowered: port by port, from port 0. -/
def Optics.fitAll (o : Optics) : Optics := (List.range 32).foldl (fun o n => (Optics.fitPort n 15 o 0).1) o

/-- What λ0 of the ports that are up draws: slot 0 is never darkened (R417). -/
def Optics.floorDraw (o : Optics) : Nat := o.ports.foldl (fun n p => n + if p.state ≥ 2 then 6 + p.lpwr else 0) 0

/-- A write of the optical block. LBUDGET stores no less than λ0 of the ports that are up draws, so that LUSED never exceeds
it (R415; log 125). -/
def Optics.write (o : Optics) (a : Nat) (v : W64) : Optics :=
  if a = 0x140 then { o with lbudget := max o.floorDraw (v.extractLsb' 48 16).toNat }.fitAll
  else if a = 0x148 then { o with berhi := (v.extractLsb' 56 8).toNat, berlo := (v.extractLsb' 48 8).toNat, berhold := max 1 (v.extractLsb' 32 16).toNat }
  else o

/-! ### The scheduling page (R107, R444, R447) -/

/-- The writable fields taken from 128 bits; SKIPS stays. -/
def TtEntry.take (e : TtEntry) (w : BitVec 128) : TtEntry :=
  { e with recPA := (w.extractLsb' 84 44).toNat * 256, clmask := w.extractLsb' 68 16, len := w.extractLsb' 62 6, rule := w.getLsbD 61, en := w.getLsbD 60,
           launch := w.extractLsb' 32 16 }

/-- Half h of a 128-bit entry replaced. -/
def putHalf (w : BitVec 128) (h : Bool) (v : W64) : BitVec 128 := if h then v ++ w.extractLsb' 0 64 else w.extractLsb' 64 64 ++ v

/-- The base and end of HCWIN or HAPER (R444). -/
def winBase (w : W64) : Nat := (w.extractLsb' 30 9).toNat * 2 ^ 30
def winEnd (w : W64) : Nat := winBase w + ((w.extractLsb' 40 6).toNat + 1) * 2 ^ 30

/-- HCWIN or HAPER as a write leaves it: EN stays 0 with a range outside the local-object region, and BASE and LENM1 change
only while EN is 0 (log 117). -/
def Package.window (p : Package) (old v : W64) : W64 :=
  let w := if old.getLsbD 63 then (v &&& 0x8000000000000000) ||| (old &&& 0x3F7FC0000000) else v &&& 0x80003F7FC0000000
  if winEnd w > p.bound then w &&& 0x7FFFFFFFFFFFFFFF else w

/-- An address inside an enabled window. -/
def inWindow (w : W64) (pa : Nat) : Bool := w.getLsbD 63 && decide (winBase w ≤ pa) && decide (pa < winEnd w)

def Package.writeSched (p : Package) (a : Nat) (v : W64) : Package :=
  let r := p.regs
  let clamp (lo hi n : Nat) : Nat := max lo (min hi n)
  let field (n : Nat) : Nat := (v.extractLsb' 0 n).toNat
  match a with
  | 0x000 => { p with regs := { r with spbase := v &&& 0x000FFFFFFFFFF000 } }
  | 0x040 => { p with regs := { r with ttbase := v } }
  | 0x048 => { p with regs := { r with ttlen := BitVec.ofNat 32 (clamp 10000 100000000 (field 32)) } }
  | 0x050 => { p with regs := { r with ageint := field 16 } }
  | 0x058 => { p with regs := { r with agecap := field 3 } }
  | 0x060 => { p with regs := { r with hcwin := p.window r.hcwin v } }
  | 0x068 => { p with regs := { r with haper := p.window r.haper v } }
  | 0x070 => { p with regs := { r with pkgpl := field 16 } }
  | 0x078 => { p with regs := { r with splim := clamp 10000 10000000 (field 24) } }
  | 0x080 => { p with regs := { r with hbint := clamp 100 10000 (field 14) } }
  | _ =>
    if 0x400 ≤ a ∧ a < 0x800 then
      let i := BitVec.ofNat 6 ((a - 0x400) / 16)
      p.updEntry i (fun e => e.take (putHalf e.word (a % 16 != 0) v))
    else p

/-! ### The object directory (R375) -/

def DirEntry.take (d : DirEntry) (w : BitVec 128) : DirEntry :=
  { d with valid := w.getLsbD 127, direct := w.getLsbD 126, ldur := max 100 (min 1000000 (w.extractLsb' 96 20).toNat),
           node := (w.extractLsb' 80 16).toNat, objid := (w.extractLsb' 0 48).toNat }

/-! ### Session pages (R449, R454) -/

def Session.putPolicy (x : Session) (p : Policy) : Session := { x with policies := x.policies.filter (fun q => q.index != p.index) ++ [p] }

/-- A write to a policy entry; every other byte of the page is firmware's. -/
def Session.write (x : Session) (a : Nat) (v : W64) : Session :=
  if a < 0x8000 then x
  else
    let i := (a - 0x8000) / 128
    let bs := (x.policyAt i).bytes
    x.putPolicy (Policy.ofBytes i (bs.take (a % 128) ++ leBytes 8 v.toNat ++ bs.drop (a % 128 + 8)))

/-! ### Mailbox, tile, lifetime and firmware pages -/

/-- The host writes its submission ring and CHEAD; firmware HEAD, CTAIL and the completion ring. -/
def Mailbox.write (b : Mailbox) (f : Bool) (a : Nat) (v : W64) : Mailbox :=
  if a = 0x0010 then ({ b with chead := v } : Mailbox).drain
  else if f ∧ a = 0x0000 then { b with head := v }
  else if f ∧ a = 0x0018 then { b with ctail := v }
  else if (0x1000 ≤ a ∧ a < 0x3000) ∨ (f ∧ 0x3000 ≤ a ∧ a < 0x4000) then { b with page := Memory.writeN b.page a (leBytes 8 v.toNat) }
  else b

/-- ATT and EHOLD of DBGCTL; HALT and STEP have events of their own. -/
def Tile.writePage (t : Tile) (a : Nat) (v : W64) : Tile :=
  if a = 0 then { t with sys := { t.sys with wdlim := clampW 1000000 60000000000 v } }
  else if a = 8 then { t with sys := { t.sys with dbgctl := (t.sys.dbgctl &&& ~~~0x18) ||| (v &&& 0x18) } }
  else t

/-! ### One access -/

/-- Who may write a page by its access columns, and who may read it: the optical block at K and F, written at F;
the scheduling page at F; tile pages the host and firmware; policy entries whoever R448 lets in. -/
def colWrite (g : Nat) (r : Requester) : Bool :=
  if g = 0x40 ∨ g = 0x41 then fromF r
  else if 0x100 ≤ g ∧ g < 0x200 then fromHostOrF r
  else if g < 0x40 ∨ (0x200 ≤ g ∧ g < 0x300) then fromHostOrF r
  else false

/-- Firmware recalls every line of the host-coherent window that the host holds before it clears EN (R444). -/
def State.recallHost (s : State) : State :=
  ((s.pkg.host.map (·.line)).filter (fun l => inWindow s.pkg.regs.hcwin (64 * l))).foldl State.recall s

/-- A register that has no row of its own takes a value. -/
def State.writeReg (s : State) (off : Nat) (v : W64) (r : Requester) : State :=
  let g := off / 0x10000
  let a := off % 0x10000
  if !colWrite g r then s
  else if g < 0x40 then s.updP (fun p => { p with boxes := p.boxes.map (fun b => if b.ch.toNat = g then b.write (fromF r) a v else b) })
  else if g = 0x40 then s.updP (fun p => { p with optics := p.optics.write a v })
  else if g = 0x41 then (if a = 0x060 ∧ !v.getLsbD 63 then s.recallHost else s).updP (fun p => p.writeSched a v)
  else if 0x100 ≤ g ∧ g < 0x200 then s.updTile (g - 0x100) (fun t => t.writePage a v)
  else s.updP (fun p => p.updSession (g - 0x200) (fun x => x.write a v))

/-- A write, where `f` is what the register takes. -/
def State.registerWrite (s : State) (off n : Nat) (r : Requester) (f : State → State) : State :=
  if !regAligned off n then s
  else
    match pageGate r (s.pageOwner off) true with
    | .perform => f s
    | .drop => s
    | .deny k => s.updP (fun p => p.violate k 1 (sourceOf r) off)

/-- REGISTER_READ (R448): offset `off`, `count` bytes. -/
def execRegisterRead (s : State) : Host.Outcome State Fault Refusal := .next (s.registerRead s.arg.off s.arg.count s.arg.req)

/-- REGISTER_WRITE (R448): `val` to offset `off`, `count` bytes. -/
def execRegisterWrite (s : State) : Host.Outcome State Fault Refusal :=
  .next (s.registerWrite s.arg.off s.arg.count s.arg.req (fun t => t.writeReg s.arg.off s.arg.val s.arg.req))

/-- An open object's node keeps its mode and lease duration (R373, R375). System software creates an object of `pages`
pages, 1 to 2^22, with the first entry that names it, in a management session at its node (R373, R457; log 28). -/
def State.openObject (s : State) (d : DirEntry) (pages : Nat) : State :=
  if !d.valid then s
  else if s.pool.any (fun o => o.id == d.objid) then s.updObj d.objid (fun o => { o with ldur := d.ldur })
  else
    let x := s.managed d.node
    if x.2 then { x.1 with pool := x.1.pool ++ [{ id := d.objid, node := d.node, direct := d.direct, pages := max 1 (min pages 0x400000), ldur := d.ldur }] }
    else x.1

/-- DIRECTORY_WRITE (R375): a half of a directory entry, RW at K. `amount` is the LEN of an object that it opens first. -/
def execDirectoryWrite (s : State) : Host.Outcome State Fault Refusal :=
  let x := s.arg
  if x.off / 0x10000 < 0x50 ∨ 0x60 ≤ x.off / 0x10000 then .next s
  else .next (s.registerWrite x.off x.count x.req (fun s =>
    if !fromK x.req then s
    else
      let d := s.pkg.dirAt ((x.off - 0x500000) / 16)
      let e := d.take (putHalf d.word (x.off % 16 != 0) x.val)
      (s.updP (fun p => { p with dir := p.dir.filter (fun y => y.index != d.index) ++ [e] })).openObject e x.amount))

/-- While an update quiesces or hands over, firmware reads no mailbox and publishes no record (R460). -/
def Firmware.quiet (f : Firmware) : Bool := f.state == 2 || f.state == 3

/-- SPROUT_PUBLISH (R393): firmware writes SPPUB. -/
def execSproutPublish (s : State) : Host.Outcome State Fault Refusal :=
  .next (s.registerWrite 0x410008 8 s.arg.req (fun t =>
    if fromF s.arg.req && !t.pkg.fw.quiet then t.updP (fun p => { p with regs := { p.regs with sppub := s.arg.val.extractLsb' 0 32 } }) else t))

end Sys2Proof.Machine
end

