-- ==== Sys2Proof/Machine/Debug.lean ====
section
/-! DEFINITION. The host debugger (R348, R349, R456) and messages to a tile (R363). -/

namespace Sys2Proof.Machine

/-! ### DBGCTL (R348, R349) -/

/-- A write to DBGCTL of the tile in focus, let through by R448 for the host and firmware. -/
def State.dbgWrite (s : State) (f : State → State) : State :=
  s.registerWrite ((0x100 + s.tile.phys) * 0x10000 + 8) 8 s.arg.req (fun t => if fromHostOrF t.arg.req then f t else t)

/-- HALT set: the core halts at its next word boundary, its held word treated under R332. -/
def State.halt (s : State) : State :=
  let s := s.mapSys (fun y => { y with dbgctl := y.dbgctl ||| 1 })
  if s.tile.disp.run ≠ .running then s
  else
    match s.interrupt with
    | .at t _ _ => t.haltIf
    | .later t => t

/-- DBG_HALT (R348). -/
def execDbgHalt (s : State) : Host.Outcome State Fault Refusal := .next (s.dbgWrite State.halt)

/-- The tile is no longer halted. While another tile of its launch is, the pause of R340 goes on, since the earlier of the
two; else the count of the launch goes on from where it paused. -/
def State.endPause (s : State) : State :=
  match s.tile.disp.haltAt with
  | none => s
  | some t0 =>
    let now := s.pkg.time
    let s := s.mapDisp (fun d => { d with haltAt := none })
    let mine (t : Tile) : Bool := t.disp.bind.any (fun b => some b.launch == s.tile.disp.bind.map (·.launch))
    if s.allTiles.any (fun t => mine t && t.disp.haltAt.isSome) then
      s.mapTiles (fun t => if mine t then { t with disp := { t.disp with haltAt := t.disp.haltAt.map (min t0) } } else t)
    else s.mapTiles (fun t => if mine t then { t with disp := { t.disp with lastDone := t.disp.lastDone + (now - max t0 t.disp.lastDone) } } else t)

/-- DBG_RESUME (R348): the count of R340 goes on from where it paused. -/
def execDbgResume (s : State) : Host.Outcome State Fault Refusal :=
  .next (s.dbgWrite (fun s => (s.mapSys (fun y => { y with dbgctl := y.dbgctl &&& ~~~3 })).endPause))

/-- DBG_STEP (R349): a halted core runs one word, holds included, and halts again at its end. While it runs the tile is not
halted, and the count of R340 goes on. -/
def execDbgStep (s : State) : Host.Outcome State Fault Refusal :=
  .next (s.dbgWrite (fun s => if s.tile.sys.dbgctl.getLsbD 1 then (s.mapSys (fun y => { y with dbgctl := (y.dbgctl ||| 1) &&& ~~~2 })).endPause else s))

/-! ### Debug accesses (R456) -/

/-- A frame that the hub has marked as sealed. -/
def Package.sealedAt (p : Package) (pa : Nat) : Option Nat := (p.sealedFrames.find? (fun f => f.1 == pa / pageSize)).map (·.2)

/-- Steps 1 and 3 to 6 of R148 with D in place of R or W: a CODE capability allows reads alone (R146). -/
def State.debugCheck (s : State) (c : Cap) (a : W64) (k : AccKind) : Bool :=
  c.tag && ((1 ≤ c.typ.toNat && c.typ.toNat ≤ 5) || (c.typ == 7 && k == .ld)) && c.perm.getLsbD 4 && c.tenant == s.tile.tenant
    && (boundsFault s.tile.par.ntile.toNat c a 8 k).isNone && a.toNat % 8 == 0

/-- The physical address of a location in package memory. -/
def Loc.pa : Loc → Option Nat
  | .pkgMem pa _ => some pa
  | .frame pa _ _ => some pa
  | _ => none

/-- The near place of a debug access: of the steps behind R148's sixth only an uncorrectable error (R339) and a write lock
(R353) are met, and no pending command holds it. A slice that has not been marked for the launch holds it (R143). -/
def State.debugNear (s : State) (a : W64) (wr : Bool) : LocRes :=
  let lo := a.toNat
  let bad (n : Near) (b : Nat) : Option FaultInfo :=
    if (linesOf b 8).any (fun l => n.ecc.contains l) then some (at' .memUncorrectable a)
    else if wr && meetsRanges n.locked lo (lo + 8) then some (at' .codeWrite a)
    else none
  if lo < clusterBase then
    match bad s.tile.near lo with
    | some fi => .fault fi
    | none => .ok s (.own lo)
  else
    match s.sliceOwner ((lo - clusterBase) / sliceSize) with
    | none => .fault (at' .capBounds a)
    | some phys =>
      let off := (lo - clusterBase) % sliceSize
      if !s.sliceBegun phys then .hold
      else
        match (s.tileAt phys).bind (fun t => bad { t.near with locked := s.tile.near.locked } (clusterBase + off)) with
        | some fi => .fault fi
        | none => .ok s (.cluster phys off)

/-- The translated place of a debug access: a write to a page of measured bytes (LK) is CODE_WRITE, whatever else the page
allows (R349, R352). -/
def State.debugVirt (s : State) (a : W64) (wr : Bool) : LocRes :=
  match (if wr && localVa s.pkg.num a then s.pkg.walk s.tile.sys.ptb a XAcc.wr.num else .error { code := .pagePerm }) with
  | .ok l => if pteLk l.pte then .fault (at' .codeWrite a) else s.virtLoc a 8 .st
  | .error _ => s.virtLoc a 8 (if wr then .st else .ld)

/-- Where a debug access goes: the location behind the capability. -/
def State.debugLoc (s : State) (c : Cap) (a : W64) (k : AccKind) : LocRes :=
  match c.typ.toNat with
  | 1 => s.debugNear a k.writes
  | 3 => s.poolAccess c a 8 k
  | _ => s.debugVirt a k.writes

/-- The physical address of bytes that a sealed capability names: of a SEALED-LOCAL object through its mapping, of a
SEALED-POOL object in the page's frame. Bytes that stand nowhere in the package have none, and the record holds the address
in the capability's own terms (log 121). -/
def State.sealedPa (s : State) (c : Cap) (a : W64) : Nat :=
  if c.typ == 5 then
    match s.translate a .rd with
    | .ok (_, pa, _) => pa
    | .error _ => a.toNat
  else ((s.pkg.frameOf c.base.toNat (a.toNat / pageSize)).map (fun f => f.pa + a.toNat % pageSize)).getD a.toNat

/-- Eight bytes at a location, as a debug read gives them. -/
def State.debugBytes (s : State) (l : Loc) : W64 :=
  match l with
  | .own a => leWord (s.tile.near.readN a 8)
  | .cluster t off => leWord (s.sliceN t off 8)
  | .pkgMem pa true => leWord (s.coherentN pa 8)
  | .pkgMem pa false => leWord (s.pkg.behindN pa 8)
  | .frame pa _ _ => leWord (s.coherentN pa 8)
  | .direct o off => (s.obj o).word off
  | .regs off => leWord (s.tileRegBytes off 8)

/-- Eight bytes written by the debugger. -/
def State.debugPut (s : State) (l : Loc) (v : W64) : State :=
  let bs := leBytes 8 v.toNat
  match l with
  | .own a => s.mapNear (fun n => n.store a bs)
  | .cluster t off => s.storeSlice t off bs none true
  | .pkgMem pa ca => s.storePkg pa ca bs none s.tile.sys.ptok
  | .frame pa _ _ => s.storePkg pa true bs none s.tile.sys.ptok
  | .regs _ => s
  | .direct o off =>
    match (s.obj o).gateWrite off bs s.tile.sys.ptok with
    | .ok x _ => s.setObj x
    | .rejected x => s.setObj x
    | .wait => s

/-- A sealed access from the debugger at a physical address: of a read, an Event and a KIND 2 record in the tenant's session
(R158, R456); a write takes the other paths' KIND 3 and is dropped (R158, R455). -/
def State.sealedDebug (s : State) (wr : Bool) (tenant : Nat) (pa : Nat) : State :=
  s.updP (fun p => if wr then p.violateTenant tenant 3 0 pa else (p.violateTenant tenant 2 0 pa).post (.sealedDebug s.tile.phys))

/-- A debug access through capability `cap` of the halted tile, at offset `off` from its cursor; a write stores
`val`. An access that fails its checks reads zero and writes nothing. -/
def State.debugAccess (s : State) : State :=
  let answer (s : State) (v : W64) : State := s.updP (fun p => { p with lastRead := v })
  let c := s.cap s.arg.cap
  let a := c.cursor + BitVec.ofNat 64 s.arg.off
  let k : AccKind := if s.arg.write then .st else .ld
  if !s.tile.sys.dbgctl.getLsbD 1 || !s.debugCheck c a k then answer s 0
  else if c.typ == 4 || c.typ == 5 then answer (s.sealedDebug s.arg.write c.tenant.toNat (s.sealedPa c a)) 0
  else
    match s.debugLoc c a k with
    | .hold => s
    | .fault fi => if fi.code = .codeWrite then s.fatal .codeWrite s.tile.core.pc else answer s 0
    | .ok t l =>
      match l.pa.bind (fun pa => (t.pkg.sealedAt pa).map (fun n => (n, pa))) with
      | some x => answer (t.sealedDebug s.arg.write x.1 x.2) 0
      | none => if s.arg.write then t.debugPut l s.arg.val else answer t (t.debugBytes l)

/-- HOST_DEBUG_REQUEST (R456): a request on the page of the tile in focus. -/
def execHostDebugRequest (s : State) : Host.Outcome State Fault Refusal :=
  let off := (0x100 + s.tile.phys) * 0x10000 + 0x10
  match pageGate s.arg.req (s.pageOwner off) true with
  | .perform => .next (if fromHostOrF s.arg.req then s.debugAccess else s.updP (fun p => { p with lastRead := 0 }))
  | .drop => .next (s.updP (fun p => { p with lastRead := 0 }))
  | .deny k => .next ((s.updP (fun p => p.violate k 1 (sourceOf s.arg.req) off)).updP (fun p => { p with lastRead := 0 }))

/-! ### Messages (R363) -/

/-- MESSAGE_POST (R363): firmware posts `val` to the tile in focus; a later message waits at the Acorn core, and
every message waits while firmware is in handover (R461). -/
def execMessagePost (s : State) : Host.Outcome State Fault Refusal :=
  .next (if s.tile.disp.msg.isSome ∨ s.pkg.fw.state = 3 then s else s.mapDisp (fun d => { d with msg := some (s.arg.val.extractLsb' 0 32) }))

end Sys2Proof.Machine
end

