-- ==== Sys2Proof/Machine/Pool.lean ====
section
/-! DEFINITION. The steps of the pool: the gates (R378, R386, R388 to R391), leases at their node and at their
holder (R381 to R385), the fence raise (R387). -/

namespace Sys2Proof.Machine

/-! ### FENCED at the tile (R388) -/

/-- FENCED_DELIVERY (R388): the first rejection on its way to the tile in focus reaches it, and raises FENCED where the
launch that issued the operation still runs on the tile. -/
def execFencedDelivery (s : State) : Host.Outcome State Fault Refusal :=
  match s.tile.disp.fenced with
  | [] => .next s
  | (pc, x) :: r =>
    let s := s.mapDisp (fun d => { d with fenced := r })
    match s.tile.disp.run with
    | .free | .stopped | .faulted | .saved => .next s
    | _ =>
      match x with
      | none => .next ((s.coreFaultMark.writeCause { code := .fenced } pc).fatal .fenced pc)
      | some n => .next ((s.writeEFault .x n { code := .fenced } pc).fatal .fenced pc)

/-! ### The channel of a package and an object (R391) -/

/-- The oldest entry of the channel to an object. -/
def Package.firstMsg (p : Package) (obj : Nat) : Option PoolMsg := p.poolCh.find? (fun m => m.obj == obj)

/-- It has arrived. -/
def State.popMsg (s : State) (obj : Nat) : State := s.updP (fun p => { p with poolCh := p.poolCh.eraseP (fun m => m.obj == obj) })

/-- A write's answer: the object as the gate leaves it, and a rejection sent to the issuer. A forwarded line
names no word. -/
def State.gateAnswer (s : State) (m : PoolMsg) (g : GateRes) : State :=
  match g with
  | .ok o _ => (s.popMsg m.obj).setObj o
  | .rejected o =>
    let word := if m.byWord || m.eng.isSome then some (m.pc, m.eng) else none
    ((s.popMsg m.obj).setObj o).noteReject m.src m.launch word
  | .wait => s

/-- The channel's first entry, if its package reaches the pool (R399, R408). What a package has sent before its failure
still arrives (R397). -/
def State.arriving (s : State) : Option PoolMsg :=
  if s.poolAway s.arg.obj && !s.pkg.failed then none else s.pkg.firstMsg s.arg.obj

/-- PUT (R386): a line or pages at the gate of object `obj`. -/
def execPut (s : State) : Host.Outcome State Fault Refusal :=
  match s.arriving with
  | none => .next s
  | some m =>
    match m.op with
    | .put off bs => .next (s.gateAnswer m ((s.obj m.obj).gateWrite off bs m.token))
    | _ => .next s

/-- STORE8 (R386). -/
def execStore8 (s : State) : Host.Outcome State Fault Refusal :=
  match s.arriving with
  | none => .next s
  | some m =>
    match m.op with
    | .store8 off v => .next (s.gateAnswer m ((s.obj m.obj).gateWrite off (leBytes 8 v.toNat) m.token))
    | _ => .next s

/-- LOAD8 (R391): the word is read at the gate and written to its register. -/
def execLoad8 (s : State) : Host.Outcome State Fault Refusal :=
  match s.arriving with
  | none => .next s
  | some m =>
    match m.op with
    | .load8 off d => .next ((s.popMsg m.obj).onTile m.src (fun t => t.setReg d ((s.obj m.obj).word off)))
    | _ => .next s

/-- The scope with which an atomic of the tile acts as a fence: its entry in SQ carries it. -/
def OrdSt.scopeOf (o : OrdSt) (seq : Nat) : BitVec 2 :=
  (o.sq.findSome? (fun e => match e.op with
    | .marker .fence sc => if e.seq = seq then some sc else none
    | _ => none)).getD 0

/-- The old word of an ATOMIC reaches the tile in focus: its register and its marker, or for x.patom the near
address and the command (R391, R431). -/
def State.atomicResult (s : State) (m : PoolMsg) (d : Option Reg) (dst : Option Nat) (r : W64) : State :=
  let s := match dst with
    | some a => s.nearPut a (leBytes 8 r.toNat) true
    | none => s
  match m.eng with
  | some n => s.updCmd .x n (fun c => { c with left := 0, performed := true })
  | none =>
    (s.setReg (d.getD 0) r).mapOrd (fun o => o.amoDone ⟨m.seq, m.pc, .amoMark⟩ (o.scopeOf m.seq))

/-- An ATOMIC at the gate. -/
def State.gateAtomic (s : State) (m : PoolMsg) : State :=
  match m.op with
  | .atomic off op b x key d dst =>
    -- the lease duration that ages the records is the object's, as the sender's directory entry gives it
    match (s.objFor m.obj).gateAtomic s.pkg.time off op b x key m.token with
    | .ok o r => ((s.popMsg m.obj).setObj o).onTile m.src (fun t => t.atomicResult m d dst r)
    | g => s.gateAnswer m g
  | _ => s

/-- ATOMIC (R389): the first entry of the channel to object `obj`. One that finds no room for its key waits. -/
def execAtomic (s : State) : Host.Outcome State Fault Refusal :=
  match s.arriving with
  | none => .next s
  | some m => .next (s.gateAtomic m)

/-- KEY_RECORD_AGING (R390): the oldest key record of a full gate has aged enough, and the ATOMIC that waits
there proceeds. -/
def execKeyRecordAging (s : State) : Host.Outcome State Fault Refusal :=
  match s.arriving with
  | none => .next s
  | some m =>
    let o := s.obj m.obj
    .next (if 4096 ≤ o.keys.length then s.gateAtomic m else s)

/-- GET (R378, R379): page `page` of object `obj`, open on the package (R375), as the gate has accepted it, becomes resident
under the lease that the package holds. -/
def execGet (s : State) : Host.Outcome State Fault Refusal :=
  let s := s.dropExpired s.arg.obj s.arg.page
  .next (if s.channelBusy s.arg.obj || (s.pkg.object s.arg.obj).isNone || (s.heldLease s.arg.obj s.arg.page).isNone then s
    else (s.makeResident s.arg.obj s.arg.page false).getD s)

/-! ### Leases (R381 to R386) -/

/-- A lease request of the package in focus at the node of an object that is open on it (R375), in the order of its channel
(R391). A frame whose lease the holder's own clock has passed is dropped first (R383). -/
def State.leaseAt (s : State) (f : PoolObj → LeaseRes) (granted : State → State) (refused : State → State) : State :=
  let s := s.dropExpired s.arg.obj s.arg.page
  if s.channelBusy s.arg.obj || (s.pkg.object s.arg.obj).isNone then s
  else
    match f (s.objFor s.arg.obj) with
    | .granted o => granted (s.setObj o)
    | .wait o => s.setObj o
    | .refused o => refused (s.setObj o)

/-- LEASE_ACQUIRE_READ (R381). -/
def execLeaseAcquireRead (s : State) : Host.Outcome State Fault Refusal :=
  let x := s.arg
  .next (s.leaseAt (fun o => o.acquire x.page s.pkg.num false x.val s.pkg.time) (fun t => t.regrant x.obj x.page) id)

/-- LEASE_ACQUIRE_WRITE (R381, R386): with token `val`. -/
def execLeaseAcquireWrite (s : State) : Host.Outcome State Fault Refusal :=
  let x := s.arg
  .next (s.leaseAt (fun o => o.acquire x.page s.pkg.num true x.val s.pkg.time) (fun t => t.regrant x.obj x.page) id)

/-- LEASE_RENEW (R382, R383, R386): a refusal drops the frame, and no lease is renewed after its local expiry. -/
def execLeaseRenew (s : State) : Host.Outcome State Fault Refusal :=
  let x := s.arg
  .next (if ((s.obj x.obj).lease x.page s.pkg.num).isSome && (s.heldLease x.obj x.page).isNone then s.dropExpired x.obj x.page
    else s.leaseAt (fun o => o.renew x.page s.pkg.num s.pkg.time) (fun t => t.regrant x.obj x.page) (fun t => t.losePage x.obj x.page))

/-- LEASE_RELEASE (R384): the frame is dropped, and the lease goes once its forwarded lines are answered. -/
def execLeaseRelease (s : State) : Host.Outcome State Fault Refusal :=
  .next (if s.poolAway s.arg.obj then s else (s.giveUp s.arg.obj s.arg.page).1)

/-- FENCE_RAISE (R387, R457): value `val`, inside a session of the pod's management identity at the object's node. -/
def execFenceRaise (s : State) : Host.Outcome State Fault Refusal :=
  let x := s.managed (s.obj s.arg.obj).node
  .next (if x.2 then x.1.updObj s.arg.obj (fun o => o.raise s.arg.val s.pkg.time) else x.1)

/-- LEASE_REVOKE (R381): the package in focus answers a revoke of page `page` of object `obj`. -/
def execLeaseRevoke (s : State) : Host.Outcome State Fault Refusal :=
  .next (if !s.poolAway s.arg.obj && (s.obj s.arg.obj).revokes.contains (s.arg.page, s.pkg.num) then (s.giveUp s.arg.obj s.arg.page).1 else s)

/-- LEASE_LOCAL_EXPIRY (R382, R383): the holder's own clock has passed the lease. -/
def execLeaseLocalExpiry (s : State) : Host.Outcome State Fault Refusal :=
  match s.pkg.frameOf s.arg.obj s.arg.page with
  | none => .next s
  | some f => .next (if f.expired s.pkg.time then s.losePage f.obj f.page else s)

/-- LEASE_NODE_EXPIRY (R385): the lease of package `pkg` on the page runs out at its node, whose clock is within
1 µs of TIME (R88). -/
def execLeaseNodeExpiry (s : State) : Host.Outcome State Fault Refusal :=
  let o := s.obj s.arg.obj
  match o.lease s.arg.page s.arg.pkg with
  | none => .next s
  | some l => .next (if s.pkg.time + 1000 ≥ l.grant + 1000 * l.ldur then s.setObj (o.expire l) else s)

end Sys2Proof.Machine
end

