-- ==== Sys2Proof/Machine/Sprout.lean ====
section
/-! DEFINITION. Sprout (R393 to R396), the page tables of a pod (R398, R399), and what the failure of a package
loses (R397). -/

namespace Sys2Proof.Machine

/-! ### Records -/

/-- A page that another record of the window still names, of those that `keep` selects. -/
def Package.namedBy (p : Package) (keep : W32 → Bool) (obj page : Nat) : Bool :=
  (p.window16.filter keep).any (fun n =>
    let r := p.stepRec n
    decide (r.state ≤ 3) && (p.recPages r).any (fun x => x.1 == obj && x.2.1 == page))

/-- Whether Sprout has taken the lease of a page for record n. -/
def Package.taken (p : Package) (n : W32) (obj page : Nat) : Bool := p.recTaken.contains (n, obj, page)

/-- The leases of a record's pages that `mine` selects and that no record of `keep` names, given up; whether all are gone. -/
def State.releaseRec (s : State) (r : StepRec) (mine : Package → Nat → Nat → Bool) (keep : W32 → Bool) : State × Bool :=
  (s.pkg.recPages r).foldl (fun (acc : State × Bool) x =>
    let t := acc.1
    let held := ((t.obj x.1).lease x.2.1 t.pkg.num).isSome && mine t.pkg x.1 x.2.1
    if !held || t.pkg.namedBy keep x.1 x.2.1 then acc
    else
      let g := t.giveUp x.1 x.2.1
      (g.1, acc.2 && g.2)) (s, true)

/-- SPDONE moves over records that are DONE, or FAILED with no lease of their own left (R393). -/
def State.advanceDone : Nat → State → State
  | 0, s => s
  | k + 1, s =>
    if s.pkg.regs.spdone = s.pkg.regs.sppub then s
    else
      let n := s.pkg.regs.spdone
      let r := s.pkg.stepRec n
      let left := (s.pkg.recPages r).any (fun x => ((s.obj x.1).lease x.2.1 s.pkg.num).isSome && s.pkg.taken n x.1 x.2.1
        && !s.pkg.namedBy (· != n) x.1 x.2.1)
      if r.state = 4 ∨ (r.state = 5 ∧ !left) then
        (s.updP (fun p => { p with regs := { p.regs with spdone := n + 1 }, recTaken := p.recTaken.filter (fun x => x.1 != n) })).advanceDone k
      else s

/-- A record fails: its leases go, and SPDONE advances past it in order (R395). -/
def State.failRec (s : State) (n : W32) (r : StepRec) : State :=
  (((s.putRecState r .failed).releaseRec r (fun p => p.taken n) (· != n)).1).advanceDone 16

/-- Every page of record n acquired and made resident: the record's own request, with its TOKEN for WRITE, goes to the node
once (R395), and again where the page is served no longer. -/
def State.fetchPages (s : State) (n : W32) (tok : W64) : List (Nat × Nat × Bool) → PageRes
  | [] => .ok s
  | x :: r =>
    match s.acquirePage x.1 x.2.1 x.2.2 false (!s.pkg.taken n x.1 x.2.1) tok with
    | .ok t => (t.updP (fun p => if p.taken n x.1 x.2.1 then p else { p with recTaken := p.recTaken ++ [(n, x.1, x.2.1)] })).fetchPages n tok r
    | .wait t => (match t.fetchPages n tok r with
      | .ok u => .wait u
      | y => y)
    | y => y

/-- Whether some aborted task waits for a page, whether with WRITE, and its launch's token (R337). -/
def Package.waiterOf (p : Package) (obj page : Nat) : Bool × Bool × W64 :=
  match p.launches.find? (fun l => l.tasks.any (fun t => match t.st with
    | .waitPage o g _ => o == obj && g == page
    | _ => false)) with
  | none => (false, false, 0)
  | some l => (true, l.tasks.any (fun t => t.st == .waitPage obj page true), l.token)

/-- Tasks that wait for a page whose lease the node refuses are eligible at once (R337). -/
def Package.refuseWaiters (p : Package) (obj page : Nat) : Package :=
  { p with launches := p.launches.map (fun l => { l with tasks := l.tasks.map (fun t => match t.st with
      | .waitPage o g _ => if o = obj ∧ g = page then { t with st := .ready } else t
      | _ => t) }) }

/-- A page that x.pref or an aborted task has asked for (R337, R433). -/
def State.fetchAsked (s : State) (obj page : Nat) : State :=
  let w := s.pkg.waiterOf obj page
  let drop (s : State) : State := s.updP (fun p => { p with prefetch := p.prefetch.erase (obj, page) })
  if (s.pkg.object obj).all (·.direct) then drop (s.updP (fun p => p.refuseWaiters obj page))
  else
    match s.acquirePage obj page w.2.1 w.1 false w.2.2 with
    | .ok t => drop t
    | .wait t => t
    | .refused t => drop (t.updP (fun p => p.refuseWaiters obj page))

/-- A published record's leases and pages (R395). -/
def State.fetchRec (s : State) (n : W32) : State :=
  let r := s.pkg.stepRec n
  if !s.pkg.window16.contains n || r.state > 1 then s
  else
    match s.pkg.pageList r with
    | none => s.failRec n r
    | some _ =>
      match (s.putRecState r .fetching).fetchPages n r.token (s.pkg.recPages r) with
      | .ok t => t
      | .wait t => t
      | .refused t => t.failRec n r

/-- SPROUT_FETCH (R395): page `page` of object `obj` where it has been asked for, else record `idx`. -/
def execSproutFetch (s : State) : Host.Outcome State Fault Refusal :=
  .next (if s.pkg.prefetch.contains (s.arg.obj, s.arg.page) then s.fetchAsked s.arg.obj s.arg.page else s.fetchRec s.arg.idx)

/-- SCHEDULE_READY (R395): every page of record `idx` is resident under the named lease before its DEADLINE. -/
def execScheduleReady (s : State) : Host.Outcome State Fault Refusal :=
  let r := s.pkg.stepRec s.arg.idx
  let ok := s.pkg.window16.contains s.arg.idx && r.state == 1 && (r.deadline == 0 || decide (s.pkg.time < r.deadline)) && (s.pkg.pageList r).isSome && (s.pkg.recPages r).all (fun x => s.servedPage x.1 x.2.1 x.2.2 && s.pkg.taken s.arg.idx x.1 x.2.1)
  .next (if ok then s.putRecState r .ready else s)

/-- SCHEDULE_DEADLINE (R395): record `idx` is not READY at its DEADLINE. -/
def execScheduleDeadline (s : State) : Host.Outcome State Fault Refusal :=
  let r := s.pkg.stepRec s.arg.idx
  .next (if s.pkg.window16.contains s.arg.idx ∧ r.state ≤ 1 ∧ r.deadline ≠ 0 ∧ r.deadline ≤ s.pkg.time then s.failRec s.arg.idx r else s)

/-- SPROUT_RENEW (R396, R337): half of LDUR has passed for a page that a record names, or that firmware holds
for an aborted task; never for one that x.pref has asked for (R433). -/
def execSproutRenew (s : State) : Host.Outcome State Fault Refusal :=
  let x := s.arg
  match s.pkg.frameOf x.obj x.page with
  | none => .next s
  | some f =>
    let due := decide (f.grant + 500 * f.ldur ≤ s.pkg.time)
    let tasks := s.pkg.launches.any (fun l => l.st == .running && l.tasks.any (fun t => decide (t.aborts > 0) && t.st != .committed))
    .next (if due && !s.channelBusy x.obj && (s.pkg.namedBy (fun _ => true) x.obj x.page || (f.forTask && tasks)) then (s.renewPage x.obj x.page).1 else s)

/-- SPROUT_STEP_DONE (R396): the launch of record `idx` has ended, or a FAILED record's leases have been answered. -/
def execSproutStepDone (s : State) : Host.Outcome State Fault Refusal :=
  let n := s.arg.idx
  let r := s.pkg.stepRec n
  let ended := (s.pkg.launch r.launch).any (fun l => match l.st with
    | .ended _ => true
    | _ => false)
  if !s.pkg.window16.contains n then .next s
  else if r.state = 5 then .next ((s.releaseRec r (fun p => p.taken n) (· != n)).1.advanceDone 16)
  else if r.state = 3 ∧ ended then
    let later (m : W32) : Bool := m != n && decide ((m - n).toNat < 2 ^ 31)
    let g := s.releaseRec r (fun _ _ _ => true) later
    .next (if g.2 then (g.1.putRecState r .done).advanceDone 16 else g.1)
  else .next s

/-! ### The page tables of a pod (R398, R399) -/

/-- The next sequence number that a package expects from an origin. -/
def Package.expects (p : Package) (origin : Nat) : Nat := ((p.podNext.find? (fun x => x.1 == origin)).map (·.2)).getD 0

def Package.expectNext (p : Package) (origin n : Nat) : Package := { p with podNext := p.podNext.filter (fun x => x.1 != origin) ++ [(origin, n)] }


/-- A record acknowledged at its origin by the package in focus. -/
def State.ackPod (s : State) (origin seq : Nat) : State :=
  let me := s.pkg.num
  let f (p : Package) : Package := if p.num = origin then { p with podOut := p.podOut.map (fun r => if r.seq = seq ∧ !r.acked.contains me then { r with acked := r.acked ++ [me] } else r) } else p
  ({ s with pkg := f s.pkg, peers := s.peers.map f }.updP (fun p => p.expectNext origin (seq + 1))).settlePod

/-- An entry update applied to the replica in this package's HBM. -/
def State.applyPod (s : State) (r : PodRec) (table : Nat) : State := s.writeHomeLine (table + 8 * r.index) (leBytes 8 r.value.toNat) 0

/-- POD_TABLE_RECORD (R398): record `seq` of package `pkg` at the package in focus, in sequence order; the
replica of its table stands at `area`. At its origin a number not yet sent is a new update, of entry `off` to
`val`. An invalidation is acknowledged once no older access is left (R359). -/
def execPodTableRecord (s : State) : Host.Outcome State Fault Refusal :=
  let x := s.arg
  let s := if s.pkg.num = x.pkg ∧ x.seq = s.pkg.podSeq then
      s.updP (fun p => { p with podSeq := p.podSeq + 1, podOut := p.podOut ++ [{ seq := p.podSeq, sent := p.time, index := x.off, value := x.val }] })
    else s
  match (s.package x.pkg).bind (fun p => p.podOut.find? (fun r => r.seq == x.seq)) with
  | none => .next s
  | some r =>
    if !s.pkg.member || s.pkg.expects x.pkg != x.seq then .next s
    else
      match r.inval with
      | none => .next ((s.applyPod r x.area).ackPod x.pkg x.seq)
      | some (form, va, asid) =>
        let s := s.dropTlb form va asid
        .next (if s.accessesOpen.isEmpty && s.xOpen.isEmpty then s.ackPod x.pkg x.seq else s)

/-- POD_MEMBER_REMOVE (R399): package `pkg` has not acknowledged a record of the package in focus within 100 µs. -/
def execPodMemberRemove (s : State) : Host.Outcome State Fault Refusal :=
  let n := s.arg.pkg
  if s.pkg.podOut.any (fun r => decide (r.sent + 100000 ≤ s.pkg.time) && !r.acked.contains n) then
    let f (p : Package) : Package := if p.num = n then { p with member := false } else p
    .next { s with pkg := f s.pkg, peers := s.peers.map f }.settlePod
  else .next s

/-- POD_MEMBER_ADMIT (R399): system software admits the package in focus again, its replicas fresh: it has
applied every record so far, and the tables of tenant `tenant` start at `val`. The other packages reach it again (R408). -/
def execPodMemberAdmit (s : State) : Host.Outcome State Fault Refusal :=
  let t := s.arg.tenant.toNat
  let next := (s.pkg :: s.peers).map (fun p => (p.num, p.podSeq))
  let me := s.pkg.num
  let f (p : Package) : Package := { p with
    podOut := p.podOut.map (fun r => if r.acked.contains me then r else { r with acked := r.acked ++ [me] }),
    optics := { p.optics with unreachable := p.optics.unreachable.filter (· != me) } }
  let s := s.updP (fun p => { p with member := true, failed := false, podNext := next, podRoots := p.podRoots.filter (fun x => x.1 != t) ++ [(t, s.arg.val)] })
  .next { s with pkg := f s.pkg, peers := s.peers.map f }.settlePod

/-! ### Paths across the pod (R403, R408) -/

/-- The endpoints that bring-up has found. -/
def Optics.ends (o : Optics) : List Nat := ((o.ports.flatMap (·.dest)).map (·.2) ++ o.fwd.map (·.1)).eraseDups

/-- After a change of ports, of forwarding tables or of the packages that relay: for each package, when each endpoint lost its
last path; one that has found a path is reachable again. -/
def State.notePaths (s old : State) : State :=
  let f (p : Package) : Package :=
    match old.package p.num with
    | none => p
    | some q =>
      let es := (q.optics.ends ++ p.optics.ends).eraseDups
      let gained (e : Nat) : Bool := es.contains e && s.hasPath p e && !old.hasPath q e
      { p with optics := { p.optics with
          noPath := p.optics.noPath.filter (fun x => !s.hasPath p x.1) ++ (es.filter (fun e => old.hasPath q e && !s.hasPath p e)).map (fun e => (e, p.time)),
          unreachable := p.optics.unreachable.filter (fun e => !gained e) } }
  { s with pkg := f s.pkg, peers := s.peers.map f }

/-! ### A package fails (R397) -/

/-- What a tile has left. -/
def Tile.lost (t : Tile) : Tile := { phys := t.phys, sys := { wdlim := t.sys.wdlim } }

/-- The retired frames: those of HBM lines with an uncorrectable error too (R464). -/
def Package.retireBad (p : Package) : List Nat :=
  ((p.ecc.filter (fun l => p.paKind (64 * l) == .hbmLocal || p.paKind (64 * l) == .hbmPool)).map (· / 4096)).foldl setInsert p.life.retired

/-- The package in focus fails or loses power: its memories, tiles, frames and unsent writes are lost. What it has
sent goes on, and its leases run out at their nodes; its time base and its retired frames stay (R88, R464). Writes under way
to it are lost (R408), and it relays nothing more (R403). -/
def State.failPackage (s : State) : State :=
  let p := s.pkg
  let lose (q : Package) : Package := { q with peerCh := q.peerCh.map (fun m => if m.target = p.num then { m with lost := true } else m) }
  State.notePaths (old := s) { s with
    peers := s.peers.map lose,
    tile := s.tile.lost,
    pkg := { num := p.num, tiles := p.tiles.map Tile.lost, disabled := p.disabled, fused := p.fused, time := p.time, synced := p.synced, bound := p.bound, failed := true, failedAt := p.time, member := p.member,
             poolCh := p.poolCh.map (fun m => { m with src := 256 }), peerCh := (lose p).peerCh.map (fun m => { m with src := 256 }), podSeq := p.podSeq, podOut := p.podOut, podNext := p.podNext, podRoots := p.podRoots,
             fw := p.fw, life := { p.life with now := p.life.flash, retired := p.retireBad, powered := false } } }

/-- PACKAGE_FAILURE (R397). -/
def execPackageFailure (s : State) : Host.Outcome State Fault Refusal := .next s.failPackage

end Sys2Proof.Machine
end

