-- ==== Sys2Proof/Machine/Fabric.lean ====
section
/-! DEFINITION. The Wilan optical fabric (R400 to R423): bring-up, replay and failover, Pecan's cycle, light budget,
flow control, accesses of peer packages; the collective timeout (R413, R435) and the time base (R88). -/

namespace Sys2Proof.Machine

def State.updOptics (s : State) (f : Optics → Optics) : State := s.updP (fun p => { p with optics := f p.optics })

/-- A port of the package in focus. -/
def State.port (s : State) (n : BitVec 5) : Port := (s.pkg.optics.ports[n.toNat]?).getD {}

def State.updPort (s : State) (n : BitVec 5) (f : Port → Port) : State := s.updOptics (fun o => o.updPort n.toNat f)

def State.post (s : State) (e : EventRec) : State := s.updP (fun p => p.post e)

/-- A change of the optical block that may take paths away or open them. -/
def State.movePaths (s : State) (f : Optics → Optics) : State := (s.updOptics f).notePaths s

/-! ### Bring-up (R404) -/

/-- A port at stage 1 of a bring-up from a TIME on: only training light, no slot lit. -/
def Port.begin (p : Port) (now : Nat) : Port := { p with stage := 1, state := 1, tries := 0, lit := [], grants := [], since := now }

/-- BRINGUP_START (R404): firmware starts port `port`. -/
def execBringupStart (s : State) : Host.Outcome State Fault Refusal :=
  .next (s.movePaths (fun o => o.updPort s.arg.port.toNat (fun p => p.begin s.pkg.time)))

/-- The timeouts of the stages, in ns. -/
def stageTimeout (stage : Nat) : Nat := 1000000 * [0, 50, 20, 10, 5, 2, 2, 1].getD stage 0

/-- The stage under way has not ended within its timeout. -/
def Port.stageLate (p : Port) (now : Nat) : Bool := decide (p.since + stageTimeout p.stage < now)

/-- BEREXP as measured, and since when it has stayed at or above BERLO (R416). -/
def Port.measure (p : Port) (ber now berlo : Nat) : Port :=
  { p with ber := ber, lowSince := if ber < berlo then none else some (p.lowSince.getD now) }

/-- DEST(p, w) as IDENT has learned it (R402): one endpoint for a wavelength of the comb. -/
def destMap (xs : List (Nat × Nat)) : List (Nat × Nat) :=
  (List.range 64).filterMap (fun w => xs.find? (fun x => x.1 == w))

/-- The link identity (R404): the lower endpoint number, the higher, and their ports in the same order (log 114). -/
def linkIdentity (e f : Nat) (p q : BitVec 5) : W32 :=
  if e ≤ f then BitVec.ofNat 11 e ++ BitVec.ofNat 11 f ++ p ++ q else BitVec.ofNat 11 f ++ BitVec.ofNat 11 e ++ q ++ p

/-- Flits that the link takes in during a round trip of t ns at 112 Gb/s (R421). -/
def roundTripFlits (t : Nat) : Nat := (112 * t + 511) / 512

/-- The buffers of the four channels meet the rule of R421 for the measured round-trip time. -/
def buffersOk (t : Nat) (bs : List (Nat × Nat × Nat)) : Bool :=
  bs.length == 4 && bs.all (fun b => decide (b.2.1 + roundTripFlits t ≤ b.1) && decide (b.2.2 + 64 ≤ b.2.1))

/-- The end of a bring-up stage of port n of package `me`. Stage 4 needs an error rate better than BERHI; stage 5 learns the
link identity and DEST(p, w); stage 6 agrees the round-trip time and the buffers. -/
def Port.stageDone (p : Port) (x : EvArg) (me : Nat) (n : BitVec 5) (berhi berlo now : Nat) : Port :=
  match p.stage with
  | 4 => let q := p.measure x.amount now berlo; if x.amount ≥ berhi then { q with stage := 5, since := now } else q
  | 5 => { p with stage := 6, since := now, dest := destMap x.dest, linkId := linkIdentity me x.pkg n (BitVec.ofNat 5 x.ix) }
  | 6 => { p with stage := 7, since := now, rtt := x.amount, bufs := x.bufs.map (fun b => ⟨b.1, b.2.1, b.2.2⟩) }
  | 7 => { p with state := if p.eng = n.toNat / 4 then 2 else 3 }
  | k => { p with stage := k + 1, since := now }

/-- A stage that fails (R404): back to stage 1, or DOWN after the third failed attempt. -/
def State.failStage (s : State) (n : BitVec 5) : State :=
  let p := s.port n
  let s := s.updPort n (fun p => { p with retry := min 15 (p.retry + 1), tries := p.tries + 1, stage := 1, since := s.pkg.time })
  if p.tries + 1 ≥ 3 then (s.updPort n (fun p => { p with state := 0, stage := 0 })).post (.linkDown n.toNat) else s

/-- BRINGUP_STAGE_DONE (R404): the stage of port `port` ends. The comb temperature is `temp` at stage 1; `amount` is BEREXP
at stage 4 and the round-trip time at stage 6; at stage 5 the far end is endpoint `pkg`, port `ix`, and `dest` is what IDENT
learned; `bufs` are B, XOFF and XON of the four channels at stage 6, which fails where they do not meet R421; `fwd` is the
λ0 forwarding table that firmware has computed when the port is up (R403). A stage that ends late has failed, and so has the
last where the budget does not take λ0 of the port (R415; log 125). -/
def execBringupStageDone (s : State) : Host.Outcome State Fault Refusal :=
  let x := s.arg
  let p := s.port x.port
  let now := s.pkg.time
  let done (o : Optics) : Optics := o.updPort x.port.toNat (fun p => p.stageDone x s.pkg.num x.port o.berhi o.berlo now)
  if p.state ≠ 1 then .next s
  else if p.stageLate now ∨ (p.stage = 6 ∧ !buffersOk x.amount x.bufs)
      ∨ (p.stage = 7 ∧ (done s.pkg.optics).lbudget < (done s.pkg.optics).floorDraw) then .next (s.failStage x.port)
  else
    .next (s.movePaths (fun o =>
      let o := done o
      match p.stage with
      | 1 => { o with engs := o.engs.modify p.eng (fun e => { e with temp := x.temp }) }
      | 7 => { o with fwd := x.fwd }.fitAll
      | _ => o))

/-- BRINGUP_STAGE_TIMEOUT (R404): the stage of port `port` has not ended within its timeout. -/
def execBringupStageTimeout (s : State) : Host.Outcome State Fault Refusal :=
  let p := s.port s.arg.port
  .next (if p.state ≠ 1 || !p.stageLate s.pkg.time then s else s.failStage s.arg.port)

/-! ### Replay (R406) -/

/-- a stands at or before b in 16-bit sequence order. -/
def seqLe (a b : BitVec 16) : Bool := decide ((b - a).toNat < 2 ^ 15)

/-- The receive position of a wavelength. -/
def Port.rxAt (p : Port) (lam : BitVec 6) : RxPos := (p.rx.find? (fun r => r.lam == lam)).getD { lam := lam, next := 0, delivered := 0 }
def Port.setRx (p : Port) (r : RxPos) : Port := { p with rx := p.rx.filter (fun x => x.lam != r.lam) ++ [r] }

/-- A codeword at its receiver: delivered once and in order with its ten flits, a duplicate discarded, a bad one or a gap
asked for again. Idle flits fill no buffer. What is delivered up to `next` is acknowledged on λ0. -/
def Port.receive (p : Port) (lam : BitVec 6) (seq : BitVec 16) (flits : Vector Flit 10) (good : Bool) : Port :=
  let r := p.rxAt lam
  if !good then { p with askReplay := p.askReplay ++ [(lam, r.next)] }
  else if seq = r.next then
    { p with askReplay := p.askReplay.filter (fun a => a != (lam, seq)) }.setRx
      { r with next := r.next + 1, delivered := r.delivered + 1, buf := r.buf ++ flits.toList.filter (fun (f : Flit) => f.kind != FlitKind.idle) }
  else if seqLe seq r.next then p
  else if p.askReplay.contains (lam, r.next) then p
  else { p with askReplay := p.askReplay ++ [(lam, r.next)] }

/-- The first n flits of a channel leave its buffer. -/
def takeFlits (vc : BitVec 2) : Nat → List Flit → List Flit
  | _, [] => []
  | 0, fs => fs
  | n + 1, f :: r => if f.vc = vc then takeFlits vc n r else f :: takeFlits vc (n + 1) r

/-- Flits of a channel in the receive buffers of a wavelength. -/
def RxPos.fill (r : RxPos) (vc : BitVec 2) : Nat := (r.buf.filter (fun f => f.vc == vc)).length

/-- The pauses that a receiver has asked for, after a change of its buffers (R420): from XOFF on until XON. -/
def Port.flow (p : Port) (lam : BitVec 6) : Port :=
  (List.range 4).foldl (fun p v =>
    let vc := BitVec.ofNat 2 v
    match p.bufs[v]? with
    | none => p
    | some b =>
      let n := (p.rxAt lam).fill vc
      if p.pausing.contains (lam, vc) then (if n ≤ b.xon then { p with pausing := p.pausing.filter (· != (lam, vc)) } else p)
      else if b.xoff ≤ n then { p with pausing := p.pausing ++ [(lam, vc)] } else p) p

/-- The count of a port's codewords over 1 ms (R406; log 115): whether the millisecond that has ended had more than 1 in
10^4 uncorrectable. -/
def Port.tooBad (p : Port) (now : Nat) : Bool := decide (p.winFrom + 1000000 ≤ now) && decide (p.winAll < 10000 * p.winBad)

def Port.tally (p : Port) (good : Bool) (now : Nat) : Port :=
  let p := if p.winFrom + 1000000 ≤ now then { p with winFrom := now, winAll := 0, winBad := 0 } else p
  let bad := if good then 0 else 1
  { p with winAll := p.winAll + 1, winBad := p.winBad + bad, uncor := p.uncor + bad }

/-- CODEWORD_RECEIVE (R406, R420): codeword `cseq` with its flits on wavelength `lam` of port `port`; `good` is whether it
decodes. `count` flits of channel `vc` have left their buffer since the last one. A port with too many uncorrectable
codewords goes DOWN and starts its bring-up again. -/
def execCodewordReceive (s : State) : Host.Outcome State Fault Refusal :=
  let x := s.arg
  let now := s.pkg.time
  if (s.port x.port).tooBad now then
    .next (s.movePaths (fun o => o.updPort x.port.toNat (fun p => (p.begin now).tally x.good now)))
  else
    .next (s.updPort x.port (fun p =>
      let r := p.rxAt x.lam
      (((p.tally x.good now).setRx { r with buf := takeFlits x.vc x.count r.buf }).receive x.lam x.cseq (tenFlits x.flits) x.good).flow x.lam))

/-- REPLAY_REQUEST (R406): every kept codeword of the wavelength from `cseq` on is sent again, in order. -/
def execReplayRequest (s : State) : Host.Outcome State Fault Refusal :=
  .next (s.updPort s.arg.port (fun p => { p with replay := p.replay.map (fun c => if c.lam = s.arg.lam ∧ seqLe s.arg.cseq c.seq then { c with sent := false } else c) }))

/-- REPLAY_ACKNOWLEDGEMENT (R406): codewords up to `cseq` are freed. -/
def execReplayAcknowledgement (s : State) : Host.Outcome State Fault Refusal :=
  .next (s.updPort s.arg.port (fun p => { p with replay := p.replay.filter (fun c => !(c.lam == s.arg.lam && seqLe c.seq s.arg.cseq)) }))

/-! ### Failover and reach (R407, R408) -/

/-- The sibling of an engine (R400). -/
def sibling (e : Nat) : Nat := if e % 2 = 0 then e + 1 else e - 1

/-- A link that moves to the sibling: λ0 only until the next cycle, unacknowledged codewords sent again. -/
def Port.move (p : Port) (dst : Nat) : Port :=
  { p with eng := dst, state := 3, lit := [], grants := [], replay := p.replay.map (fun c => { c with sent := false }) }

/-- Whether three or more ports of an engine are DOWN at once (R407). -/
def Optics.threeDown (o : Optics) (e : Nat) : Bool := decide (3 ≤ (o.ports.filter (fun p => p.eng == e && p.state == 0)).length)

/-- ENGINE_FAILOVER (R407, R408): engine `ix` fails, because its comb cannot hold lock or its temperature `temp` has left its
range (not `good`), or because three of its ports are DOWN; its sibling takes its links, or with the sibling failed its ports
are DOWN. -/
def execEngineFailover (s : State) : Host.Outcome State Fault Refusal :=
  let e := s.arg.ix % 8
  let o := s.pkg.optics
  if (o.engs[e]?).any (·.dead) || (s.arg.good && !o.threeDown e) then .next s
  else
    let both := (o.engs[sibling e]?).any (·.dead)
    let moved (all : Bool) (p : Port) : Port :=
      if p.eng ≠ e then p
      else if both then { p with state := 0, stage := 0, lit := [], grants := [] }
      else if all || decide (2 ≤ p.state) then p.move (sibling e)
      else { p.move (sibling e) with state := p.state }
    -- a link that was not up comes up on the sibling where the budget takes its λ0 (R415)
    let fits := decide ({ o with ports := o.ports.map (moved true) : Optics }.floorDraw ≤ o.lbudget)
    let s := s.movePaths (fun o => Optics.fitAll { o with
      ports := o.ports.map (moved fits),
      engs := (o.engs.modify e (fun g => { g with dead := true, failed := !both, carry := false, temp := s.arg.temp, focnt := g.focnt + if both then 0 else 1 })).modify (sibling e)
        (fun g => { g with carry := !both }) })
    let n := if both ∨ s.pkg.life.now.failover = 0xFFFFFFFFFFFFFFFF then s.pkg.life.now.failover else s.pkg.life.now.failover + 1
    .next ((s.updP (fun p => { p with life := { p.life with now := { p.life.now with failover := n } } })).post (.linkDown (4 * e)))

/-- Since when an endpoint has had no path: since it failed, or since its last path went; from TIME 0 where none has been
found yet. -/
def State.pathless (s : State) (e : Nat) : Option Nat :=
  if (s.package e).any (·.failed) then (s.package e).map (·.failedAt)
  else if s.hasPath s.pkg e then none
  else some (((s.pkg.optics.noPath.find? (fun x => x.1 == e)).map (·.2)).getD 0)

/-- ENDPOINT_UNREACHABLE (R408): endpoint `pkg` has had no path for 1 ms. -/
def execEndpointUnreachable (s : State) : Host.Outcome State Fault Refusal :=
  .next (if (s.pathless s.arg.pkg).any (fun t => decide (t + 1000000 ≤ s.pkg.time)) && !s.pkg.optics.unreachable.contains s.arg.pkg then
      s.updOptics (fun o => { o with unreachable := o.unreachable ++ [s.arg.pkg] })
    else s)

/-! ### Pecan (R409 to R412, R418) -/

/-- WMAX: the largest width of a port that fits the budget, given the other ports' use (R418). -/
def Optics.wmax (o : Optics) (n : Nat) : Nat :=
  match o.ports[n]? with
  | none => 0
  | some p => max 1 (min 16 ((o.lbudget - (o.used - p.width * (6 + p.lpwr))) / (6 + p.lpwr)))

/-- The wavelength by which a port reaches a destination. -/
def Port.lamTo (p : Port) (dest : Nat) : Option Nat := (p.dest.find? (fun d => d.2 == dest && d.1 != 0)).map (·.1)

/-- The slots of a port in the cycle that begins: reserved ones, then the granted ones, up to WMAX. -/
def Optics.litNext (o : Optics) (n : Nat) (p : Port) : List (Nat × Nat) :=
  let held := (o.resvs.filter (fun r => r.port == n && r.granted)).flatMap (fun r => ((p.lamTo r.dest).map (fun l => List.replicate r.slots l)).getD [])
  let won := p.grants.flatMap (fun g => ((p.lamTo g.1).map (fun l => List.replicate g.2 l)).getD [])
  ((held ++ won).take (min 15 (o.wmax n - 1))).mapIdx (fun i l => (i + 1, l))

/-- The next sequence number that a port sends on a wavelength. -/
def Port.txAt (p : Port) (lam : BitVec 6) : BitVec 16 := ((p.tx.find? (fun x => x.1 == lam)).map (·.2)).getD 0

/-- The first n codewords among those of `mine` that are to be sent again have been sent, in order (R406, R407). -/
def resend (mine : Codeword → Bool) : Nat → List Codeword → List Codeword
  | _, [] => []
  | 0, cs => cs
  | n + 1, c :: r => if c.sent || !mine c then c :: resend mine (n + 1) r else { c with sent := true } :: resend mine n r

/-- Whether a wavelength of a port is lit. -/
def Port.lights (p : Port) (lam : BitVec 6) : Bool := (lam == 0 && decide (2 ≤ p.state)) || p.lit.any (fun l => l.2 == lam.toNat)

/-- Codewords of a channel that are not acknowledged on another path than wavelength `lam` of port n: until they are, the
sender sends nothing of the channel on this one (R414). -/
def Optics.elsewhere (o : Optics) (n : Nat) (lam : BitVec 6) (ch : Chan) : Bool :=
  o.ports.zipIdx.any (fun p => p.1.replay.any (fun c => (p.2 != n || c.lam != lam) && c.flits.toList.any (fun f => f.chan == some ch)))

/-- The endpoint of a channel (R414): the node of an object as the package has it open, or the peer package. -/
def Package.endOf (p : Package) (ch : Chan) : Option Nat :=
  match ch with
  | .pool obj => (p.object obj).map (fun d => 1024 + d.node)
  | .peer _ n => some n

/-- Whether wavelength `lam` of port n is the way of a channel (R402, R403, R414): a lit slot that leads to its endpoint, or,
as default traffic to one that no lit slot reaches, λ0 of the port that leads there or that the forwarding table names. -/
def Package.leads (p : Package) (n : Nat) (lam : BitVec 6) (ch : Chan) : Bool :=
  (p.endOf ch).any (fun e => (p.optics.ports[n]?).any (fun q =>
    if lam != 0 then q.destOf lam.toNat == some e
    else !p.optics.ports.any (fun r => r.lit.any (fun s => r.destOf s.2 == some e))
      && (q.destOf 0 == some e || p.optics.fwd.contains (e, n))))

/-- Whether a flit may be sent: its virtual channel is not paused (R420), and the wavelength is its channel's way, which the
channel has kept (R414). -/
def Port.mayGo (p : Port) (lam : BitVec 6) (leads away : Chan → Bool) (f : Flit) : Bool :=
  !p.paused.contains (lam, f.vc) && f.chan.all (fun ch => leads ch && !away ch)

/-- The codewords that a wavelength carries when they are sent again: its own, and on λ0 of a link that has moved those of the
wavelengths that are dark (R407). -/
def Port.carries (p : Port) (lam : BitVec 6) (c : Codeword) : Bool :=
  c.lam == lam || (lam == 0 && p.state == 3 && !p.lights c.lam)

/-- The `count` codewords that a cycle sends on the lit wavelength `lam`: those to be sent again, then new ones of the flits
`cws` that may go, each filled up to ten (R401). The last 64 are kept. -/
def Port.send (p : Port) (x : PortSend) (leads away : Chan → Bool) : Port :=
  if !p.lights x.lam then p
  else
    let again := (p.replay.filter (fun c => p.carries x.lam c && !c.sent)).length
    let new := (x.cws.take (x.count - again)).mapIdx (fun i c =>
      ({ lam := x.lam, seq := p.txAt x.lam + BitVec.ofNat 16 i, sent := true, flags := c.1, flits := tenFlits ((c.2.take 10).filter (p.mayGo x.lam leads away)) } : Codeword))
    let old := resend (p.carries x.lam) x.count p.replay
    let mine := old.filter (fun c => c.lam == x.lam) ++ new
    { p with tx := p.tx.filter (fun t => t.1 != x.lam) ++ [(x.lam, p.txAt x.lam + BitVec.ofNat 16 new.length)],
             replay := old.filter (fun c => c.lam != x.lam) ++ mine.drop (mine.length - 64) }

/-- The bytes queued at port n for each destination, as sampled (R409). -/
def queuedAt (xs : List (Nat × Nat × Nat)) (n : Nat) : List (Nat × Nat) := (xs.filter (fun x => x.1 == n)).map (·.2)

/-- A port at a cycle boundary: its queues are sampled, every grant takes effect, and ungranted slots go dark. -/
def Optics.turn (xs : List (Nat × Nat × Nat)) (o : Optics) (n : Nat) : Optics :=
  o.updPort n (fun p => { p with lit := if p.state ≥ 2 then o.litNext n p else [], grants := [], given := [], queued := queuedAt xs n })

/-- PECAN_CYCLE (R409): the 4 µs boundary that TIME has passed. `sends` are the codewords that the cycle before it has sent
on each wavelength; at the boundary `heat` lists the bytes queued (port, destination, bytes) and `dest` the comb temperatures
(engine, 1/16 °C); every grant takes effect. -/
def execPecanCycle (s : State) : Host.Outcome State Fault Refusal :=
  let k := s.pkg.time / 4000
  if k ≤ s.pkg.optics.cycle then .next s
  else
    let sent (o : Optics) (x : PortSend) : Optics :=
      o.updPort x.port.toNat (fun p => p.send x (s.pkg.leads x.port.toNat x.lam) (o.elsewhere x.port.toNat x.lam))
    .next (s.movePaths (fun o =>
      let o := s.arg.sends.foldl sent o
      let o := { o with engs := o.engs.mapIdx (fun i e => ((s.arg.dest.find? (fun t => t.1 == i)).elim e (fun t => { e with temp := BitVec.ofNat 16 t.2 }))) }
      { (List.range 32).foldl (Optics.turn s.arg.heat) o with cycle := k }))

/-- Slots of a port that granted reservations hold. -/
def Optics.heldSlots (o : Optics) (n : Nat) : Nat := (o.resvs.filter (fun r => r.port == n && r.granted)).foldl (fun k r => k + r.slots) 0

/-- The counts that a port requests beside its reserved slots, which count first (R410). -/
def Optics.requests (o : Optics) (n : Nat) (p : Port) : List (Nat × Nat) :=
  (p.queued.foldl (fun (acc : List (Nat × Nat) × Nat) q =>
    let c := min (min 15 ((q.2 + 52735) / 52736)) (acc.2)
    (if c = 0 then acc.1 else acc.1 ++ [(q.1, c)], acc.2 - c)) ([], o.wmax n - 1 - o.heldSlots n)).1

/-- The request served next: the highest count, ties to the endpoint next after the last one served. -/
def nextRequest (last : Nat) (rs : List (Nat × Nat)) : Option (Nat × Nat) :=
  rs.foldl (fun m x => match m with
    | none => some x
    | some y => if y.2 < x.2 ∨ (x.2 = y.2 ∧ (x.1 + 65535 - last) % 65536 < (y.1 + 65535 - last) % 65536) then some x else some y) none

/-- Free slots granted to requests in order. -/
def grantSlots : Nat → Nat → Nat → List (Nat × Nat) → List (Nat × Nat) × Nat
  | 0, _, last, _ => ([], last)
  | k + 1, free, last, rs =>
    match nextRequest last rs with
    | none => ([], last)
    | some r =>
      if free = 0 then ([], last)
      else
        let n := min r.2 free
        let g := grantSlots k (free - n) r.1 (rs.erase r)
        ((r.1, n) :: g.1, g.2)

/-- The sum of counts. -/
def total (xs : List (Nat × Nat)) : Nat := xs.foldl (fun n g => n + g.2) 0

/-- The slots that a receive fibre reserves once holder `e` asks for n: at most 8 of the fibre, and of the 15 no more than
what this cycle's grants leave; a holder that asks for more than that keeps what it has (R412). -/
def Port.reserve (p : Port) (e n : Nat) : List (Nat × Nat) :=
  let others := p.rxResv.filter (fun x => x.1 != e)
  if total others + n ≤ 8 ∧ total others + n + total p.given ≤ 15 then others ++ (if n = 0 then [] else [(e, n)]) else p.rxResv

/-- PECAN_REQUEST (R411, R412): the receive fibre of port `port` takes the requests `dest` (endpoint, count) and grants its 15
slots, the reserved ones first, to their holders. With `write`, endpoint `pkg` holds `count` of them from now on, from cycle to
cycle. -/
def execPecanRequest (s : State) : Host.Outcome State Fault Refusal :=
  .next (s.updPort s.arg.port (fun p =>
    let p := if s.arg.write then { p with rxResv := p.reserve s.arg.pkg s.arg.count } else p
    let g := grantSlots s.arg.dest.length (15 - total p.rxResv - total p.given) p.lastServed s.arg.dest
    { p with given := p.given ++ g.1, lastServed := g.2 }))

/-- A reservation that a grant reaches in time (R412, R418, R436): within the 8 slots of its port and its WMAX, the package's
32, and its collective timeout. -/
def Optics.mayReserve (o : Optics) (now : Nat) (r : Resv) : Bool :=
  decide (r.port < 32) && !r.granted && decide (o.heldSlots r.port + r.slots ≤ min 8 (o.wmax r.port - 1))
    && decide ((o.resvs.filter (·.granted)).length < 32) && decide (now < r.since + r.cto)

/-- PECAN_GRANT (R409, R411, R412): `count` slots of port `port` towards destination `ix`; for a reservation
(`write`) the request `obj` is granted. A grant later than 3.8 µs into the cycle is void. -/
def execPecanGrant (s : State) : Host.Outcome State Fault Refusal :=
  if s.pkg.time % 4000 > 3800 then .next s
  else if s.arg.write then
    .next (s.updOptics (fun o => { o with resvs := o.resvs.map (fun r =>
      if r.id = s.arg.obj ∧ o.mayReserve s.pkg.time r then { r with granted := true } else r) }))
  else
    .next (s.updPort s.arg.port (fun p =>
      let asked := ((s.pkg.optics.requests s.arg.port.toNat p).find? (fun r => r.1 == s.arg.ix)).elim 0 (·.2)
      let n := min s.arg.count asked
      if n = 0 then p else { p with grants := p.grants.filter (fun g => g.1 != s.arg.ix) ++ [(s.arg.ix, n)] }))

/-! ### Launch power (R416, R417) -/

/-- The level that a raise leads to (R416): one more, over the one that a reclaim of the same millisecond has taken. -/
def Port.raised (p : Port) (now : Nat) : Nat :=
  min 7 (p.lpwr + 1 + if p.lastCut.any (fun t => decide (now < t + 1000000)) then 1 else 0)

/-- A raise that the budget takes, at the cost of slots of the same port; none where λ0 alone cannot take it. -/
def Optics.raise (o : Optics) (n now : Nat) : Option Optics :=
  let up := o.updPort n (fun p => { p with lpwr := p.raised now, lastRaise := some now, lowSince := none, lastCut := none })
  let r := Optics.fitPort n 15 up 0
  if r.1.used ≤ r.1.lbudget then some { r.1 with wcut := r.1.wcut + r.2 } else none

/-- LPWR_RAISE (R416, R417): the error monitor of port `port` measures BEREXP `amount`. -/
def execLpwrRaise (s : State) : Host.Outcome State Fault Refusal :=
  let now := s.pkg.time
  let s := s.updPort s.arg.port (fun p => p.measure s.arg.amount now s.pkg.optics.berlo)
  let p := s.port s.arg.port
  let ready := p.lastRaise.all (fun t => decide (t + 1000000 ≤ now))
  if p.ber < s.pkg.optics.berhi ∧ p.lpwr < 7 ∧ ready then .next (s.updOptics (fun o => (o.raise s.arg.port.toNat now).getD o)) else .next s

/-- LPWR_RECLAIM (R416): BEREXP `amount` has stayed at or above BERLO for BERHOLD; a raise of the same millisecond
wins. -/
def execLpwrReclaim (s : State) : Host.Outcome State Fault Refusal :=
  let now := s.pkg.time
  let o := s.pkg.optics
  .next (s.updPort s.arg.port (fun p =>
    let p := p.measure s.arg.amount now o.berlo
    let held := p.lowSince.any (fun t => decide (t + 1000000 * o.berhold ≤ now))
    let raised := p.lastRaise.any (fun t => decide (now < t + 1000000))
    if held && !raised && p.lpwr != 0 then { p with lpwr := p.lpwr - 1, lowSince := some now, lastCut := some now } else p))

/-! ### Flow control (R420) -/

/-- PAUSE_FLIT (R420): the sender stops channel `vc` of wavelength `lam`. -/
def execPauseFlit (s : State) : Host.Outcome State Fault Refusal :=
  .next (s.updPort s.arg.port (fun p => if p.paused.contains (s.arg.lam, s.arg.vc) then p else { p with paused := p.paused ++ [(s.arg.lam, s.arg.vc)] }))

/-- RESUME_FLIT (R420). -/
def execResumeFlit (s : State) : Host.Outcome State Fault Refusal :=
  .next (s.updPort s.arg.port (fun p => { p with paused := p.paused.filter (fun x => x != (s.arg.lam, s.arg.vc)) }))

/-! ### Peer accesses (R414, R423) -/

/-- A change of a package by number. -/
def State.updPkg (s : State) (n : Nat) (f : Package → Package) : State :=
  let g (p : Package) : Package := if p.num = n then f p else p
  { s with pkg := g s.pkg, peers := s.peers.map g }

/-- Two writes to one line of the target. -/
def Package.sameHome (p : Package) (a b : PeerMsg) : Bool :=
  a.addr.toNat / 64 == b.addr.toNat / 64 ||
    (match p.peerPa a.tenant a.addr true, p.peerPa b.tenant b.addr true with
     | .ok (_, x), .ok (_, y) => x / 64 == y / 64
     | _, _ => false)

/-- PEER_ACCESS (R423): write `count` of the channel from tile `ix` of package `pkg` to the package in focus; one
that an older write to the same home still stands before waits (R434), and one that has no path to take (R414). Its faults
go to the issuer's command. A write under way to a package that has failed is lost: it stays in its channel, where an x.sfence
finds it (R408, R437). A package reaches its own window whether it is a member or not (R422). -/
def execPeerAccess (s : State) : Host.Outcome State Fault Refusal :=
  let mine (m : PeerMsg) : Bool := m.src == s.arg.ix && m.target == s.pkg.num
  let ch := (s.package s.arg.pkg).elim [] (fun p => p.peerCh.filter mine)
  match ch[s.arg.count]? with
  | none => .next s
  | some m =>
    let away := decide (s.arg.pkg ≠ s.pkg.num) && (!s.pkg.member || !(s.package s.arg.pkg).any (fun p => s.hasPath p s.pkg.num))
    if m.lost || s.pkg.failed || away || (ch.take s.arg.count).any (s.pkg.sameHome m) then .next s
    else
      let t := s.updPkg s.arg.pkg (fun p => { p with peerCh := p.peerCh.filter (fun x => !mine x) ++ ch.eraseIdx s.arg.count })
      match s.pkg.peerPa m.tenant m.addr true with
      | .error fi => .next (t.onPkg s.arg.pkg (fun u => u.onTile m.src (fun v => v.engFault .x m.eng fi)))
      | .ok (l, pa) =>
        let t := if pteScrub l.pte then t.scrubFrame l (peerVa s.pkg.num m.addr) else t
        .next (t.writeHome pa m.bytes 0)

/-! ### The collective timeout (R413, R435) -/

/-- COLL_TIMEOUT (R435): collective `count` of group `obj` has not been matched within CTO of its first party; every
party raises COLL_TIMEOUT. -/
def execCollTimeout (s : State) : Host.Outcome State Fault Refusal :=
  match s.pkg.colls.find? (fun x => x.group == s.arg.obj && x.count == s.arg.count && !x.finished) with
  | none => .next s
  | some x =>
    let ps := collParties x.first x.n
    let all := ps.filterMap (fun p => s.collOf p x.group x.count)
    let first := all.foldl (fun m y => min m y.started) x.started
    let cto := (s.tileAt x.phys).elim 0 (fun t => t.sys.cto.toNat)
    .next (if all.length < ps.length ∧ first + cto ≤ s.pkg.time then s.updColl ps x.group x.count (fun y => { y with faulted := true }) else s)

/-! ### The time base (R88) -/

/-- TIME_SYNC (R88): a correction of `amount` ns forward, at most 100 ppm of the time that has passed since the last one,
which keeps every two clocks of the pod within 1 µs. TIME never steps backwards, so a correction the other way only slows
it. -/
def execTimeSync (s : State) : Host.Outcome State Fault Refusal :=
  let t := s.pkg.time + min s.arg.amount ((s.pkg.time - s.pkg.synced) / 10000)
  .next (if s.peers.all (fun p => decide (p.time ≤ t + 1000) && decide (t ≤ p.time + 1000)) then s.updP (fun p => { p with time := t, synced := t }) else s)

end Sys2Proof.Machine
end

