-- ==== Sys2Proof/Machine/Host.lean ====
section
/-! DEFINITION. The host: CXL accesses (R141, R444, R445, R455), mailboxes (R458), heartbeats (R450), the SPDM
responder (R452), the tagging of sealed objects (R455). -/

namespace Sys2Proof.Machine

/-- The answer to a CXL read of the host. -/
def State.answer (s : State) (v : W64) : State := s.updP (fun p => { p with lastRead := v, lastEnd := .data })

/-! ### Frames that the host may not touch (R353, R455) -/

/-- The launch whose measured page holds a physical address. -/
def Package.lockedBy (p : Package) (pa : Nat) : Option Launch :=
  p.launches.find? (fun l =>
    l.rc.measured && p.inUse l.handle && (p.measRanges l (l.objects.getD [])).any (fun m => (pagesIn m.1 m.2.1).any (fun g =>
      match p.walk l.ptb (BitVec.ofNat 64 (g * pageSize)) 0 with
      | .ok leaf => pteLk leaf.pte && ptePa leaf.pte / pageSize == pa / pageSize
      | .error _ => false)))

/-- An uncorrectable error that the host meets is an Event (R339); what the read then answers is a free value
(log 95). -/
def State.hostMet (s : State) (pa : Nat) (read : Bool) : State :=
  if s.pkg.ecc.contains (pa / 64) then
    let t := s.updP (fun p => p.post (.memError (pa / 64)))
    if read then (t.answer (Config.openWord t.fresh)).draw else t
  else s

/-- A write by the host: one to a sealed frame is dropped with a KIND 3 record, one to a measured page is dropped
and the launch ends with CODE_WRITE, once what it has issued is through (R94, R388). -/
def State.hostWrite (s : State) (pa : Nat) (f : State → State) : State :=
  match s.pkg.sealedAt pa with
  | some t => s.updP (fun p => p.violateTenant t 3 0 pa)
  | none =>
    match s.pkg.lockedBy pa with
    | some l =>
      let t := (s.haltAll l).updP (fun p => p.updLaunch l.handle (fun x => { x with hostFault := true }))
      if t.stopped l then t.endLaunch l 1 FaultCode.codeWrite.num 0 0 else t
    | none => (f s).hostMet pa false

/-- A read by the host: of a sealed frame it gives no data and ends as `e`, with a KIND 3 record. -/
def State.hostRead (s : State) (pa : Nat) (e : ReadEnd) (f : State → State) : State :=
  match s.pkg.sealedAt pa with
  | some t => s.updP (fun p => { p.violateTenant t 3 0 pa with lastEnd := e })
  | none => (f s).hostMet pa true

/-! ### CXL.mem (R445) -/

/-- The host as a reader of a line: an owner in M goes to O, in E to S; the host takes S, or E where no L1 holds
the line. -/
def State.hostShare (s : State) (line : Nat) : State :=
  if s.pkg.host.any (fun l => l.line == line) then s
  else
    let held := s.allTiles.any (fun t => (t.ord.line line).isSome)
    let lower (l : L1Line) : L1Line := if l.line = line then { l with st := match l.st with | .m => .o | .e => .s | x => x } else l
    (s.mapTiles (fun t => { t with ord := { t.ord with l1 := t.ord.l1.map lower } })).updP (fun p => { p with
      host := p.host ++ [{ line := line, st := if held then .s else .e, dirty := [], tok := 0, kept := s.ownerKept line }] })

/-- An aligned dword of the enabled host-coherent window. -/
def State.inCoherent (s : State) (pa : Nat) : Bool := inWindow s.pkg.regs.hcwin pa && pa % 8 == 0

/-- An aligned dword of host memory, whose lines the control cores cache through CXL.cache (R445). -/
def hostDword (pa : Nat) : Bool := pa % 8 == 0 && decide (0x8000000000000 ≤ pa) && decide (pa < 0x10000000000000)

/-- The host reads a line of its own memory (R445; log 123): the home sends it every dirty byte of the package, and each L1
copy is S from then on. -/
def State.snoopRead (s : State) (line : Nat) : State :=
  let s := match s.dirtyOf line with
    | some (src, l) => s.updP (fun p => p.writeBack src l)
    | none => s
  let shared (l : L1Line) : L1Line := if l.line = line then { l with st := .s, dirty := [] } else l
  (s.mapTiles (fun t => { t with ord := { t.ord with l1 := t.ord.l1.map shared } })).updP (fun p => p.l2Back line)

/-- The host writes a line of its own memory (R445; log 123): every copy of the package is recalled, and the bytes reach the
memory. -/
def State.snoopWrite (s : State) (pa : Nat) (bs : List Byte) : State :=
  let line := pa / 64
  let s := (s.recall line).updP (fun p => let q := ((p.settle line).clearTags pa bs.length).l2Back line
                                          { q with mem := Memory.writeN q.mem pa bs })
  s.wake true (Loc.onLine line)

/-- HOST_CXL_MEM_READ (R445): the dword at `area`, in the host-coherent window, or of the host's own memory. -/
def execHostCxlMemRead (s : State) : Host.Outcome State Fault Refusal :=
  let pa := s.arg.area
  .next (if s.inCoherent pa then s.hostRead pa .poison (fun s => (s.hostShare (pa / 64)).answer (leWord (s.coherentBy s.pkg.host pa 8)))
    else if hostDword pa then (s.snoopRead (pa / 64)).answer (leWord ((s.snoopRead (pa / 64)).pkg.homeN pa 8))
    else s)

/-- The host as a writer of a line: every L1 copy is invalidated, and the host holds the line in M. -/
def State.hostOwn (s : State) (pa : Nat) (bs : List Byte) : State :=
  let line := pa / 64
  let mine := (s.pkg.host.find? (fun l => l.line == line)).elim [] (·.dirty)
  let kept := (s.pkg.host.find? (fun l => l.line == line)).elim [] (·.kept)
  let s := s.recall line
  let s := s.updP (fun p => let q := (p.settle line).clearTags pa bs.length
                            { q with host := q.host ++ [{ line := line, st := .m, dirty := Overlay.setN mine pa bs, tok := 0, kept := kept }] })
  s.wake true (Loc.onLine line)

/-- HOST_CXL_MEM_WRITE (R445): `val` to the dword at `area`, in the host-coherent window, or of the host's own memory. -/
def execHostCxlMemWrite (s : State) : Host.Outcome State Fault Refusal :=
  let pa := s.arg.area
  .next (if s.inCoherent pa then s.hostWrite pa (fun s => s.hostOwn pa (leBytes 8 s.arg.val.toNat))
    else if hostDword pa then s.snoopWrite pa (leBytes 8 s.arg.val.toNat)
    else s)

/-- HOST_CXL_IO_ACCESS (R141): a non-snooping read or write of the dword at `area`, through the aperture. -/
def execHostCxlIoAccess (s : State) : Host.Outcome State Fault Refusal :=
  let pa := s.arg.area
  .next (if !(inWindow s.pkg.regs.haper pa && pa % 8 == 0) then s
    else if s.arg.write then s.hostWrite pa (fun s => s.writeHome pa (leBytes 8 s.arg.val.toNat) 0)
    else s.hostRead pa .abort (fun s => s.answer (leWord (s.readHome pa 8))))

/-! ### Mailboxes (R458) -/

def Package.box (p : Package) (ch : Nat) : Option Mailbox := p.boxes.find? (fun b => b.ch.toNat == ch)

def Package.updBox (p : Package) (ch : Nat) (f : Mailbox → Mailbox) : Package :=
  { p with boxes := p.boxes.map (fun b => if b.ch.toNat = ch then f b else b) }

/-- The doorbell: TAIL as far as the ring has room. -/
def Mailbox.ring (b : Mailbox) (tail : W64) : Mailbox :=
  if (tail - b.head).toNat ≤ 256 ∧ (b.tail - b.head).toNat ≤ (tail - b.head).toNat then { b with tail := tail } else b


/-- Firmware takes the entry at HEAD as a launch under `handle`: its root must carry the session's tenant, and PRIO
is capped. A launch that waits for tiles has the same binds once LAUNCH_LOAD has placed it; an entry that is not accepted
completes with address 0. -/
def State.takeSubmission (s : State) (ch : Nat) : State :=
  match s.pkg.box ch with
  | none => s
  | some b =>
    if b.head = b.tail ∨ s.pkg.fw.quiet ∨ s.pkg.inUse s.arg.handle then s
    else
      let e := Memory.readN b.page (0x1000 + 32 * (b.head.toNat % 256)) 32
      let lim := (s.pkg.session b.session).elim (0#16, 0) (fun x => (x.tenant, x.prioLimit))
      let l := s.launchOf s.arg.handle (dword e 0).toNat
      let l := { l with session := b.session, prioCap := some lim.2 }
      let taken (s : State) : State := s.updP (fun p => p.updBox ch (fun b => { b with head := b.head + 1 }))
      let pend (s : State) : State := s.updP (fun p => p.updBox ch (fun b => { b with pending := b.pending ++ [(l.handle, dword e 8)] }))
      if l.rc.root.tenant ≠ lim.1 then (taken (pend s)).updP (fun p => p.complete l.handle 0)
      else
        let t := (pend s).load l 0xFFFF none
        (t.pkg.launch l.handle).elim s (fun x => taken (t.ownBinds x s.arg.area))

/-- MAILBOX_DOORBELL (R458): the host writes TAIL := `val` of channel `ix`; firmware, unless it is quiescing, then
takes one entry as launch `handle`. -/
def execMailboxDoorbell (s : State) : Host.Outcome State Fault Refusal :=
  let ch := s.arg.ix % 64
  .next (s.registerWrite (ch * 0x10000 + 8) 8 s.arg.req (fun t =>
    if fromHostOrF t.arg.req then (t.updP (fun p => p.updBox ch (fun b => b.ring t.arg.val))).takeSubmission ch else t))

/-! ### Heartbeats (R450) -/

/-- A session's heartbeat: counted, timed, signed. -/
def Session.beat (x : Session) (now : Nat) (veract : BitVec 16) (fresh : Nat) : Session :=
  let y := { x with hbseq := x.hbseq + 1, hbtime := BitVec.ofNat 64 now, verhb := veract.zeroExtend 64 }
  { y with sig := Config.sign fresh y.header }

/-- HEARTBEAT (R450): every open session whose interval has passed, in one step. None during an outage (R460). -/
def execHeartbeat (s : State) : Host.Outcome State Fault Refusal :=
  let now := s.pkg.time
  let due (x : Session) : Bool := x.established && decide (x.hbtime.toNat + 1000000 * s.pkg.regs.hbint ≤ now)
  .next (if s.pkg.fw.state = 3 then s
    else (s.updP (fun p => { p with sessions := p.sessions.map (fun x => if due x then x.beat now p.fw.veract s.fresh else x) })).draw)

/-! ### The SPDM responder (R452) -/

/-- An SPDM reply: version 1.3, response code, two parameters, body (log 51). -/
def spdmReply (code p1 : Nat) (body : List Byte) : List Byte := [0x13, BitVec.ofNat 8 code, BitVec.ofNat 8 p1, 0] ++ body

/-- A request out of its order. -/
def spdmError : List Byte := spdmReply 0x7F 4 []

/-- The connection that a request comes by: the DOE mailbox, or the management network (R452). -/
def State.conn (s : State) : Spdm := if s.arg.mgmt then s.pkg.spdmMgmt else s.pkg.spdm

def State.updSpdm (s : State) (f : Spdm → Spdm) : State :=
  s.updP (fun p => if s.arg.mgmt then { p with spdmMgmt := f p.spdmMgmt } else { p with spdm := f p.spdm })

/-- A request that needs an earlier one: its reply and what it records, or an error. -/
def State.spdmStep (s : State) (ready : Bool) (reply : List Byte) (f : Spdm → Spdm) : State :=
  s.updSpdm (fun c => if ready then { f c with reply := reply } else { c with reply := spdmError })

/-- A reply inside a session: a secured message under the session's key, its number as the IV (R452, log 51). -/
def Session.secure (x : Session) (bs : List Byte) : List Byte :=
  let r := gcmEncrypt (beBytes 32 x.msgKey.toNat) (beBytes 12 x.msgSeq) (leBytes 4 x.num) bs
  leBytes 4 x.num ++ r.1 ++ r.2

/-- The session of a request that comes as a secured message of it: its tag verifies (`good`). -/
def State.securedBy (s : State) : Option Session := if s.arg.good then s.pkg.session s.arg.session else none

/-- A reply in session `n`, and its message counted. -/
def State.spdmSecured (s : State) (n : Nat) (reply : List Byte) : State :=
  let bs := (s.pkg.session n).elim reply (fun x => x.secure reply)
  (s.spdmStep true bs id).updP (fun p => p.updSession n (fun x => { x with msgSeq := x.msgSeq + 1 }))

/-- A signature over some bytes, as bytes. -/
def State.signed (s : State) (bs : List Byte) : List Byte := bs ++ beBytes 96 (Config.sign s.fresh bs).toNat

/-- The alias key certificate as the responder sends it. -/
def Package.certificate (p : Package) : List Byte := p.life.aliasCert.elim [] (fun c => beBytes 96 c.toNat)

/-- GET_VERSION: the connection starts anew. -/
def execGetVersion (s : State) : Host.Outcome State Fault Refusal :=
  .next (s.updSpdm (fun _ => { version := true, reply := spdmReply 0x04 0 [0, 1, 0, 0x13] }))

/-- Capability flags as DSP0274 numbers them: certificate, challenge, signed measurements, encryption, authentication of
messages, key exchange (log 51). -/
def spdmFlags : List Byte := leBytes 4 0x2D6

/-- GET_CAPABILITIES. -/
def execGetCapabilities (s : State) : Host.Outcome State Fault Refusal :=
  .next (s.spdmStep s.conn.version (spdmReply 0x61 0 spdmFlags) (fun c => { c with caps := true }))

/-- NEGOTIATE_ALGORITHMS: of ECDSA, ephemeral Diffie-Hellman, SHA-384 and AES-256-GCM those that the requester offers in
`flags`, bit by bit in that order; the exchange goes on where it offers all that a request needs. -/
def execNegotiateAlgorithms (s : State) : Host.Outcome State Fault Refusal :=
  .next (s.spdmStep s.conn.caps (spdmReply 0x63 0 (leBytes 1 s.arg.flags.toNat)) (fun c => { c with algs := true, sel := s.arg.flags }))

/-- Algorithms agreed on, by their bits. -/
def Spdm.agreed (c : Spdm) (need : BitVec 4) : Bool := c.algs && c.sel &&& need == need

/-- GET_DIGESTS: SHA-384 of the certificate. -/
def execGetDigests (s : State) : Host.Outcome State Fault Refusal :=
  .next (s.spdmStep (s.conn.agreed 4) (spdmReply 0x01 0 (sha384 s.pkg.certificate)) (fun c => { c with digests := true }))

/-- GET_CERTIFICATE. -/
def execGetCertificate (s : State) : Host.Outcome State Fault Refusal :=
  .next (s.spdmStep s.conn.algs (spdmReply 0x02 0 s.pkg.certificate) (fun c => { c with cert := true }))

/-- CHALLENGE: the requester's nonce signed with the alias key. -/
def execChallenge (s : State) : Host.Outcome State Fault Refusal :=
  .next ((s.spdmStep (s.conn.agreed 5) (spdmReply 0x03 0 (s.signed (leBytes 8 s.arg.val.toNat))) (fun c => { c with challenged := true })).draw)

/-- Measurement block `ix` (R452): free digests for 1 to 3, machine state for 4 and 5, MEAS of the session's last
launches for 0x10. The enabled-tile mask is 32 bytes, bit i for physical tile i: so firmware reports the mesh position of each
disabled tile (R2, log 111). -/
def State.measurementBlock (s : State) (ix session : Nat) : List Byte :=
  let enabled := (List.range 256).foldl (fun a i => a + (if s.pkg.off i then 0 else 2 ^ i)) 0
  match ix with
  | 4 => leBytes 32 enabled ++ dwords [s.pkg.regs.hcwin, s.pkg.regs.haper] ++ leBytes 2 s.pkg.optics.lbudget
  | 5 => leBytes 2 s.pkg.fw.minver.toNat ++ leBytes 2 s.pkg.fw.handover.toNat
  | 0x10 => ((s.pkg.session session).elim [] (·.meas)).flatten
  | k => if 1 ≤ k ∧ k ≤ 3 then Config.digest k s.pkg.fw.veract.toNat else []

/-- GET_MEASUREMENTS: index `ix`, signed. In an open session the request and the reply are its secured messages, and it alone
sees its own launches (index 0x10). -/
def execGetMeasurements (s : State) : Host.Outcome State Fault Refusal :=
  let reply (n : Nat) : List Byte := spdmReply 0x60 0 (s.signed (s.measurementBlock s.arg.ix n))
  .next ((match s.securedBy with
    | some x => if x.established then s.spdmSecured x.num (reply x.num) else s.spdmStep (s.conn.agreed 5) (reply 256) id
    | none => s.spdmStep (s.conn.agreed 5) (reply 256) id).draw)

/-- KEY_EXCHANGE: session `session` of tenant `tenant` begins, with priority limit `amount`. The requester's share is `kek`;
the hub answers its own, signed, and the two give the session's key-wrapping key and the key of its secured messages. -/
def execKeyExchange (s : State) : Host.Outcome State Fault Refusal :=
  let x := s.arg
  let ok := s.conn.agreed 15 && decide (x.session < 256) && (s.pkg.session x.session).isNone
  let t := s.spdmStep ok (spdmReply 0x64 0 (s.signed (beBytes 96 (Config.share s.fresh).toNat))) id
  let y : Session := { num := x.session, tenant := x.tenant, kek := Config.agree s.fresh x.kek, msgKey := Config.agree (s.fresh + 1) x.kek, prioLimit := min 7 x.amount }
  .next (if ok then (t.updP (fun p => { p with sessions := p.sessions ++ [y] })).draw.draw else t)

/-- FINISH: the session is open, with mailbox channel `ix` where that is free (log 79). It and its reply are secured
messages. -/
def execFinish (s : State) : Host.Outcome State Fault Refusal :=
  let x := s.arg
  let ok := s.conn.agreed 15 && s.securedBy.any (fun y => !y.established)
  .next (if ok then (s.spdmSecured x.session (spdmReply 0x65 0 [])).updP (fun p => { (p.updSession x.session (fun y => { y with established := true })) with
      boxes := if (p.box (x.ix % 64)).isSome then p.boxes else p.boxes ++ [{ ch := BitVec.ofNat 6 x.ix, session := x.session }] })
    else s.spdmStep false [] id)

/-- END_SESSION, a secured message as its reply: the session and its channels are gone (log 80). -/
def execEndSession (s : State) : Host.Outcome State Fault Refusal :=
  let x := s.arg
  .next (if s.securedBy.any (·.established) then (s.spdmSecured x.session (spdmReply 0x6C 0 [])).updP (fun p => { p with
      sessions := p.sessions.filter (fun y => y.num != x.session), boxes := p.boxes.filter (fun b => b.session != x.session) })
    else s.spdmStep false [] id)

/-! ### Tagging a sealed object (R455) -/

/-- The frames of a range of package virtual addresses, none where one does not translate. -/
def Package.framesOf (p : Package) (ptb : W64) (base len : Nat) : Option (List Nat) :=
  (pagesIn base len).mapM (fun g =>
    match p.walk ptb (BitVec.ofNat 64 (g * pageSize)) 0 with
    | .ok l => some (leafPa l.pte (BitVec.ofNat 64 (g * pageSize)) l.big / pageSize)
    | .error _ => none)

/-- The frames of a sealed object as the service finds them: a pool object has its resident ones, and each later one is
marked as it becomes resident. -/
def Package.sealFrames (p : Package) (ptb : W64) (c : Cap) : Option (List Nat) :=
  if c.typ == 5 then p.framesOf ptb c.base.toNat c.len.toNat
  else if c.typ == 4 then some ((p.frames.filter (fun f => f.obj == c.base.toNat)).map (fun f => f.pa / pageSize))
  else none

/-- SEAL_TAG_SERVICE (R455): the resident kernel tags the SEALED capability in the granule at `area`, whose object
lies in memory under table `ptb`. -/
def execSealTagService (s : State) : Host.Outcome State Fault Refusal :=
  let pa := s.arg.area / 32 * 32
  let c := Cap.ofBytes (s.coherentN pa 32) true
  let known := s.pkg.sessions.any (fun x => x.policies.any (fun e => e.valid && e.tenant == c.tenant && e.pol == c.pol))
  match (if fromK s.arg.req && known && s.pkg.tagged pa then s.pkg.sealFrames s.arg.ptb c else none) with
  | none => .next s
  | some fs =>
    let open_ (f : Nat) : Bool := inWindow s.pkg.regs.hcwin (f * pageSize) || inWindow s.pkg.regs.haper (f * pageSize)
    if fs.any open_ then .next s
    else
      .next ((s.recall (pa / 64)).updP (fun p => { (p.setTag pa true) with
        sealedObjs := if c.typ == 4 then p.sealedObjs.filter (fun x => x.1 != c.base.toNat) ++ [(c.base.toNat, c.tenant.toNat)] else p.sealedObjs,
        sealedFrames := p.sealedFrames.filter (fun x => !fs.contains x.1) ++ fs.map (fun f => (f, c.tenant.toNat)) }))

end Sys2Proof.Machine
end

