-- ==== Sys2Proof/Machine/Life.lean ====
section
/-! DEFINITION. Firmware slots and live update (R459 to R461), boot (R451, R464), service life and power (R462,
R463, R466). What the environment measures stands in the event's operands. -/

namespace Sys2Proof.Machine

def State.updFw (s : State) (f : Firmware → Firmware) : State := s.updP (fun p => { p with fw := f p.fw })
def State.updLife (s : State) (f : Life → Life) : State := s.updP (fun p => { p with life := f p.life })

/-! ### FWCMD (R459, R460) -/

/-- A write to FWCMD, from level F or a trusted host. -/
def State.fwcmd (s : State) (f : State → State) : State :=
  s.registerWrite 0x3010008 8 s.arg.req (fun t => if fromHostOrF t.arg.req then f t else t)

/-- FWCMD_CHECK: the staged image of version `val`, whose signature verifies or not (`good`). -/
def execFwcmdCheck (s : State) : Host.Outcome State Fault Refusal :=
  .next (s.fwcmd (fun s => s.updFw (fun f =>
    if f.state = 2 ∨ f.state = 3 then f
    else
      let v := s.arg.val.extractLsb' 0 16
      let f := { f with verstg := v, sigOk := s.arg.good }
      if !s.arg.good then { f with err := 1, state := 0 }
      else if v.toNat < f.minver.toNat then { f with err := 2, state := 0 }
      else { f with err := 0, state := 1 })))

/-- FWCMD_UPDATE: a staged image's update begins to quiesce; once firmware has finished its own commands, the
handover block of version `val` is written and the Acorn cores restart in the other slot. -/
def execFwcmdUpdate (s : State) : Host.Outcome State Fault Refusal :=
  let now := s.pkg.time
  .next (s.fwcmd (fun s => s.updFw (fun f =>
    if f.state = 1 then { f with state := 2, since := now }
    else if f.state = 2 ∧ now < f.since + 10000000 then { f with state := 3, since := now, handover := s.arg.val.extractLsb' 0 16 }
    else f)))

/-- FWCMD_ABORT: an update that has not come to its handover ends. -/
def execFwcmdAbort (s : State) : Host.Outcome State Fault Refusal :=
  .next (s.fwcmd (fun s => s.updFw (fun f => if f.state = 1 ∨ f.state = 2 then { f with state := 0 } else f)))

/-- FWCMD_COMMIT: MINVER rises to VERACT. -/
def execFwcmdCommit (s : State) : Host.Outcome State Fault Refusal :=
  .next (s.fwcmd (fun s => s.updFw (fun f => if f.minver.toNat < f.veract.toNat then { f with minver := f.veract } else f)))

/-- FW_READY (R460): the new firmware posts READY, or refuses the handover version (`good` false; log 52). Once 500 ms have
passed the old slot restarts instead. -/
def execFwReady (s : State) : Host.Outcome State Fault Refusal :=
  .next (s.updFw (fun f =>
    if f.state ≠ 3 then f
    else if f.since + 500000000 ≤ s.pkg.time then { f with state := 4, err := 5 }
    else if s.arg.good then { f with active := !f.active, veract := f.verstg, state := 0, err := 0 }
    else { f with state := 4, err := 4 }))

/-- FW_QUIESCE_TIMEOUT (R460): 10 ms have passed. -/
def execFwQuiesceTimeout (s : State) : Host.Outcome State Fault Refusal :=
  .next (s.updFw (fun f => if f.state = 2 ∧ f.since + 10000000 ≤ s.pkg.time then { f with state := 0, err := 3 } else f))

/-- FW_READY_TIMEOUT (R460): 500 ms have passed, and the old slot restarts. -/
def execFwReadyTimeout (s : State) : Host.Outcome State Fault Refusal :=
  .next (s.updFw (fun f => if f.state = 3 ∧ f.since + 500000000 ≤ s.pkg.time then { f with state := 4, err := 5 } else f))

/-! ### Boot (R136, R451, R453, R464) -/

/-- The alias key certificate binds measurements 1 to 3. -/
def State.signAlias (s : State) : BitVec 768 :=
  Config.sign s.fresh ((List.range 3).flatMap (fun i => Config.digest (i + 1) s.pkg.fw.veract.toNat))

/-- A saturating count. -/
def satAdd (a : W64) (n : Nat) : W64 := BitVec.ofNat 64 (min 0xFFFFFFFFFFFFFFFF (a.toNat + n))

/-- A stack leaves the memory map at a boot with a quarter of its 262 144 frames retired (R464). -/
def stacksGone (retired : List Nat) : List Nat :=
  (List.range 8).filter (fun i => decide (65536 ≤ (retired.filter (fun g => g / 262144 == i)).length))

/-- BOOT (R451): the HBM regions are divided at `amount`, a multiple of 8 GiB up to 512 GiB; the tiles of `dest`
have failed their self-test and are disabled; version `val`, in slot B where `write` says so, is active, unless it is below
MINVER (R459); the certificate is signed. -/
def execBoot (s : State) : Host.Outcome State Fault Refusal :=
  let v := s.arg.val.extractLsb' 0 16
  if (s.pkg.life.powered ∧ s.pkg.life.aliasCert.isSome) ∨ v.toNat < s.pkg.fw.minver.toNat then .next s
  else
    let bad := (s.arg.dest.map (·.1)).filter (fun n => n < 256 && !s.pkg.disabled.contains n)
    let s := s.updFw (fun f => { minver := f.minver, veract := v, active := s.arg.write })
    let cert := s.signAlias
    let s := s.updLife (fun l => { l with powered := true, throttled := false, stretched := false, aliasCert := some cert,
                                          retired := s.pkg.retireBad, gone := stacksGone s.pkg.retireBad, clusters := l.clusters.map (fun c => { c with checked := none }),
                                          now := { l.flash with tiledis := satAdd l.flash.tiledis bad.length }, flushed := s.pkg.time })
    .next ((s.updP (fun p => { p with
      failed := false, disabled := bad.foldl setInsert p.disabled,
      -- the boundary does not move while a launch runs (R136)
      bound := if s.arg.amount % 0x200000000 = 0 ∧ 0 < s.arg.amount ∧ s.arg.amount ≤ 0x8000000000 ∧ !p.launches.any (fun l => p.inUse l.handle)
        then s.arg.amount else p.bound })).draw)

/-! ### Counters and ageing (R462, R463) -/

/-- `n` added to counter k, in the order of R462. -/
def Counters.add (c : Counters) (k n : Nat) : Counters :=
  match k with
  | 0 => { c with poweron := satAdd c.poweron n } | 1 => { c with thermcyc := satAdd c.thermcyc n }
  | 2 => { c with secorrSram := satAdd c.secorrSram n } | 3 => { c with secorrHbm := satAdd c.secorrHbm n }
  | 4 => { c with uncorSram := satAdd c.uncorSram n } | 5 => { c with uncorHbm := satAdd c.uncorHbm n }
  | 6 => { c with failover := satAdd c.failover n } | _ => { c with tiledis := satAdd c.tiledis n }

/-- The bin of a value: 8 bins of a width from a start, the ends taking what lies beyond. -/
def bin (start width v : Nat) : Nat := min 7 ((v - start) / width)

/-- Seconds spent at a value, added to the bin that takes it. -/
def addBin (start width : Nat) (h : List W64) (x : Nat × Nat) : List W64 := h.modify (bin start width x.1) (fun w => satAdd w x.2)

/-- What cluster i has spent since the last flush: `heat` lists (cluster, °C, seconds), `volt` (cluster, mV, seconds). -/
def ClusterLife.spend (c : ClusterLife) (i : Nat) (heat volt : List (Nat × Nat × Nat)) : ClusterLife :=
  let mine (xs : List (Nat × Nat × Nat)) : List (Nat × Nat) := (xs.filter (fun x => x.1 == i)).map (·.2)
  { c with tempHist := (mine heat).foldl (addBin 40 10) c.tempHist, suppHist := (mine volt).foldl (addBin 550 20) c.suppHist }

/-- A day in ns. -/
def dayNs : Nat := 86400000000000

/-- The errors of the last 24 h, which later ones may still join (R464). -/
def recentErr (now : Nat) (es : List (Nat × Nat)) : List (Nat × Nat) := es.filter (fun e => decide (now < e.2 + dayNs))

/-- Three errors of a tile within 24 h (R464). -/
def wornTile (es : List (Nat × Nat)) (t : Nat) : Bool :=
  let mine := es.filter (fun e => e.1 == t)
  mine.any (fun e => decide (3 ≤ (mine.filter (fun x => decide (e.2 ≤ x.2) && decide (x.2 < e.2 + dayNs))).length))

/-- COUNTER_FLUSH (R462, R464): 10 minutes have passed with the package powered. `dest` lists what has been counted since (counter, events), `fwd` the
uncorrectable SRAM errors (tile, TIME) among them: a tile with three within 24 h is disabled. `heat` and `volt` say at which
temperatures and supplies each cluster has spent the time. -/
def execCounterFlush (s : State) : Host.Outcome State Fault Refusal :=
  let now := s.pkg.time
  let l := s.pkg.life
  if now < l.flushed + 600000000000 ∨ !l.powered then .next s
  else
    let sec := (now - l.flushed) / 1000000000
    let errs := l.sramErr ++ s.arg.fwd
    let bad := (List.range 256).filter (fun t => wornTile errs t && !s.pkg.disabled.contains t)
    let c := (s.arg.dest.foldl (fun c x => c.add x.1 x.2) (l.now.add 0 sec)).add 7 bad.length
    let cl := l.clusters.mapIdx (fun i k => k.spend i s.arg.heat s.arg.volt)
    let t := s.updLife (fun l => { l with now := c, flash := c, flushed := l.flushed + sec * 1000000000, sramErr := recentErr now errs, clusters := cl })
    .next (t.updP (fun p => { p with disabled := bad.foldl setInsert p.disabled }))

/-- Delay monitors as they read now: `dest` lists (monitor, reading). -/
def ClusterLife.measure (c : ClusterLife) (rs : List (Nat × Nat)) : ClusterLife :=
  { c with monitors := Vector.ofFn (fun i => ((rs.find? (fun r => r.1 == i.val)).map (·.2)).getD c.monitors[i]) }

/-- Some delay monitor is more than 2 % slower than its factory baseline (R463; log 124). -/
def ClusterLife.drifted (c : ClusterLife) : Bool :=
  (List.finRange 4).any (fun i => decide (102 * c.baseline[i] < 100 * c.monitors[i]))

/-- AGEING_CHECK (R463): the delay monitors of cluster `clus` are read, at boot or 24 h after the last check, and compared with
their baseline. A change waits while a launch holds the cluster. -/
def execAgeingCheck (s : State) : Host.Outcome State Fault Refusal :=
  let now := s.pkg.time
  let held := s.allTiles.any (fun t => t.phys / 16 == s.arg.clus && t.disp.bind.isSome)
  let due := (s.pkg.life.clusters[s.arg.clus]?).any (fun c => c.checked.all (fun t => decide (t + dayNs ≤ now)))
  .next (if held ∨ !due then s
    else s.updLife (fun l => { l with clusters := l.clusters.modify s.arg.clus (fun c =>
      let c := { c.measure s.arg.dest with checked := some now }
      if !c.drifted then c
      else if 600 + c.offset < 700 then { c with offset := c.offset + 5 } else { c with clock := c.clock - 50 }) }))

/-! ### Power and temperature (R466) -/

/-- POWER_LIMIT_STEP: the 10 ms average is `amount` W. -/
def execPowerLimitStep (s : State) : Host.Outcome State Fault Refusal :=
  .next (if s.arg.amount > s.pkg.regs.pkgpl then s.updLife (fun l => { l with clusters := l.clusters.map (fun c => { c with clock := c.clock - 50 }) }) else s)

/-- CLOCK_STRETCH: the 1 ms average is `amount` W; the clocks stretch above 1.2·PKGPL. -/
def execClockStretch (s : State) : Host.Outcome State Fault Refusal :=
  .next (s.updLife (fun l => { l with stretched := decide (10 * s.arg.amount > 12 * s.pkg.regs.pkgpl) }))

/-- THERMAL_THROTTLE: the junction is at `amount` °C. -/
def execThermalThrottle (s : State) : Host.Outcome State Fault Refusal :=
  .next (s.updLife (fun l => { l with throttled := decide (105 ≤ s.arg.amount) }))

/-- THERMAL_SHUTDOWN: at 115 °C the package powers off; every launch on it ends with it. -/
def execThermalShutdown (s : State) : Host.Outcome State Fault Refusal := .next (if 115 ≤ s.arg.amount then s.failPackage else s)

end Sys2Proof.Machine
end

