-- ==== Sys2Proof/Machine/Dispatch.lean ====
section
/-! DEFINITION. One arm per row of the opcode table: each calls its own meaning. -/

namespace Sys2Proof.Machine

/-- The effect of one instruction or event on the machine. -/
def exec (i : Instr) (s : State) : Host.Outcome State Fault Refusal :=
  match i with
  | .add h d a b => Sys2Proof.Machine.execAdd h d a b s
  | .sub h d a b => Sys2Proof.Machine.execSub h d a b s
  | .mul h d a b => Sys2Proof.Machine.execMul h d a b s
  | .mulhS h d a b => Sys2Proof.Machine.execMulhS h d a b s
  | .mulhZ h d a b => Sys2Proof.Machine.execMulhZ h d a b s
  | .divS h d a b => Sys2Proof.Machine.execDivS h d a b s
  | .divZ h d a b => Sys2Proof.Machine.execDivZ h d a b s
  | .remS h d a b => Sys2Proof.Machine.execRemS h d a b s
  | .remZ h d a b => Sys2Proof.Machine.execRemZ h d a b s
  | .and h d a b => Sys2Proof.Machine.execAnd h d a b s
  | .or h d a b => Sys2Proof.Machine.execOr h d a b s
  | .xor h d a b => Sys2Proof.Machine.execXor h d a b s
  | .andn h d a b => Sys2Proof.Machine.execAndn h d a b s
  | .shl h d a b => Sys2Proof.Machine.execShl h d a b s
  | .shr h d a b => Sys2Proof.Machine.execShr h d a b s
  | .sra h d a b => Sys2Proof.Machine.execSra h d a b s
  | .rol h d a b => Sys2Proof.Machine.execRol h d a b s
  | .minS h d a b => Sys2Proof.Machine.execMinS h d a b s
  | .minZ h d a b => Sys2Proof.Machine.execMinZ h d a b s
  | .maxS h d a b => Sys2Proof.Machine.execMaxS h d a b s
  | .maxZ h d a b => Sys2Proof.Machine.execMaxZ h d a b s
  | .sel h d a b inv n => Sys2Proof.Machine.execSel h d a b inv n s
  | .pand h d a b => Sys2Proof.Machine.execPand h d a b s
  | .por h d a b => Sys2Proof.Machine.execPor h d a b s
  | .pnot h d a => Sys2Proof.Machine.execPnot h d a s
  | .bswapH h d a => Sys2Proof.Machine.execBswapH h d a s
  | .bswapW h d a => Sys2Proof.Machine.execBswapW h d a s
  | .bswapD h d a => Sys2Proof.Machine.execBswapD h d a s
  | .cmpEq h d a b => Sys2Proof.Machine.execCmpEq h d a b s
  | .cmpNe h d a b => Sys2Proof.Machine.execCmpNe h d a b s
  | .cmpLt h d a b => Sys2Proof.Machine.execCmpLt h d a b s
  | .cmpGe h d a b => Sys2Proof.Machine.execCmpGe h d a b s
  | .cmpLtz h d a b => Sys2Proof.Machine.execCmpLtz h d a b s
  | .cmpGez h d a b => Sys2Proof.Machine.execCmpGez h d a b s
  | .lea h d a b sh => Sys2Proof.Machine.execLea h d a b sh s
  | .clzB h d a => Sys2Proof.Machine.execClzB h d a s
  | .clzH h d a => Sys2Proof.Machine.execClzH h d a s
  | .clzW h d a => Sys2Proof.Machine.execClzW h d a s
  | .clzD h d a => Sys2Proof.Machine.execClzD h d a s
  | .ffsB h d a => Sys2Proof.Machine.execFfsB h d a s
  | .ffsH h d a => Sys2Proof.Machine.execFfsH h d a s
  | .ffsW h d a => Sys2Proof.Machine.execFfsW h d a s
  | .ffsD h d a => Sys2Proof.Machine.execFfsD h d a s
  | .popB h d a => Sys2Proof.Machine.execPopB h d a s
  | .popH h d a => Sys2Proof.Machine.execPopH h d a s
  | .popW h d a => Sys2Proof.Machine.execPopW h d a s
  | .popD h d a => Sys2Proof.Machine.execPopD h d a s
  | .fminS h d a b m => Sys2Proof.Machine.execFminS h d a b m s
  | .fminD h d a b m => Sys2Proof.Machine.execFminD h d a b m s
  | .fmaxS h d a b m => Sys2Proof.Machine.execFmaxS h d a b m s
  | .fmaxD h d a b m => Sys2Proof.Machine.execFmaxD h d a b m s
  | .fcmpS h cc d a b => Sys2Proof.Machine.execFcmpS h cc d a b s
  | .fcmpD h cc d a b => Sys2Proof.Machine.execFcmpD h cc d a b s
  | .fclassS h d a => Sys2Proof.Machine.execFclassS h d a s
  | .fclassD h d a => Sys2Proof.Machine.execFclassD h d a s
  | .fcvt h rm d a kind => Sys2Proof.Machine.execFcvt h rm d a kind s
  | .faddS h rm d a b m => Sys2Proof.Machine.execFaddS h rm d a b m s
  | .faddD h rm d a b m => Sys2Proof.Machine.execFaddD h rm d a b m s
  | .fsubS h rm d a b m => Sys2Proof.Machine.execFsubS h rm d a b m s
  | .fsubD h rm d a b m => Sys2Proof.Machine.execFsubD h rm d a b m s
  | .fmulS h rm d a b m => Sys2Proof.Machine.execFmulS h rm d a b m s
  | .fmulD h rm d a b m => Sys2Proof.Machine.execFmulD h rm d a b m s
  | .fdivS h rm d a b m => Sys2Proof.Machine.execFdivS h rm d a b m s
  | .fdivD h rm d a b m => Sys2Proof.Machine.execFdivD h rm d a b m s
  | .ffmaS h rm d a b m => Sys2Proof.Machine.execFfmaS h rm d a b m s
  | .ffmaD h rm d a b m => Sys2Proof.Machine.execFfmaD h rm d a b m s
  | .fsqrtS h rm d a m => Sys2Proof.Machine.execFsqrtS h rm d a m s
  | .fsqrtD h rm d a m => Sys2Proof.Machine.execFsqrtD h rm d a m s
  | .addi h d a imm => Sys2Proof.Machine.execAddi h d a imm s
  | .andi h d a imm => Sys2Proof.Machine.execAndi h d a imm s
  | .ori h d a imm => Sys2Proof.Machine.execOri h d a imm s
  | .xori h d a imm => Sys2Proof.Machine.execXori h d a imm s
  | .shli h d a n => Sys2Proof.Machine.execShli h d a n s
  | .shri h d a n => Sys2Proof.Machine.execShri h d a n s
  | .srai h d a n => Sys2Proof.Machine.execSrai h d a n s
  | .extS h d a lm1 pos => Sys2Proof.Machine.execExtS h d a lm1 pos s
  | .extZ h d a lm1 pos => Sys2Proof.Machine.execExtZ h d a lm1 pos s
  | .ins h d a lm1 pos => Sys2Proof.Machine.execIns h d a lm1 pos s
  | .li h d imm => Sys2Proof.Machine.execLi h d imm s
  | .nop h => Sys2Proof.Machine.execNop h s
  | .gsr h d spec => Sys2Proof.Machine.execGsr h d spec s
  | .ssr h a spec => Sys2Proof.Machine.execSsr h a spec s
  | .raise h a => Sys2Proof.Machine.execRaise h a s
  | .barC h n => Sys2Proof.Machine.execBarC h n s
  | .barL h => Sys2Proof.Machine.execBarL h s
  | .step h => Sys2Proof.Machine.execStep h s
  | .itemNext h d p => Sys2Proof.Machine.execItemNext h d p s
  | .estAdd h a => Sys2Proof.Machine.execEstAdd h a s
  | .estFlush h => Sys2Proof.Machine.execEstFlush h s
  | .estState h d sel => Sys2Proof.Machine.execEstState h d sel s
  | .yield h => Sys2Proof.Machine.execYield h s
  | .ldBs h d o => Sys2Proof.Machine.execLdBs h d o s
  | .ldBz h d o => Sys2Proof.Machine.execLdBz h d o s
  | .ldHs h d o => Sys2Proof.Machine.execLdHs h d o s
  | .ldHz h d o => Sys2Proof.Machine.execLdHz h d o s
  | .ldWs h d o => Sys2Proof.Machine.execLdWs h d o s
  | .ldWz h d o => Sys2Proof.Machine.execLdWz h d o s
  | .ldD h d o => Sys2Proof.Machine.execLdD h d o s
  | .ldc h d o => Sys2Proof.Machine.execLdc h d o s
  | .stB h d o => Sys2Proof.Machine.execStB h d o s
  | .stH h d o => Sys2Proof.Machine.execStH h d o s
  | .stW h d o => Sys2Proof.Machine.execStW h d o s
  | .stD h d o => Sys2Proof.Machine.execStD h d o s
  | .stc h d o => Sys2Proof.Machine.execStc h d o s
  | .mark h o => Sys2Proof.Machine.execMark h o s
  | .amoAdd h sc d a c off => Sys2Proof.Machine.execAmoAdd h sc d a c off s
  | .amoAnd h sc d a c off => Sys2Proof.Machine.execAmoAnd h sc d a c off s
  | .amoOr h sc d a c off => Sys2Proof.Machine.execAmoOr h sc d a c off s
  | .amoXor h sc d a c off => Sys2Proof.Machine.execAmoXor h sc d a c off s
  | .amoMin h sc d a c off => Sys2Proof.Machine.execAmoMin h sc d a c off s
  | .amoMax h sc d a c off => Sys2Proof.Machine.execAmoMax h sc d a c off s
  | .amoSwap h sc d a c off => Sys2Proof.Machine.execAmoSwap h sc d a c off s
  | .cas h sc d a c off => Sys2Proof.Machine.execCas h sc d a c off s
  | .fence h sc => Sys2Proof.Machine.execFence h sc s
  | .acq h sc => Sys2Proof.Machine.execAcq h sc s
  | .rel h sc => Sys2Proof.Machine.execRel h sc s
  | .mwait h d a c off => Sys2Proof.Machine.execMwait h d a c off s
  | .cfl h o => Sys2Proof.Machine.execCfl h o s
  | .cinv h o => Sys2Proof.Machine.execCinv h o s
  | .capBnd h d a c => Sys2Proof.Machine.execCapBnd h d a c s
  | .capPrm h d a c => Sys2Proof.Machine.execCapPrm h d a c s
  | .capOff h d o => Sys2Proof.Machine.execCapOff h d o s
  | .capGet h d c sel => Sys2Proof.Machine.execCapGet h d c sel s
  | .capTst h d a c => Sys2Proof.Machine.execCapTst h d a c s
  | .capClr h d c => Sys2Proof.Machine.execCapClr h d c s
  | .bufDecl h d a id => Sys2Proof.Machine.execBufDecl h d a id s
  | .bufSet h id st => Sys2Proof.Machine.execBufSet h id st s
  | .bufGet h d id => Sys2Proof.Machine.execBufGet h d id s
  | .enq h e a b => Sys2Proof.Machine.execEnq h e a b s
  | .sdSet h k n b => Sys2Proof.Machine.execSdSet h k n b s
  | .sdGet h k n b => Sys2Proof.Machine.execSdGet h k n b s
  | .semSig h n => Sys2Proof.Machine.execSemSig h n s
  | .semWait h n => Sys2Proof.Machine.execSemWait h n s
  | .semGet h a n => Sys2Proof.Machine.execSemGet h a n s
  | .seqWait h e a => Sys2Proof.Machine.execSeqWait h e a s
  | .seqGet h e a => Sys2Proof.Machine.execSeqGet h e a s
  | .condPop h a => Sys2Proof.Machine.execCondPop h a s
  | .xfence h e => Sys2Proof.Machine.execXfence h e s
  | .mcfg h lvl b => Sys2Proof.Machine.execMcfg h lvl b s
  | .mgo h => Sys2Proof.Machine.execMgo h s
  | .mkey h n => Sys2Proof.Machine.execMkey h n s
  | .mstat h a sel => Sys2Proof.Machine.execMstat h a sel s
  | .trap h a code => Sys2Proof.Machine.execTrap h a code s
  | .tret h => Sys2Proof.Machine.execTret h s
  | .kcall h svc => Sys2Proof.Machine.execKcall h svc s
  | .tlbiPage h d a pod => Sys2Proof.Machine.execTlbiPage h d a pod s
  | .tlbiAsid h d pod => Sys2Proof.Machine.execTlbiAsid h d pod s
  | .tlbiAll h pod => Sys2Proof.Machine.execTlbiAll h pod s
  | .tlbsync h => Sys2Proof.Machine.execTlbsync h s
  | .ctxSave h a => Sys2Proof.Machine.execCtxSave h a s
  | .ctxLoad h a => Sys2Proof.Machine.execCtxLoad h a s
  | .safe h => Sys2Proof.Machine.execSafe h s
  | .brk h tag => Sys2Proof.Machine.execBrk h tag s
  | .idle h => Sys2Proof.Machine.execIdle h s
  | .vAdd c => Sys2Proof.Machine.execVAdd c s
  | .vSub c => Sys2Proof.Machine.execVSub c s
  | .vMul c => Sys2Proof.Machine.execVMul c s
  | .vFma c => Sys2Proof.Machine.execVFma c s
  | .vMin c => Sys2Proof.Machine.execVMin c s
  | .vMax c => Sys2Proof.Machine.execVMax c s
  | .vDiv c => Sys2Proof.Machine.execVDiv c s
  | .vSqrt c => Sys2Proof.Machine.execVSqrt c s
  | .vRsq c => Sys2Proof.Machine.execVRsq c s
  | .vCmp c => Sys2Proof.Machine.execVCmp c s
  | .vSel c => Sys2Proof.Machine.execVSel c s
  | .vAnd c => Sys2Proof.Machine.execVAnd c s
  | .vOr c => Sys2Proof.Machine.execVOr c s
  | .vXor c => Sys2Proof.Machine.execVXor c s
  | .vNot c => Sys2Proof.Machine.execVNot c s
  | .vShl c => Sys2Proof.Machine.execVShl c s
  | .vShr c => Sys2Proof.Machine.execVShr c s
  | .vSra c => Sys2Proof.Machine.execVSra c s
  | .vClz c => Sys2Proof.Machine.execVClz c s
  | .vFfs c => Sys2Proof.Machine.execVFfs c s
  | .vPop c => Sys2Proof.Machine.execVPop c s
  | .vCvt c => Sys2Proof.Machine.execVCvt c s
  | .vQblk c => Sys2Proof.Machine.execVQblk c s
  | .vDq c => Sys2Proof.Machine.execVDq c s
  | .vTolog c => Sys2Proof.Machine.execVTolog c s
  | .vFromlog c => Sys2Proof.Machine.execVFromlog c s
  | .vLmul c => Sys2Proof.Machine.execVLmul c s
  | .vLdiv c => Sys2Proof.Machine.execVLdiv c s
  | .vLpow c => Sys2Proof.Machine.execVLpow c s
  | .vLsqrt c => Sys2Proof.Machine.execVLsqrt c s
  | .vLadd c => Sys2Proof.Machine.execVLadd c s
  | .vAct c => Sys2Proof.Machine.execVAct c s
  | .vRed c => Sys2Proof.Machine.execVRed c s
  | .vScan c => Sys2Proof.Machine.execVScan c s
  | .vFill c => Sys2Proof.Machine.execVFill c s
  | .vIdx c => Sys2Proof.Machine.execVIdx c s
  | .vPerm c => Sys2Proof.Machine.execVPerm c s
  | .vMov c => Sys2Proof.Machine.execVMov c s
  | .vSpush c => Sys2Proof.Machine.execVSpush c s
  | .vSpop c => Sys2Proof.Machine.execVSpop c s
  | .vEst c => Sys2Proof.Machine.execVEst c s
  | .vRnd c => Sys2Proof.Machine.execVRnd c s
  | .mma c => Sys2Proof.Machine.execMma c s
  | .mmaDc c => Sys2Proof.Machine.execMmaDc c s
  | .accZero c => Sys2Proof.Machine.execAccZero c s
  | .accLd c => Sys2Proof.Machine.execAccLd c s
  | .accOut c => Sys2Proof.Machine.execAccOut c s
  | .xCopy c => Sys2Proof.Machine.execXCopy c s
  | .xFill c => Sys2Proof.Machine.execXFill c s
  | .xGather c => Sys2Proof.Machine.execXGather c s
  | .xScatter c => Sys2Proof.Machine.execXScatter c s
  | .xSend c => Sys2Proof.Machine.execXSend c s
  | .xFence c => Sys2Proof.Machine.execXFence c s
  | .xWait c => Sys2Proof.Machine.execXWait c s
  | .xPget c => Sys2Proof.Machine.execXPget c s
  | .xPput c => Sys2Proof.Machine.execXPput c s
  | .xPatom c => Sys2Proof.Machine.execXPatom c s
  | .xLeaseRd c => Sys2Proof.Machine.execXLeaseRd c s
  | .xLeaseWr c => Sys2Proof.Machine.execXLeaseWr c s
  | .xLeaseRenew c => Sys2Proof.Machine.execXLeaseRenew c s
  | .xLeaseRel c => Sys2Proof.Machine.execXLeaseRel c s
  | .xPref c => Sys2Proof.Machine.execXPref c s
  | .xRcopy c => Sys2Proof.Machine.execXRcopy c s
  | .xRst c => Sys2Proof.Machine.execXRst c s
  | .xCollBcast c => Sys2Proof.Machine.execXCollBcast c s
  | .xCollGather c => Sys2Proof.Machine.execXCollGather c s
  | .xCollRscat c => Sys2Proof.Machine.execXCollRscat c s
  | .xCollAllred c => Sys2Proof.Machine.execXCollAllred c s
  | .xCircRes c => Sys2Proof.Machine.execXCircRes c s
  | .xCircRel c => Sys2Proof.Machine.execXCircRel c s
  | .xSfence c => Sys2Proof.Machine.execXSfence c s
  | .unassignedControlOpcode w => Sys2Proof.Machine.execUnassignedControlOpcode w s
  | .unassignedEngineOpcode e w => Sys2Proof.Machine.execUnassignedEngineOpcode e w s
  | .trapEntry => Sys2Proof.Machine.execTrapEntry s
  | .engineStreamRestart => Sys2Proof.Machine.execEngineStreamRestart s
  | .engineCommandComplete => Sys2Proof.Machine.execEngineCommandComplete s
  | .subarrayPowerGate => Sys2Proof.Machine.execSubarrayPowerGate s
  | .launchLoad => Sys2Proof.Machine.execLaunchLoad s
  | .launchComplete => Sys2Proof.Machine.execLaunchComplete s
  | .launchFaultStop => Sys2Proof.Machine.execLaunchFaultStop s
  | .launchCancel => Sys2Proof.Machine.execLaunchCancel s
  | .bindWrite => Sys2Proof.Machine.execBindWrite s
  | .bindAgeTick => Sys2Proof.Machine.execBindAgeTick s
  | .bindDispatch => Sys2Proof.Machine.execBindDispatch s
  | .taskDispatch => Sys2Proof.Machine.execTaskDispatch s
  | .taskCommit => Sys2Proof.Machine.execTaskCommit s
  | .ttFiring => Sys2Proof.Machine.execTtFiring s
  | .ttWindowEnd => Sys2Proof.Machine.execTtWindowEnd s
  | .almondMerge => Sys2Proof.Machine.execAlmondMerge s
  | .estimateStopArrival => Sys2Proof.Machine.execEstimateStopArrival s
  | .loadRead => Sys2Proof.Machine.execLoadRead s
  | .storePerform => Sys2Proof.Machine.execStorePerform s
  | .portArrival => Sys2Proof.Machine.execPortArrival s
  | .markerComplete => Sys2Proof.Machine.execMarkerComplete s
  | .lineEviction => Sys2Proof.Machine.execLineEviction s
  | .mwaitWake => Sys2Proof.Machine.execMwaitWake s
  | .mwaitTimeout => Sys2Proof.Machine.execMwaitTimeout s
  | .backgroundScrub => Sys2Proof.Machine.execBackgroundScrub s
  | .watchdog => Sys2Proof.Machine.execWatchdog s
  | .preemptRequest => Sys2Proof.Machine.execPreemptRequest s
  | .classPSave => Sys2Proof.Machine.execClassPSave s
  | .classSSave => Sys2Proof.Machine.execClassSSave s
  | .splimExpiry => Sys2Proof.Machine.execSplimExpiry s
  | .launchResume => Sys2Proof.Machine.execLaunchResume s
  | .dbgHalt => Sys2Proof.Machine.execDbgHalt s
  | .dbgResume => Sys2Proof.Machine.execDbgResume s
  | .dbgStep => Sys2Proof.Machine.execDbgStep s
  | .hostDebugRequest => Sys2Proof.Machine.execHostDebugRequest s
  | .messagePost => Sys2Proof.Machine.execMessagePost s
  | .fencedDelivery => Sys2Proof.Machine.execFencedDelivery s
  | .get => Sys2Proof.Machine.execGet s
  | .put => Sys2Proof.Machine.execPut s
  | .load8 => Sys2Proof.Machine.execLoad8 s
  | .store8 => Sys2Proof.Machine.execStore8 s
  | .atomic => Sys2Proof.Machine.execAtomic s
  | .leaseAcquireRead => Sys2Proof.Machine.execLeaseAcquireRead s
  | .leaseAcquireWrite => Sys2Proof.Machine.execLeaseAcquireWrite s
  | .leaseRenew => Sys2Proof.Machine.execLeaseRenew s
  | .leaseRelease => Sys2Proof.Machine.execLeaseRelease s
  | .fenceRaise => Sys2Proof.Machine.execFenceRaise s
  | .leaseRevoke => Sys2Proof.Machine.execLeaseRevoke s
  | .leaseLocalExpiry => Sys2Proof.Machine.execLeaseLocalExpiry s
  | .leaseNodeExpiry => Sys2Proof.Machine.execLeaseNodeExpiry s
  | .sproutPublish => Sys2Proof.Machine.execSproutPublish s
  | .sproutFetch => Sys2Proof.Machine.execSproutFetch s
  | .scheduleReady => Sys2Proof.Machine.execScheduleReady s
  | .scheduleDeadline => Sys2Proof.Machine.execScheduleDeadline s
  | .sproutRenew => Sys2Proof.Machine.execSproutRenew s
  | .sproutStepDone => Sys2Proof.Machine.execSproutStepDone s
  | .podTableRecord => Sys2Proof.Machine.execPodTableRecord s
  | .podMemberRemove => Sys2Proof.Machine.execPodMemberRemove s
  | .bringupStart => Sys2Proof.Machine.execBringupStart s
  | .bringupStageDone => Sys2Proof.Machine.execBringupStageDone s
  | .bringupStageTimeout => Sys2Proof.Machine.execBringupStageTimeout s
  | .codewordReceive => Sys2Proof.Machine.execCodewordReceive s
  | .replayRequest => Sys2Proof.Machine.execReplayRequest s
  | .engineFailover => Sys2Proof.Machine.execEngineFailover s
  | .endpointUnreachable => Sys2Proof.Machine.execEndpointUnreachable s
  | .pecanCycle => Sys2Proof.Machine.execPecanCycle s
  | .pecanRequest => Sys2Proof.Machine.execPecanRequest s
  | .pecanGrant => Sys2Proof.Machine.execPecanGrant s
  | .lpwrRaise => Sys2Proof.Machine.execLpwrRaise s
  | .lpwrReclaim => Sys2Proof.Machine.execLpwrReclaim s
  | .pauseFlit => Sys2Proof.Machine.execPauseFlit s
  | .resumeFlit => Sys2Proof.Machine.execResumeFlit s
  | .peerAccess => Sys2Proof.Machine.execPeerAccess s
  | .collTimeout => Sys2Proof.Machine.execCollTimeout s
  | .timeSync => Sys2Proof.Machine.execTimeSync s
  | .hostCxlMemRead => Sys2Proof.Machine.execHostCxlMemRead s
  | .hostCxlMemWrite => Sys2Proof.Machine.execHostCxlMemWrite s
  | .hostCxlIoAccess => Sys2Proof.Machine.execHostCxlIoAccess s
  | .registerWrite => Sys2Proof.Machine.execRegisterWrite s
  | .directoryWrite => Sys2Proof.Machine.execDirectoryWrite s
  | .mailboxDoorbell => Sys2Proof.Machine.execMailboxDoorbell s
  | .heartbeat => Sys2Proof.Machine.execHeartbeat s
  | .getVersion => Sys2Proof.Machine.execGetVersion s
  | .getCapabilities => Sys2Proof.Machine.execGetCapabilities s
  | .negotiateAlgorithms => Sys2Proof.Machine.execNegotiateAlgorithms s
  | .getDigests => Sys2Proof.Machine.execGetDigests s
  | .getCertificate => Sys2Proof.Machine.execGetCertificate s
  | .challenge => Sys2Proof.Machine.execChallenge s
  | .getMeasurements => Sys2Proof.Machine.execGetMeasurements s
  | .keyExchange => Sys2Proof.Machine.execKeyExchange s
  | .finish => Sys2Proof.Machine.execFinish s
  | .endSession => Sys2Proof.Machine.execEndSession s
  | .sealTagService => Sys2Proof.Machine.execSealTagService s
  | .fwcmdCheck => Sys2Proof.Machine.execFwcmdCheck s
  | .fwcmdUpdate => Sys2Proof.Machine.execFwcmdUpdate s
  | .fwcmdAbort => Sys2Proof.Machine.execFwcmdAbort s
  | .fwcmdCommit => Sys2Proof.Machine.execFwcmdCommit s
  | .fwReady => Sys2Proof.Machine.execFwReady s
  | .fwQuiesceTimeout => Sys2Proof.Machine.execFwQuiesceTimeout s
  | .fwReadyTimeout => Sys2Proof.Machine.execFwReadyTimeout s
  | .boot => Sys2Proof.Machine.execBoot s
  | .counterFlush => Sys2Proof.Machine.execCounterFlush s
  | .ageingCheck => Sys2Proof.Machine.execAgeingCheck s
  | .powerLimitStep => Sys2Proof.Machine.execPowerLimitStep s
  | .clockStretch => Sys2Proof.Machine.execClockStretch s
  | .thermalThrottle => Sys2Proof.Machine.execThermalThrottle s
  | .thermalShutdown => Sys2Proof.Machine.execThermalShutdown s
  | .l2WriteBack => Sys2Proof.Machine.execL2WriteBack s
  | .replayAcknowledgement => Sys2Proof.Machine.execReplayAcknowledgement s
  | .keyRecordAging => Sys2Proof.Machine.execKeyRecordAging s
  | .packageFailure => Sys2Proof.Machine.execPackageFailure s
  | .registerRead => Sys2Proof.Machine.execRegisterRead s
  | .podMemberAdmit => Sys2Proof.Machine.execPodMemberAdmit s

end Sys2Proof.Machine
end

