-- ==== Sys2Proof/Machine/Run.lean ====
section
/-! DEFINITION. What moves in one step (R25, R207, 95): time passes, the agenda names an agent, and that agent's
next control word, engine command or event is found. The effect of what is found is `exec`'s. -/

namespace Sys2Proof.Machine

/-- What a turn comes to: the machine has already moved to a state (nothing to run, a resumed NAS, an entry at a
boundary, a fault of fetch or decode), or an instruction runs on a state. -/
inductive Turned where
  | still (s : State)
  | runs (i : Instr) (s : State)

/-! ### Time (R24) -/

def Package.advance (p : Package) (n : Nat) : Package := { p with time := p.time + n }

/-- Time passes by a free amount, the same on every package of the pod (assumption log 60). -/
def State.advance (s : State) : State :=
  let n := Config.elapsed s.fresh
  { s with pkg := s.pkg.advance n, peers := s.peers.map (fun p => p.advance n), fresh := s.fresh + 1 }

/-! ### The control core (R25, R31, R332) -/

/-- tlbi with FORM 0b11 (R365): its level is checked (R31 step 3), then its operation faults where it is performed; a
word predicated false has its NAS alone (R26). -/
def State.tlbiBadForm (s : State) (h : Hdr) : State :=
  if !s.tile.core.level.atLeastK then s.decodeFault .privilege
  else if s.nasPending h then s.held
  else if s.performs h then s.decodeFault .illegalOpcode
  else s.nasAfter s h (s.predField h.pred)

/-- A word turned away at decode (R31 steps 1 and 2). -/
def State.decodeError (s : State) (e : DecodeError) : State :=
  match e with
  | .illegalNas => s.decodeFault .illegalNas
  | .tlbiForm h => s.tlbiBadForm h
  | _ => s.decodeFault .illegalOpcode

/-- The word at PC. -/
def State.wordTurn (s : State) : Turned :=
  match s.fetch with
  | .error fi => .still (s.takeFault fi s.tile.core.pc)
  | .ok (t, w) =>
    match decode w with
    | .ok i => .runs i t
    | .error e => .still (t.decodeError e)

/-- The core in focus. It issues only while its tile runs and no debugger has halted it. -/
def State.coreTurn (s : State) : Turned :=
  if s.tile.disp.run = .ended then .still (s.boundaryEntry.getD s)
  else if s.tile.disp.run ≠ .running ∨ s.tile.sys.dbgctl.getLsbD 1 then .still s
  else
    match s.tile.ord.nasWait with
    | some w => .still (s.nasResume w)
    | none =>
      match s.boundaryEntry with
      | some t => .still t
      | none => s.wordTurn

/-! ### An engine (R207, R214) -/

/-- The next command of a stream of the tile in focus: an X command that waits, in its turn, else the one at RP. Nothing
while the stream does not run or the command's words are not all appended. -/
def State.engineTurn (s : State) (e : Eng) : Turned :=
  if !s.streamRuns e then .still s
  else
    match s.wordsBad e, decodeEng e (s.nextWords e) with
    | some a, _ => .still (s.engFault e (s.tile.eng.ring e).rp { code := .memUncorrectable, eval := some a })
    | none, .ok i => .runs i s
    | none, .error .moreWords => .still (if e = .x then s.mapEng Engs.newRound else s)  -- nothing at RP: the waiting commands try again
    | none, .error _ => .still (if e = .x ∧ s.tile.eng.heldBack then s.mapEng Engs.newRound else s.engFault e (s.tile.eng.ring e).rp { code := .illegalOpcode })

/-! ### An event -/

/-- A row that has no encoding: it moves by the agenda alone. -/
def isEvent (i : Instr) : Bool :=
  match encode i with
  | .none => true
  | _ => false

/-- An event with its operands; a word or a command is none. -/
def State.eventTurn (s : State) (i : Instr) (x : EvArg) : Turned :=
  if isEvent i then .runs i { s with arg := x } else .still s

/-! ### The turn -/

/-- An act of the tile in focus. -/
def State.actTurn (s : State) (a : Act) : Turned :=
  match a with
  | .core => s.coreTurn
  | .engine e => s.engineTurn e
  | .event i x => s.eventTurn i x

/-- What moves next: the head of the agenda with its tile brought into focus, or the control core in focus when
the agenda is empty. `none`: the machine has no such tile. -/
def State.turn (s : State) : Except (Nat × Nat) Turned :=
  match s.agenda with
  | [] => .ok s.advance.coreTurn
  | t :: r =>
    match ({ s with agenda := r } : State).advance.focus t.pkg t.phys with
    | none => .error (t.pkg, t.phys)
    | some u => .ok (u.actTurn t.act)

/-! ### Placing one instruction (for `withFetchWord`) -/

/-- A leaf entry of 8 GiB: V, L, RD, WR, EX, CA, frame 0 (R355). -/
def identityLeaf : W64 := 0xCF00000000000000

/-- A page table that maps the 8 GiB around PC to physical 0 on, at 1 MiB, or at 2 MiB where PC lies there. -/
def State.placeTable (s : State) : State :=
  let pc := s.tile.core.pc
  let ptb : Nat := if (pc.extractLsb' 20 13).toNat = 1 then 0x200000 else 0x100000
  let s := s.mapSys (fun y => { y with ptb := BitVec.ofNat 64 ptb })
  s.updP (fun p => { p with mem := p.mem.writeN (ptb + 8 * (pc.extractLsb' 33 13).toNat) (leBytes 8 identityLeaf.toNat) })

/-- The core may fetch at PC and nothing comes before its word: a code capability over the word, a tile that
runs, no debugger, no hold, no entry. -/
def State.placeFetch (s : State) : State :=
  let cap : Cap := { typ := 7, perm := 0x200, base := s.tile.core.pc, len := 8, tag := true }
  let s := s.updT (fun t => { t with fetch := cap })
  let s := s.mapDisp (fun d => { d with run := .running, msg := none })
  let s := s.mapSys (fun y => { y with dbgctl := 0 })
  let s := s.mapOrd (fun o => { o with hold := none, mon := none, nasWait := none, bar := .idle, arrs := [], tlb := [] })
  let s := s.updP (fun p => { p with l2tlb := [] })
  s.mapEng (fun e => { e with faults := [] })

/-- A control word at PC, least significant byte first (R30). -/
def State.placeControl (s : State) (w : W64) : State :=
  let pa := (s.tile.core.pc.extractLsb' 0 33).toNat
  let s := s.placeTable.placeFetch
  s.updP (fun p => { p with mem := p.mem.writeN pa (leBytes 8 w.toNat) })

/-- The X ring of four words at core scratchpad 0, its first command the two 128-bit words, and the turn of the X
engine. -/
def State.placeX (s : State) (w0 w1 : BitVec 128) : State :=
  let n := xWords w0
  let s := s.mapDisp (fun d => { d with run := .running })
  let s := s.mapSys (fun y => { y with dbgctl := 0 })
  let s := s.mapNear (fun m => m.writeN 0 (leBytes 16 w0.toNat ++ leBytes 16 w1.toNat))
  let s := s.mapEng (fun e => { e with ringX := { q := 2, base := 0, rp := 0, wp := BitVec.ofNat 32 n }, stopX := none, heldStreams := false, settling := false, faults := [], cmds := [] })
  { s with agenda := [⟨s.pkg.num, s.tile.phys, .engine .x⟩] }

end Sys2Proof.Machine
end

