-- ==== Sys2Proof/Machine/Step.lean ====
section
/-! DEFINITION. One step of the machine: what moves next is found (Run.lean) and has its effect (Dispatch.lean). -/

namespace Sys2Proof.Machine

/-- One step: the next control word, engine command or event. -/
def step (s : State) : Host.Outcome State Fault Refusal :=
  match s.turn with
  | .error (p, t) => .fault (.noSuchTile p t)
  | .ok (.still t) => .next t
  | .ok (.runs i t) => exec i t

/-- The state with one instruction where the next step takes it from: a control word (64 bits) at PC, an X
command (128 bits and more) as the next command of the X ring (assumption log 61). -/
def State.withFetchWord (s : State) (nbits w : Nat) : State :=
  if nbits ≤ 64 then { (s.placeControl (BitVec.ofNat 64 w)) with agenda := [] }
  else s.placeX (BitVec.ofNat 128 w) (BitVec.ofNat 128 (w >>> 128))

end Sys2Proof.Machine
end

