-- ==== Sys2Proof/Safety.lean ====
section
/-! DEFINITION. The terms that the claims use: when a control word issues and what its completion is, when an
engine's command starts, and the canonical form of every memory of the machine. -/

namespace Sys2Proof

/-! ### The shape of a control word -/

/-- The header of a control word of the opcode table. -/
def Instr.hdr : Instr → Option Hdr
  | .add h _ _ _ | .sub h _ _ _ | .mul h _ _ _ | .mulhS h _ _ _ | .mulhZ h _ _ _ | .divS h _ _ _ | .divZ h _ _ _
  | .remS h _ _ _ | .remZ h _ _ _ | .and h _ _ _ | .or h _ _ _ | .xor h _ _ _ | .andn h _ _ _ | .shl h _ _ _
  | .shr h _ _ _ | .sra h _ _ _ | .rol h _ _ _ | .minS h _ _ _ | .minZ h _ _ _ | .maxS h _ _ _ | .maxZ h _ _ _
  | .sel h _ _ _ _ _ | .pand h _ _ _ | .por h _ _ _ | .pnot h _ _ | .bswapH h _ _ | .bswapW h _ _ | .bswapD h _ _
  | .cmpEq h _ _ _ | .cmpNe h _ _ _ | .cmpLt h _ _ _ | .cmpGe h _ _ _ | .cmpLtz h _ _ _ | .cmpGez h _ _ _
  | .lea h _ _ _ _ | .clzB h _ _ | .clzH h _ _ | .clzW h _ _ | .clzD h _ _ | .ffsB h _ _ | .ffsH h _ _
  | .ffsW h _ _ | .ffsD h _ _ | .popB h _ _ | .popH h _ _ | .popW h _ _ | .popD h _ _ | .fminS h _ _ _ _
  | .fminD h _ _ _ _ | .fmaxS h _ _ _ _ | .fmaxD h _ _ _ _ | .fcmpS h _ _ _ _ | .fcmpD h _ _ _ _ | .fclassS h _ _
  | .fclassD h _ _ | .fcvt h _ _ _ _ | .faddS h _ _ _ _ _ | .faddD h _ _ _ _ _ | .fsubS h _ _ _ _ _
  | .fsubD h _ _ _ _ _ | .fmulS h _ _ _ _ _ | .fmulD h _ _ _ _ _ | .fdivS h _ _ _ _ _ | .fdivD h _ _ _ _ _
  | .ffmaS h _ _ _ _ _ | .ffmaD h _ _ _ _ _ | .fsqrtS h _ _ _ _ | .fsqrtD h _ _ _ _ | .addi h _ _ _
  | .andi h _ _ _ | .ori h _ _ _ | .xori h _ _ _ | .shli h _ _ _ | .shri h _ _ _ | .srai h _ _ _ | .extS h _ _ _ _
  | .extZ h _ _ _ _ | .ins h _ _ _ _ | .li h _ _ | .nop h | .gsr h _ _ | .ssr h _ _ | .raise h _ | .barC h _
  | .barL h | .step h | .itemNext h _ _ | .estAdd h _ | .estFlush h | .estState h _ _ | .yield h | .ldBs h _ _
  | .ldBz h _ _ | .ldHs h _ _ | .ldHz h _ _ | .ldWs h _ _ | .ldWz h _ _ | .ldD h _ _ | .ldc h _ _ | .stB h _ _
  | .stH h _ _ | .stW h _ _ | .stD h _ _ | .stc h _ _ | .mark h _ | .amoAdd h _ _ _ _ _ | .amoAnd h _ _ _ _ _
  | .amoOr h _ _ _ _ _ | .amoXor h _ _ _ _ _ | .amoMin h _ _ _ _ _ | .amoMax h _ _ _ _ _ | .amoSwap h _ _ _ _ _
  | .cas h _ _ _ _ _ | .fence h _ | .acq h _ | .rel h _ | .mwait h _ _ _ _ | .cfl h _ | .cinv h _
  | .capBnd h _ _ _ | .capPrm h _ _ _ | .capOff h _ _ | .capGet h _ _ _ | .capTst h _ _ _ | .capClr h _ _
  | .bufDecl h _ _ _ | .bufSet h _ _ | .bufGet h _ _ | .enq h _ _ _ | .sdSet h _ _ _ | .sdGet h _ _ _
  | .semSig h _ | .semWait h _ | .semGet h _ _ | .seqWait h _ _ | .seqGet h _ _ | .condPop h _ | .xfence h _
  | .mcfg h _ _ | .mgo h | .mkey h _ | .mstat h _ _ | .trap h _ _ | .tret h | .kcall h _ | .tlbiPage h _ _ _
  | .tlbiAsid h _ _ | .tlbiAll h _ | .tlbsync h | .ctxSave h _ | .ctxLoad h _ | .safe h | .brk h _ | .idle h => some h
  | _ => none

/-- The control words that require level K (R360). -/
def Instr.needsK : Instr → Bool
  | .tret _ | .tlbiPage _ _ _ _ | .tlbiAsid _ _ _ | .tlbiAll _ _ | .tlbsync _ | .ctxSave _ _ | .ctxLoad _ _ | .idle _ => true
  | _ => false

/-- The launch kinds in which a control word is legal (R121). -/
def Instr.kindOk (i : Instr) (k : Machine.LaunchKind) : Bool :=
  match i with
  | .barC _ _ | .barL _ | .step _ => k == .single
  | .itemNext _ _ _ | .estFlush _ | .estState _ _ _ => k == .estimating
  | .yield _ => k != .single
  | _ => true

end Sys2Proof

namespace Sys2Proof.Machine

/-! ### Control words -/

/-- Nothing stands before a control word's operation (R25, R29, R163): no NAS waits for a value, no register it uses
waits for an access of an earlier word, and the predicate performs it (or NAS is JT or JF, R26). `rs` and `cs` are
the s and capability registers that the word uses. -/
abbrev State.Issues (s : State) (h : Hdr) (rs : List Reg) (cs : List CReg) : Prop :=
  s.tile.ord.nasWait = none ∧ (∀ r ∈ rs, s.pendingReg r = false) ∧ (∀ c ∈ cs, s.pendingCap c = false)
    ∧ (h.nas = .calli ∨ h.nas = .jmpi → s.pendingReg (nasReg h) = false) ∧ s.performs h = true

/-- The state right after a word with NAS SEQ whose operation left `t`: PC at the next word, no hold left, the time of
the launch's progress noted (R340), and a stepped core halted (R349). -/
abbrev State.sequel (s t : State) : State := (t.setPc (s.tile.core.pc + 8)).finish.boundary

/-- The word `i` completes with its operation leaving `t`, and NAS follows on `t`; with NAS SEQ the whole next state is
`sequel`. -/
abbrev Completes (i : Instr) (h : Hdr) (s t : State) : Prop :=
  exec i s = .next (s.nasAfter t h (s.predField h.pred)) ∧ (h.nas = .seq → exec i s = .next (s.sequel t))

/-- The word `i` takes a fault with no effect of its operation: EPC is its own address (R26, R31). -/
abbrev Faults (i : Instr) (s : State) (fi : FaultInfo) : Prop := exec i s = .next (s.takeFault fi s.tile.core.pc)

/-- The word `i` holds the issue point: it runs again from the state `t` (R25, R230). -/
abbrev Holds (i : Instr) (s t : State) : Prop := exec i s = .next t.held

/-! ### Commands of the engines -/

/-- Nothing stands before the command at RP of a stream: no other command is recorded, it names no semaphore to wait
for and none that does not exist, it is predicated true, and no buffer is declared (R214, R216, R219, R220). -/
abbrev State.EngineReady (s : State) (semw semr : BitVec 6) (pred : BitVec 4) : Prop :=
  s.tile.eng.cmds = [] ∧ semw = 0x3F ∧ badSem semr = false ∧ s.predField pred = true ∧ ∀ b ∈ s.tile.bufs.toList, b.v = false

/-- The record of the command at RP of a stream, as it waits there. -/
abbrev State.atRp (s : State) (e : Eng) : Cmd :=
  { eng := e, idx := (s.tile.eng.ring e).rp, words := 1, ts := s.tile.eng.ts, predTrue := true, rngs := [], waited := true }

/-- The state in which that command's work is done, and the state after it: RP past its words, the capability registers
and the token those of its start (R213, R426), its record kept until the command completes (R207, R217). The record of a
command with writes in its path queue holds them (R176). -/
abbrev State.begun (s : State) (e : Eng) : State := s.mapEng (fun g => { g with cmds := [s.atRp e] })
abbrev State.ranAt (s : State) (e : Eng) (words : Nat) (semr : BitVec 6) (ws : List (Loc × List Byte)) : Cmd :=
  ({ s.atRp e with words := words, began := true, started := true, semr := semr, writes := ws } : Cmd).ran
    (s.ringWords e (s.tile.eng.ring e).rp words) s.tile.sys.ptok
abbrev State.passed (s t : State) (e : Eng) (words : Nat) (semr : BitVec 6) (f : Cmd → Cmd := id) : State :=
  ((t.updT (fun x => { x with caps := s.tile.caps, sys := { x.sys with ptok := s.tile.sys.ptok } })).passRp e words).mapEng (fun g => { g with
    cmds := [f (s.ranAt e words semr (t.tile.eng.writesOf e (s.tile.eng.ring e).rp))] })

/-- The record of a command of X that has started, and the state in which one that waits leaves RP (R207): it tries again with
the capability registers, the token and the words of its start (R213, R426). -/
abbrev State.startedX (s : State) (words : Nat) (semr : BitVec 6) : Cmd :=
  { s.atRp .x with words := words, began := true, started := true, semr := semr }
abbrev State.waitsX (s t : State) (words : Nat) (semr : BitVec 6) : State :=
  ((t.updT (fun x => { x with caps := s.tile.caps, sys := { x.sys with ptok := s.tile.sys.ptok } })).passRp .x words).mapEng (fun g => { g with
    cmds := [{ s.startedX words semr with raw := s.ringWords .x s.tile.eng.ringX.rp words, caps := some s.tile.caps, tok := s.tile.sys.ptok, tried := true }] })

/-- m bytes from the exact address x on have 64-bit addresses (R9). -/
abbrev inSpace (x : Int) (m : Nat) : Prop := 0 ≤ x ∧ x + m ≤ 2 ^ 64

/-- A V command whose regions pass every check of R213, R268 to R270, R339 and R353. -/
abbrev State.VReady (s : State) (sp : VSpec) (c : VCmd) : Prop :=
  s.EngineReady c.semw c.semr c.pred ∧ sp.bad c = none ∧ s.vBounds sp c = none ∧ (∀ t ∈ s.allTiles, t.near.ecc = [])
    ∧ s.tile.near.locked = []

/-- A V command that writes the elements `puts` (role, index, bits) and has the effect `post` beside them (R269); `f` is what
its record keeps beside. -/
abbrev State.vDone (s : State) (sp : VSpec) (c : VCmd) (puts : List (VRole × Nat × Nat)) (post : State → State) (f : Cmd → Cmd := id) : State :=
  s.passed (post (puts.foldl (fun s p => s.vPut (s.tile.eng.ring .v).rp (sp.reg c p.1) (sp.width c p.1) p.2.1 p.2.2) (s.begun .v))) .v (1 + c.regs.length) c.semr f

/-- Elements 0 to n − 1 of D. -/
abbrev dOut (n : Nat) (f : Nat → Nat) : List (VRole × Nat × Nat) := (List.range n).map (fun i => (.d, i, f i))

/-! ### The canonical form of every memory -/

/-- Scrub marks cover whole lines (R143). -/
abbrev Near.WholeLines (n : Near) : Prop := ∀ r ∈ n.scrub, r.1 % 64 = 0 ∧ r.2 % 64 = 0

/-- The near space of a tile. -/
abbrev Tile.MemForm (t : Tile) : Prop := Memory.wf t.near.mem = true ∧ t.near.WholeLines

/-- A package: the memory behind the homes, the written and the older bytes in L2, its other tiles and its mailbox pages. -/
abbrev Package.MemForm (p : Package) : Prop :=
  Memory.wf p.mem = true ∧ Overlay.wf p.l2 = true ∧ Overlay.wf p.l2kept = true ∧ (∀ t ∈ p.tiles, t.MemForm) ∧ ∀ b ∈ p.boxes, Memory.wf b.page = true

/-- Every memory of the machine is in its one canonical form: addresses strictly rising, and no byte listed that an
unlisted address reads as. -/
abbrev State.MemForm (s : State) : Prop :=
  s.tile.MemForm ∧ s.pkg.MemForm ∧ (∀ p ∈ s.peers, p.MemForm) ∧ ∀ o ∈ s.pool, Memory.wf o.data = true

end Sys2Proof.Machine
end

