-- ==== Sys2Proof/Certificates/Slice0/Obligations.lean ====
section
/-! DEFINITION. The statements for the provers, from the numbered rules of spec/. Tables of the spec are written out
beside the statements that use them, in whole numbers and bits, apart from the model's own functions. -/

namespace Sys2Proof

/-! ### The tables of spec 04, written from the spec -/

/-- The shift amount of R37: bits 5:0. -/
def Spec.shift (b : W64) : Nat := b.toNat % 64

/-- R64 and R38: the value that each integer function of class A writes. -/
def Spec.alu : List ((Hdr → Reg → Reg → Reg → Instr) × (W64 → W64 → W64)) :=
  [(.add, fun a b => BitVec.ofNat 64 (a.toNat + b.toNat)),
   (.sub, fun a b => BitVec.ofInt 64 (a.toInt - b.toInt)),
   (.mul, fun a b => BitVec.ofNat 64 (a.toNat * b.toNat)),
   (.mulhS, fun a b => BitVec.ofInt 64 (a.toInt * b.toInt / 2 ^ 64)),
   (.mulhZ, fun a b => BitVec.ofNat 64 (a.toNat * b.toNat / 2 ^ 64)),
   (.divS, fun a b => if b = 0 then 0xFFFFFFFFFFFFFFFF else BitVec.ofInt 64 (a.toInt.tdiv b.toInt)),
   (.divZ, fun a b => if b = 0 then 0xFFFFFFFFFFFFFFFF else BitVec.ofNat 64 (a.toNat / b.toNat)),
   (.remS, fun a b => if b = 0 then a else BitVec.ofInt 64 (a.toInt.tmod b.toInt)),
   (.remZ, fun a b => if b = 0 then a else BitVec.ofNat 64 (a.toNat % b.toNat)),
   (.and, fun a b => a &&& b),
   (.or, fun a b => a ||| b),
   (.xor, fun a b => a ^^^ b),
   (.andn, fun a b => a &&& ~~~b),
   (.shl, fun a b => BitVec.ofNat 64 (a.toNat * 2 ^ Spec.shift b)),
   (.shr, fun a b => BitVec.ofNat 64 (a.toNat / 2 ^ Spec.shift b)),
   (.sra, fun a b => BitVec.ofInt 64 (a.toInt / 2 ^ Spec.shift b)),
   (.rol, fun a b => (a <<< Spec.shift b) ||| (a >>> (64 - Spec.shift b))),
   (.minS, fun a b => if a.toInt < b.toInt then a else b),
   (.minZ, fun a b => if a.toNat < b.toNat then a else b),
   (.maxS, fun a b => if a.toInt > b.toInt then a else b),
   (.maxZ, fun a b => if a.toNat > b.toNat then a else b)]

/-- R65: the value that each immediate function writes from s[A] and its immediate. -/
def Spec.imm : List ((Hdr → Reg → Reg → BitVec 20 → Instr) × (W64 → BitVec 20 → W64)) :=
  [(.addi, fun a i => BitVec.ofInt 64 (a.toInt + i.toInt)),
   (.andi, fun a i => a &&& BitVec.ofInt 64 i.toInt),
   (.ori, fun a i => a ||| BitVec.ofInt 64 i.toInt),
   (.xori, fun a i => a ^^^ BitVec.ofInt 64 i.toInt)]

/-- R65: the immediate shifts. -/
def Spec.shifts : List ((Hdr → Reg → Reg → BitVec 6 → Instr) × (W64 → BitVec 6 → W64)) :=
  [(.shli, fun a n => BitVec.ofNat 64 (a.toNat * 2 ^ n.toNat)),
   (.shri, fun a n => BitVec.ofNat 64 (a.toNat / 2 ^ n.toNat)),
   (.srai, fun a n => BitVec.ofInt 64 (a.toInt / 2 ^ n.toNat))]

/-- Element k of w bits. -/
def Spec.elem (w k : Nat) (a : W64) : Nat := a.toNat / 2 ^ (w * k) % 2 ^ w

/-- R39 on one element of w bits. -/
def Spec.clz (w x : Nat) : Nat := ((List.range w).find? (fun n => x.testBit (w - 1 - n))).getD w
def Spec.ffs (w x : Nat) : Nat := (((List.range w).find? (fun n => x.testBit n)).map (· + 1)).getD 0
def Spec.pop (w x : Nat) : Nat := ((List.range w).filter (fun n => x.testBit n)).length

/-- R73: the packed bit counts with their element widths. -/
def Spec.counts : List ((Hdr → Reg → Reg → Instr) × Nat × (Nat → Nat)) :=
  [(.clzB, 8, Spec.clz 8), (.clzH, 16, Spec.clz 16), (.clzW, 32, Spec.clz 32), (.clzD, 64, Spec.clz 64),
   (.ffsB, 8, Spec.ffs 8), (.ffsH, 16, Spec.ffs 16), (.ffsW, 32, Spec.ffs 32), (.ffsD, 64, Spec.ffs 64),
   (.popB, 8, Spec.pop 8), (.popH, 16, Spec.pop 16), (.popW, 32, Spec.pop 32), (.popD, 64, Spec.pop 64)]

/-- R71: the byte reversals with their element widths in bytes. -/
def Spec.swaps : List ((Hdr → Reg → Reg → Instr) × Nat) := [(.bswapH, 2), (.bswapW, 4), (.bswapD, 8)]

/-- R68: the conditions of the integer compares. -/
def Spec.cmp : List ((Hdr → PReg → Reg → Reg → Instr) × (W64 → W64 → Bool)) :=
  [(.cmpEq, fun a b => decide (a = b)), (.cmpNe, fun a b => decide (a ≠ b)),
   (.cmpLt, fun a b => decide (a.toInt < b.toInt)), (.cmpGe, fun a b => decide (a.toInt ≥ b.toInt)),
   (.cmpLtz, fun a b => decide (a.toNat < b.toNat)), (.cmpGez, fun a b => decide (a.toNat ≥ b.toNat))]

end Sys2Proof

/-! ### Integer words -/

section
open Sys2Proof Sys2Proof.Machine

/-- R64 with R37 and R38, R65 and R67: each integer function of class A, each immediate function and li write their value
to s[D] and change nothing else; a write to s0 is discarded by `setReg` (HardWiredRegisters). R73 with R39: each element of s[D]
is the count of the same element of s[A]. R71: byte j of element i of s[D] is byte w/8 − 1 − j of the same element of s[A]. -/
def Obligations.IntegerFunctions : Prop :=
  (∀ f ∈ Spec.alu, ∀ (s : State) (h : Hdr) (d a b : Reg), s.Issues h [d, a, b] [] →
    Completes (f.1 h d a b) h s (s.setReg d (f.2 (s.reg a) (s.reg b))))
  ∧ ((∀ f ∈ Spec.imm, ∀ (s : State) (h : Hdr) (d a : Reg) (i : BitVec 20), s.Issues h [d, a] [] →
    Completes (f.1 h d a i) h s (s.setReg d (f.2 (s.reg a) i)))
  ∧ (∀ f ∈ Spec.shifts, ∀ (s : State) (h : Hdr) (d a : Reg) (n : BitVec 6), s.Issues h [d, a] [] →
    Completes (f.1 h d a n) h s (s.setReg d (f.2 (s.reg a) n)))
  ∧ ∀ (s : State) (h : Hdr) (d : Reg) (i : BitVec 41), s.Issues h [d] [] →
    Completes (.li h d i) h s (s.setReg d (BitVec.ofInt 64 i.toInt)))
  ∧ (∀ f ∈ Spec.counts, ∀ (s : State) (h : Hdr) (d a : Reg), s.Issues h [d, a] [] →
    ∃ v : W64, Completes (f.1 h d a) h s (s.setReg d v)
      ∧ ∀ k < 64 / f.2.1, Spec.elem f.2.1 k v = f.2.2 (Spec.elem f.2.1 k (s.reg a)))
  ∧ (∀ f ∈ Spec.swaps, ∀ (s : State) (h : Hdr) (d a : Reg), s.Issues h [d, a] [] →
    ∃ v : W64, Completes (f.1 h d a) h s (s.setReg d v)
      ∧ ∀ i < 8 / f.2, ∀ j < f.2, Spec.elem 8 (i * f.2 + j) v = Spec.elem 8 (i * f.2 + (f.2 - 1 - j)) (s.reg a))

/-- R70 and R72: sel chooses by its own predicate, and lea adds a shifted index. R68 and R69: the compares and the
predicate logic write p[D] alone. -/
def Obligations.SelectLeaCompare : Prop :=
  ((∀ (s : State) (h : Hdr) (d a b : Reg) (inv : Bool) (n : PReg), s.Issues h [d, a, b] [] →
    Completes (.sel h d a b inv n) h s (s.setReg d (if s.pred n ≠ inv then s.reg a else s.reg b)))
  ∧ ∀ (s : State) (h : Hdr) (d a b : Reg) (sh : BitVec 2), s.Issues h [d, a, b] [] →
    Completes (.lea h d a b sh) h s (s.setReg d (BitVec.ofNat 64 ((s.reg a).toNat + (s.reg b).toNat * 2 ^ sh.toNat))))
  ∧ ((∀ f ∈ Spec.cmp, ∀ (s : State) (h : Hdr) (d : PReg) (a b : Reg), s.Issues h [a, b] [] →
    Completes (f.1 h d a b) h s (s.setPred d (f.2 (s.reg a) (s.reg b))))
  ∧ ∀ (s : State) (h : Hdr) (d a b : PReg), s.Issues h [] [] →
    Completes (.pand h d a b) h s (s.setPred d (s.pred a && s.pred b))
    ∧ Completes (.por h d a b) h s (s.setPred d (s.pred a || s.pred b))
    ∧ Completes (.pnot h d a) h s (s.setPred d (!s.pred a)))

/-- R66: a field that passes bit 63 raises ILLEGAL_OPCODE with no effect; otherwise ext.s, ext.z and ins write s[D]
as the rule's pseudocode gives it. -/
def Obligations.BitFields : Prop :=
  ∀ (s : State) (h : Hdr) (d a : Reg) (lm1 pos : BitVec 6), s.Issues h [d, a] [] →
    let len := lm1.toNat + 1
    (pos.toNat + len > 64 →
      Faults (.extS h d a lm1 pos) s { code := .illegalOpcode } ∧ Faults (.extZ h d a lm1 pos) s { code := .illegalOpcode }
      ∧ Faults (.ins h d a lm1 pos) s { code := .illegalOpcode })
    ∧ (pos.toNat + len ≤ 64 →
      Completes (.extS h d a lm1 pos) h s (s.setReg d (((s.reg a).extractLsb' pos.toNat len).signExtend 64))
      ∧ Completes (.extZ h d a lm1 pos) h s (s.setReg d (((s.reg a).extractLsb' pos.toNat len).zeroExtend 64))
      ∧ ∃ v : W64, Completes (.ins h d a lm1 pos) h s (s.setReg d v)
        ∧ ∀ k < 64, v.getLsbD k = if pos.toNat ≤ k ∧ k < pos.toNat + len then (s.reg a).getLsbD (k - pos.toNat) else (s.reg d).getLsbD k)

/-- R18: s0 reads zero and a write to it is discarded; every other s register reads the value last written to it,
and a write leaves every other register as it was. p0 is true in the same way. -/
def Obligations.HardWiredRegisters : Prop :=
  ∀ (s : State) (r q : Reg) (v : W64) (n m : PReg) (b : Bool),
    s.reg 0 = 0 ∧ s.setReg 0 v = s ∧ (s.setReg r v).reg q = (if q = r ∧ r ≠ 0 then v else s.reg q)
    ∧ s.pred 0 = true ∧ s.setPred 0 b = s ∧ (s.setPred n b).pred m = (if m = n ∧ n ≠ 0 then b else s.pred m)

/-! ### Next-address selectors and the return stack -/

/-- R26 with R31: a control word that its predicate skips has no effect of its operation and raises none of its faults;
NAS takes effect. The level of R360 and the launch kind of R121 are checked before the predicate.
That a word with JT or JF is not skipped is R25's reading (log 12). -/
def Obligations.SkippedWord : Prop :=
  ∀ (s : State) (h : Hdr) (i : Instr), i.hdr = some h → s.tile.ord.nasWait = none → s.performs h = false →
    (∀ r, s.pendingReg r = false) → (∀ c, s.pendingCap c = false) →
    (i.needsK = true → s.tile.core.level ≠ .u) → i.kindOk s.tile.par.kind = true →
    exec i s = .next (s.nasAfter s h (s.predField h.pred))

/-- R27: SEQ, JMP, JT, JF and LOOP after any word; `t` is the state that its operation left. END ends the program after the
operation; in a batch that has not flushed it performs est.flush first, which faults where the item count is not the batch's (R129). R27, R28 and R29:
an indirect target that is not a multiple of 8 cancels the whole word with MISALIGNED, EVAL the register value that the operation left; an aligned one
is the new PC. CALLI checks the push, then the target (R33).
That a word with JT or JF always performs is the model's reading (log 12). -/
def Obligations.NextAddressSelect : Prop :=
  ((∀ (s t : State) (h : Hdr) (p : Bool),
    let next : W64 := s.tile.core.pc + 8
    let dest : W64 := BitVec.ofInt 64 (s.tile.core.pc.toInt + 8 * h.tgt.toInt)
    (h.nas = .seq → s.nasAfter t h p = (t.setPc next).finish.boundary)
    ∧ (h.nas = .jmp → s.nasAfter t h p = (t.setPc dest).finish.boundary)
    ∧ (h.nas = .jt → s.nasAfter t h p = (t.setPc (if p then dest else next)).finish.boundary)
    ∧ (h.nas = .jf → s.nasAfter t h p = (t.setPc (if p then next else dest)).finish.boundary)
    ∧ (h.nas = .loop → s.nasAfter t h p =
        ((t.mapCore (fun c => { c with lc := c.lc - 1 })).setPc (if t.tile.core.lc ≠ 1 then dest else next)).finish.boundary))
  ∧ (∀ (s t : State) (h : Hdr) (p : Bool), h.nas = .endp →
    (¬ (t.tile.par.kind = .estimating ∧ t.tile.task.index.isSome ∧ t.tile.task.flush = none) →
      s.nasAfter t h p = t.finish.atEnd.boundary ∧ (s.nasAfter t h p).tile.disp.run = .ended)
    ∧ (t.tile.par.kind = .estimating → t.tile.task.index.isSome → t.tile.task.flush = none →
      t.nearBusy estRange.1 estRange.2 false = false → t.tile.task.stop = false →
      s.nasAfter t h p =
        if t.tile.par.estN.toNat ≠ t.batchItems then
          s.takeFault { code := .illegalOpcode, eval := some t.tile.par.estN } s.tile.core.pc
        else (t.mapTask (fun k => { k with flush := some (t.tile.par.estN, t.tile.par.estMean, t.tile.par.estM2) })).finish.atEnd.boundary)))
  ∧ ((∀ (s t : State) (h : Hdr) (p : Bool), h.nas = .jmpi →
    let v := t.reg (h.tgt.extractLsb' 0 5)
    s.nasAfter t h p = if v.toNat % 8 ≠ 0 then s.takeFault { code := .misaligned, eval := some v } s.tile.core.pc
      else (t.setPc v).finish.boundary)
  ∧ (∀ (s t : State) (h : Hdr) (p : Bool), h.nas = .calli → t.tile.near.ecc = [] → t.tile.near.locked = [] →
    t.nearBusy (stackAddr t.tile.core.ssp) (stackAddr t.tile.core.ssp + 8) true = false →
    let v := t.reg (h.tgt.extractLsb' 0 5)
    s.nasAfter t h p =
      if ¬ (t.tile.core.ssbase.toNat ≤ t.tile.core.ssp.toNat ∧ t.tile.core.ssp.toNat + 8 ≤ t.tile.core.sslim.toNat) then
        s.takeFault { code := .stackLimit, eval := some 0 } s.tile.core.pc
      else if v.toNat % 8 ≠ 0 then s.takeFault { code := .misaligned, eval := some v } s.tile.core.pc
      else ((t.pushAll [s.tile.core.pc + 8]).setPc v).finish.boundary))

/-- R27, R33 and R34: CALL pushes the address of the next word and jumps; with no room the word is cancelled with
STACK_LIMIT, EVAL 0. The pushed entry reads back, and no other byte of the near space outside scrub-pending lines changes.
R35: RET pops one entry, or two where bit 0 of the first is set; a pop that is not allowed cancels the word with STACK_LIMIT, EVAL 1.
R36: raise pushes EXH and the return address with bit 0 set, saves EPC and EVAL, clears EXH and jumps to the handler; with EXH 0 it
raises UNHANDLED_EXCEPTION, with no room STACK_LIMIT, and then nothing is pushed. R353 and R339: a push into a write-locked line
raises CODE_WRITE, an entry in a line with an uncorrectable error MEM_UNCORRECTABLE, each with EVAL the entry's address.
That each entry stands at its own address modulo 2 MiB is the model's reading (log 9), and so is it that a raise clears bits 2:0 of the EXH it
takes as PC (log 98). -/
def Obligations.ReturnStack : Prop :=
  ((∀ (s t : State) (h : Hdr) (p : Bool), h.nas = .call → Memory.wf t.tile.near.mem = true → t.tile.near.scrub = [] →
    t.nearBusy (stackAddr t.tile.core.ssp) (stackAddr t.tile.core.ssp + 8) true = false →
    let ssp := t.tile.core.ssp
    let clean := t.tile.near.ecc = [] ∧ t.tile.near.locked = []
    (¬ (t.tile.core.ssbase.toNat ≤ ssp.toNat ∧ ssp.toNat + 8 ≤ t.tile.core.sslim.toNat) →
      s.nasAfter t h p = s.takeFault { code := .stackLimit, eval := some 0 } s.tile.core.pc)
    ∧ (t.tile.core.ssbase.toNat ≤ ssp.toNat ∧ ssp.toNat + 8 ≤ t.tile.core.sslim.toNat → t.tile.near.ecc = [] →
      meetsRanges t.tile.near.locked (stackAddr ssp) (stackAddr ssp + 8) = true →
      s.nasAfter t h p = s.takeFault { code := .codeWrite, eval := some ssp } s.tile.core.pc)
    ∧ (t.tile.core.ssbase.toNat ≤ ssp.toNat ∧ ssp.toNat + 8 ≤ t.tile.core.sslim.toNat → clean →
      let u := s.nasAfter t h p
      u.tile.core.pc = BitVec.ofInt 64 (s.tile.core.pc.toInt + 8 * h.tgt.toInt)
      ∧ u.tile.core.ssp = ssp + 8 ∧ u.stackWord ssp = s.tile.core.pc + 8
      ∧ (∀ r, u.reg r = t.reg r)
      ∧ ∀ a, (a < stackAddr ssp ∨ stackAddr ssp + 8 ≤ a) → Memory.read u.tile.near.mem a = Memory.read t.tile.near.mem a))
  ∧ (∀ (s t : State) (h : Hdr) (p : Bool), h.nas = .ret →
    (∀ lo hi, t.nearBusy lo hi false = false) →
    let c := t.tile.core
    let e := t.stackWord (c.ssp - 8)
    (¬ (c.ssbase.toNat + 8 ≤ c.ssp.toNat ∧ c.ssp.toNat ≤ c.sslim.toNat) →
      s.nasAfter t h p = s.takeFault { code := .stackLimit, eval := some 1 } s.tile.core.pc)
    ∧ (c.ssbase.toNat + 8 ≤ c.ssp.toNat ∧ c.ssp.toNat ≤ c.sslim.toNat → stackAddr (c.ssp - 8) / 64 ∈ t.tile.near.ecc →
      s.nasAfter t h p = s.takeFault { code := .memUncorrectable, eval := some (c.ssp - 8) } s.tile.core.pc)
    ∧ (t.tile.near.ecc = [] →
    (c.ssbase.toNat + 8 ≤ c.ssp.toNat ∧ c.ssp.toNat ≤ c.sslim.toNat → e.getLsbD 0 = false →
      s.nasAfter t h p = (t.mapCore (fun c => { c with ssp := c.ssp - 8, pc := e &&& ~~~7 })).finish.boundary)
    ∧ (c.ssbase.toNat + 16 ≤ c.ssp.toNat ∧ c.ssp.toNat ≤ c.sslim.toNat → e.getLsbD 0 = true →
      s.nasAfter t h p =
        (t.mapCore (fun c => { c with ssp := c.ssp - 16, exh := t.stackWord (c.ssp - 16), pc := e &&& ~~~7 })).finish.boundary)
    ∧ (c.ssbase.toNat + 8 ≤ c.ssp.toNat ∧ c.ssp.toNat < c.ssbase.toNat + 16 ∧ c.ssp.toNat ≤ c.sslim.toNat → e.getLsbD 0 = true →
      s.nasAfter t h p = s.takeFault { code := .stackLimit, eval := some 1 } s.tile.core.pc))))
  ∧ (∀ (s : State) (h : Hdr) (a : Reg), s.Issues h [a] [] → s.tile.near.ecc = [] → s.tile.near.locked = [] →
    (∀ e ∈ [s.tile.core.ssp, s.tile.core.ssp + 8], s.nearBusy (stackAddr e) (stackAddr e + 8) true = false) →
    let c := s.tile.core
    let room := c.ssbase.toNat ≤ c.ssp.toNat ∧ c.ssp.toNat + 16 ≤ c.sslim.toNat
    (c.exh = 0 → Faults (.raise h a) s { code := .unhandledException, eval := some (s.reg a) })
    ∧ (c.exh ≠ 0 → ¬ room → Faults (.raise h a) s { code := .stackLimit, eval := some 0 })
    ∧ (c.exh ≠ 0 → room → exec (.raise h a) s =
        .next ((s.pushAll [c.exh, (c.pc + 8) ||| 1]).mapCore (fun x =>
          { x with epc := c.pc, eval := s.reg a, exh := 0, pc := c.exh &&& ~~~7 })).finish.boundary
      ∧ (Memory.wf s.tile.near.mem = true → s.tile.near.scrub = [] → c.ssp.toNat % 8 = 0 →
        (s.pushAll [c.exh, (c.pc + 8) ||| 1]).stackWord c.ssp = c.exh
        ∧ (s.pushAll [c.exh, (c.pc + 8) ||| 1]).stackWord (c.ssp + 8) = (c.pc + 8) ||| 1)))

end

namespace Sys2Proof
open Sys2Proof.Machine

/-! ### The tables of spec 04's floating point and special registers -/

/-- R74: the rounded groups with two sources (ffma has s[D] as its addend), and the roots. -/
def Spec.rounded : List ((Hdr → RmSel → Reg → Reg → Reg → FMods → Instr) × FOp × Fmt) :=
  [(.faddS, .add, fmt32), (.faddD, .add, fmt64), (.fsubS, .sub, fmt32), (.fsubD, .sub, fmt64), (.fmulS, .mul, fmt32), (.fmulD, .mul, fmt64),
   (.fdivS, .div, fmt32), (.fdivD, .div, fmt64), (.ffmaS, .fma, fmt32), (.ffmaD, .fma, fmt64)]
def Spec.roots : List ((Hdr → RmSel → Reg → Reg → FMods → Instr) × Fmt) := [(.fsqrtS, fmt32), (.fsqrtD, fmt64)]

/-- R76: fmin and fmax; `true` selects the larger. -/
def Spec.minMax : List ((Hdr → Reg → Reg → Reg → FMods → Instr) × Bool × Fmt) :=
  [(.fminS, false, fmt32), (.fminD, false, fmt64), (.fmaxS, true, fmt32), (.fmaxD, true, fmt64)]

/-- The flags of R43 as FCSR bits 4:0 (spec 02, FCSR). -/
def Spec.flagBits (f : FlagSet) : W64 :=
  BitVec.ofNat 64 (16 * f.nv.toNat + 8 * f.dz.toNat + 4 * f.of.toNat + 2 * f.uf.toNat + f.nx.toNat)

/-- An operation's result in s[D] and its flags added to FCSR. -/
def Spec.fresult (s : State) (d : Reg) (r : Nat × FlagSet) : State :=
  (s.setReg d (BitVec.ofNat 64 r.1)).mapCore (fun c => { c with fcsr := c.fcsr ||| Spec.flagBits r.2 })

/-- R237: the value of a floating-point number, exact; an infinity counts as a number past every format. -/
def Spec.value : FVal → Rat
  | .fin n m e => (if n then -1 else 1) * (m : Rat) * (2 : Rat) ^ e
  | .inf n => (if n then -1 else 1) * (2 : Rat) ^ (4000 : Int)
  | .nan _ => 0

/-- R237: the magnitude that a code without its sign stands for, the codes past the largest finite number too. -/
def Spec.mag (f : Fmt) (c : Nat) : Rat := ((f.magOf c).1 : Rat) * (2 : Rat) ^ (f.magOf c).2

/-- R40, R41 and R43: `r` is the one rounding of an exact magnitude with sign `neg`. `below t` says that the magnitude
lies above t, `at_ t` that it is t. Between the codes c and c + 1 the mode chooses; a result past the largest finite code
overflows; UF needs a result that is inexact and below the normal range. -/
def Spec.Rounds (f : Fmt) (mode : RMode) (neg : Bool) (below at_ : Rat → Prop) (r : Nat × FlagSet) : Prop :=
  let sign : Nat := if neg then 2 ^ (f.bits - 1) else 0
  ∀ c k : Nat, (below (Spec.mag f c) ∨ at_ (Spec.mag f c)) → ¬ (below (Spec.mag f (c + 1)) ∨ at_ (Spec.mag f (c + 1))) →
    let nx := below (Spec.mag f c)
    let mid := (Spec.mag f c + Spec.mag f (c + 1)) / 2
    let up := (mode = .ru ∧ nx ∧ neg = false) ∨ (mode = .rd ∧ nx ∧ neg = true) ∨ (mode = .rne ∧ (below mid ∨ (at_ mid ∧ c % 2 = 1)))
    (up → k = c + 1) → (¬ up → k = c) →
      (f.maxCode < k → r = (sign + (if mode = .rne ∨ (mode = .ru ∧ neg = false) ∨ (mode = .rd ∧ neg = true) then f.maxCode + 1 else f.maxCode), { of := true, nx := true }))
      ∧ (k ≤ f.maxCode → r.1 = sign + k ∧ (r.2.nx = true ↔ nx) ∧ r.2.nv = false ∧ r.2.dz = false ∧ r.2.of = false
          ∧ (r.2.uf = true → nx ∧ ¬ below (Spec.mag f (2 ^ f.w)) ∧ ¬ at_ (Spec.mag f (2 ^ f.w)))
          ∧ (nx → ¬ below (Spec.mag f (2 ^ f.w - 1)) → r.2.uf = true))

/-- The rounding of an exact number that is not zero. -/
def Spec.RoundsTo (f : Fmt) (mode : RMode) (q : Rat) (r : Nat × FlagSet) : Prop :=
  Spec.Rounds f mode (decide (q < 0)) (fun t => t < q.abs) (fun t => t = q.abs) r

/-- A number rounded to an integer in a mode (R44). -/
def Spec.toInt (mode : RMode) (q : Rat) : Int :=
  match mode with
  | .rd => q.floor
  | .ru => q.ceil
  | .rz => if q < 0 then q.ceil else q.floor
  | .rne =>
    let d := q - (q.floor : Rat)
    if d < 1 / 2 then q.floor else if 1 / 2 < d then q.floor + 1 else if q.floor % 2 = 0 then q.floor else q.floor + 1

/-- The clamp of R49 and R50 on an encoding. -/
def Spec.clamped (f : Fmt) (c : BitVec 2) (x : Nat) : Nat :=
  let v := f.decode x
  let sign : Nat := if v.neg then 2 ^ (f.bits - 1) else 0
  if v.isNan then x
  else if c = 1 then (if v.neg then 0 else x)
  else if c = 2 then (if 1 < (Spec.value v).abs then sign + f.bias * 2 ^ f.w else x)
  else if c = 3 ∧ v.isFin = false then sign + f.maxCode
  else x

/-- The bits that a write keeps of the special registers that hold what is written (R82 and the tables that extend
R21). -/
def Spec.plainSpecials : List (Nat × W64) :=
  let all : W64 := 0xFFFFFFFFFFFFFFFF
  [(0x000, 0x31F), (0x001, 0xFF), (0x002, all), (0x003, all), (0x004, all), (0x005, all), (0x006, all), (0x007, all - 7), (0x008, all - 7),
   (0x01A, all), (0x01B, all), (0x01C, all), (0x020, all), (0x03B, 1), (0x03E, 0xC0000000FFFFFFFF),
   (0x040, 0xFFFFFFFF), (0x041, 0xFFFFFFFF), (0x042, 0xFFFFFFFF), (0x043, 0xFFFFFFFF),
   (0x044, 0xFFFFFFFF), (0x045, 0xFFFFFFFF), (0x046, 0xFFFFFFFF), (0x047, 0xFFFFFFFF),
   (0x050, all), (0x051, all), (0x052, 0xFF), (0x053, all), (0x054, all), (0x055, 0xFFFF), (0x060, all), (0x061, all), (0x062, all)]

end Sys2Proof

/-! ### Scalar floating point -/

section
open Sys2Proof Sys2Proof.Machine

/-- R74, R43, R20: a rounded operation writes the one rounding of its exact result to s[D], a binary32 with bits
63:32 zero, adds its flags to FCSR, and changes nothing else. R76, R77 and R78: minimum, maximum, compare and classify; a
compare sets at most NV, and fclass writes exactly one bit and no flag. R40, R41, R49 and R50: on finite operands the value is the
exact sum, difference, product, quotient, multiply-add or root times 2^k, rounded once, then clamped; R75 gives an exact zero its sign. fmin and
fmax take the smaller or larger operand, −0 below +0, and the number beside a NaN. R42, R43 and R75 on the rounded
operations: every NaN result is the canonical one, only a signalling NaN operand sets NV; the invalid cases give the canonical NaN and NV; a finite
nonzero number divided by zero gives DZ and an infinity with the XOR of the signs; the root of −0 is −0. -/
def Obligations.ScalarFloat : Prop :=
  (((∀ f ∈ Spec.rounded, ∀ (s : State) (h : Hdr) (rm : RmSel) (d a b : Reg) (m : FMods), s.Issues h [d, a, b] [] →
    let src (r : Reg) : Nat := (s.reg r).toNat % 2 ^ f.2.2.bits
    let res := farith f.2.1 f.2.2 (s.rmode rm) m (src a) (src b) (src d)
    Completes (f.1 h rm d a b m) h s (Spec.fresult s d res) ∧ res.1 < 2 ^ f.2.2.bits)
  ∧ ∀ f ∈ Spec.roots, ∀ (s : State) (h : Hdr) (rm : RmSel) (d a : Reg) (m : FMods), s.Issues h [d, a, 0] [] →
    let src (r : Reg) : Nat := (s.reg r).toNat % 2 ^ f.2.bits
    let res := farith .sqrt f.2 (s.rmode rm) m (src a) (src 0) (src d)
    Completes (f.1 h rm d a m) h s (Spec.fresult s d res) ∧ res.1 < 2 ^ f.2.bits)
  ∧ ((∀ f ∈ Spec.minMax, ∀ (s : State) (h : Hdr) (d a b : Reg) (m : FMods), s.Issues h [d, a, b] [] →
    let src (r : Reg) : Nat := (s.reg r).toNat % 2 ^ f.2.2.bits
    Completes (f.1 h d a b m) h s (Spec.fresult s d (fminmax f.2.1 f.2.2 (s.rmode .dyn) m (src a) (src b))))
  ∧ (∀ f ∈ [(Instr.fcmpS, fmt32), (Instr.fcmpD, fmt64)], ∀ (s : State) (h : Hdr) (cc : BitVec 2) (d : PReg) (a b : Reg), s.Issues h [a, b] [] →
    let x := f.2.decode ((s.reg a).toNat % 2 ^ f.2.bits)
    let y := f.2.decode ((s.reg b).toNat % 2 ^ f.2.bits)
    let nan := x.isNan || y.isNan
    let holds := if nan then cc == 3 else (cc == 0 && x.eq y) || (cc == 1 && x.lt y) || (cc == 2 && (x.lt y || x.eq y))
    let nv := nan && (x.isSig || y.isSig || cc == 1 || cc == 2)
    Completes (f.1 h cc d a b) h s ((s.setPred d holds).mapCore (fun c => { c with fcsr := c.fcsr ||| Spec.flagBits { nv := nv } })))
  ∧ (∀ f ∈ [(Instr.fclassS, fmt32), (Instr.fclassD, fmt64)], ∀ (s : State) (h : Hdr) (d a : Reg), s.Issues h [d, a] [] →
    let k : Nat := match f.2.decode ((s.reg a).toNat % 2 ^ f.2.bits) with
      | .nan sig => if sig then 8 else 9
      | .inf n => if n then 0 else 7
      | .fin n g _ => if g = 0 then (if n then 3 else 4) else if g < 2 ^ f.2.w then (if n then 2 else 5) else if n then 1 else 6
    Completes (f.1 h d a) h s (s.setReg d (BitVec.ofNat 64 (2 ^ k))))))
  ∧ (∀ f ∈ [fmt32, fmt64], ∀ (mode : RMode) (m : FMods) (a b d : Nat),
    let x := (f.decode a).src m.na m.aa
    let y := (f.decode b).src m.nb m.ab
    let z := f.decode d
    let invalid : Nat × FlagSet := (f.nanCode, { nv := true })
    (∀ op ∈ [FOp.add, .sub, .mul, .div], x.isNan = true ∨ y.isNan = true →
      farith op f mode m a b d = (f.nanCode, { nv := x.isSig || y.isSig }))
    ∧ (x.isNan = true ∨ y.isNan = true → farith .fma f mode m a b d = (f.nanCode, { nv := x.isSig || y.isSig || z.isSig }))
    ∧ (x.isNan = true → farith .sqrt f mode m a b d = (f.nanCode, { nv := x.isSig }))
    ∧ (∀ n, x = .inf n → y = .inf (!n) → farith .add f mode m a b d = invalid)
    ∧ (∀ n, x = .inf n → y = .inf n → farith .sub f mode m a b d = invalid)
    ∧ (∀ n k e, x = .fin k 0 e → y = .inf n → farith .mul f mode m a b d = invalid ∧ farith .fma f mode m a b d = invalid)
    ∧ (∀ n k e g, x = .fin k 0 e → y = .fin n 0 g → farith .div f mode m a b d = invalid)
    ∧ (∀ n k, x = .inf k → y = .inf n → farith .div f mode m a b d = invalid)
    ∧ (∀ g e, g ≠ 0 → x = .fin true g e → farith .sqrt f mode m a b d = invalid)
    ∧ (∀ n k g e q, g ≠ 0 → m.clamp = 0 → x = .fin k g e → y = .fin n 0 q →
        farith .div f mode m a b d = (f.infCode (k != n), { dz := true }))
    ∧ (∀ e, m.clamp = 0 → x = .fin true 0 e → farith .sqrt f mode m a b d = (2 ^ (f.bits - 1), {})))
  ∧ (∀ f ∈ [fmt32, fmt64], ∀ (mode : RMode) (m : FMods) (a b d : Nat),
    let x := (f.decode a).src m.na m.aa
    let y := (f.decode b).src m.nb m.ab
    let z := f.decode d
    let X := Spec.value x
    let Y := Spec.value y
    let Z := Spec.value z
    let k : Rat := (2 : Rat) ^ m.k.toInt
    let rounds (op : FOp) (q : Rat) : Prop := q ≠ 0 → Spec.RoundsTo f mode (q * k) (farith op f mode m a b d)
    let zero (op : FOp) (neg : Bool) : Prop := farith op f mode m a b d = (if neg then 2 ^ (f.bits - 1) else 0, {})
    let inf (op : FOp) (neg : Bool) : Prop := farith op f mode m a b d = ((if neg then 2 ^ (f.bits - 1) else 0) + f.maxCode + 1, {})
    let sumNeg (n g : Bool) (both : Prop) (neg : Bool) : Prop := (both ∧ n = g → neg = n) ∧ (¬ (both ∧ n = g) → neg = decide (mode = .rd))
    (∀ op, farith op f mode m a b d = (Spec.clamped f m.clamp (farith op f mode { m with clamp := 0 } a b d).1, (farith op f mode { m with clamp := 0 } a b d).2))
    ∧ (m.clamp = 0 → x.isFin = true → y.isFin = true →
        rounds .add (X + Y) ∧ rounds .sub (X - Y) ∧ rounds .mul (X * Y) ∧ (Y ≠ 0 → rounds .div (X / Y)) ∧ (z.isFin = true → rounds .fma (X * Y + Z))
        ∧ (∀ neg, (X + Y = 0 → sumNeg x.neg y.neg (X = 0) neg → zero .add neg) ∧ (X - Y = 0 → sumNeg x.neg (!y.neg) (X = 0) neg → zero .sub neg)
            ∧ (z.isFin = true → X * Y + Z = 0 → sumNeg (x.neg != y.neg) z.neg (Z = 0) neg → zero .fma neg))
        ∧ (X * Y = 0 → zero .mul (x.neg != y.neg)) ∧ (X = 0 → Y ≠ 0 → zero .div (x.neg != y.neg)))
    ∧ (m.clamp = 0 → x.isFin = true → 0 < X →
        Spec.Rounds f mode false (fun t => t < 0 ∨ t * t < X * (k * k)) (fun t => 0 ≤ t ∧ t * t = X * (k * k)) (farith .sqrt f mode m a b d))
    ∧ (m.clamp = 0 → x.isFin = true → x.neg = false → X = 0 → zero .sqrt false)
    ∧ (m.clamp = 0 → ∀ n, x = .inf n →
        (y.isFin = true ∨ y = .inf n → inf .add n) ∧ (y.isFin = true ∨ y = .inf (!n) → inf .sub n)
        ∧ (y.isNan = false → Y ≠ 0 → inf .mul (n != y.neg)) ∧ (y.isFin = true → inf .div (n != y.neg)) ∧ (n = false → inf .sqrt false))
    ∧ (m.clamp = 0 → x.isFin = true → ∀ n, y = .inf n → inf .add n ∧ inf .sub (!n) ∧ (X ≠ 0 → inf .mul (x.neg != n)) ∧ zero .div (x.neg != n)))
  ∧ (∀ f ∈ [fmt32, fmt64], ∀ (big : Bool) (mode : RMode) (m : FMods) (a b : Nat),
    let x := (f.decode a).src m.na m.aa
    let y := (f.decode b).src m.nb m.ab
    let larger := Spec.value y < Spec.value x ∨ (Spec.value x = Spec.value y ∧ x.neg = false)
    let plain := fminmax big f mode { m with clamp := 0, k := 0 } a b
    let takes (v : FVal) (nv : Bool) : Prop := plain.1 < 2 ^ f.bits ∧ plain.2 = { nv := nv }
      ∧ Spec.value (f.decode plain.1) = Spec.value v ∧ (f.decode plain.1).neg = v.neg ∧ (f.decode plain.1).isFin = v.isFin
    (x.isNan = false → y.isNan = false → (larger → takes (if big then x else y) false) ∧ (¬ larger → takes (if big then y else x) false))
    ∧ (x.isNan = true → y.isNan = false → takes y x.isSig) ∧ (x.isNan = false → y.isNan = true → takes x y.isSig)
    ∧ (x.isNan = true → y.isNan = true → plain = (f.nanCode, { nv := x.isSig || y.isSig }))
    ∧ (fminmax big f mode m a b = (Spec.clamped f m.clamp (fminmax big f mode { m with clamp := 0 } a b).1, (fminmax big f mode { m with clamp := 0 } a b).2))
    ∧ (x.isNan = false → y.isNan = false → (f.decode plain.1).isFin = true → Spec.value (f.decode plain.1) ≠ 0 →
        Spec.RoundsTo f mode (Spec.value (f.decode plain.1) * (2 : Rat) ^ m.k.toInt) (fminmax big f mode { m with clamp := 0 } a b)))

/-- R79 and R80: a kind of the table converts into s[D] and adds its flags to FCSR, any other kind raises
ILLEGAL_OPCODE; a NaN converts to the integer 0, an infinity to the bound of its sign, each with NV alone (R44). A finite number is
rounded to an integer in the mode: inside the range it is delivered, with NX where it differs from the source, and outside the nearer
bound is, with NV alone. A conversion to a floating-point format is one rounding of the exact source; rint gives the rounded integer in the same
format. -/
def Obligations.Conversions : Prop :=
  (∀ (s : State) (h : Hdr) (rm : RmSel) (d a : Reg) (kind : BitVec 5), s.Issues h [d, a] [] →
    (kind.toNat ≥ 0x14 → Faults (.fcvt h rm d a kind) s { code := .illegalOpcode })
    ∧ (kind.toNat < 0x14 → ∃ res, fconvert kind.toNat (s.rmode rm) (s.reg a).toNat = some res ∧
        Completes (.fcvt h rm d a kind) h s (Spec.fresult s d res)))
  ∧ (∀ (mode : RMode) (a : W64), ∀ k ∈ [(2, fmt32, 32, true), (3, fmt32, 32, false), (4, fmt32, 64, true), (5, fmt32, 64, false),
      (6, fmt64, 32, true), (7, fmt64, 32, false), (8, fmt64, 64, true), (9, fmt64, 64, false)],
    let x := k.2.1.decode (a.toNat % 2 ^ k.2.1.bits)
    (x.isNan = true → fconvert k.1 mode a.toNat = some (0, { nv := true }))
    ∧ (x = .inf false → fconvert k.1 mode a.toNat = some (if k.2.2.2 then 2 ^ (k.2.2.1 - 1) - 1 else 2 ^ k.2.2.1 - 1, { nv := true }))
    ∧ (x = .inf true → fconvert k.1 mode a.toNat = some (if k.2.2.2 then 2 ^ 64 - 2 ^ (k.2.2.1 - 1) else 0, { nv := true }))
    ∧ (x.isFin = true →
        let i := Spec.toInt mode (Spec.value x)
        let lo : Int := if k.2.2.2 then -(2 ^ (k.2.2.1 - 1)) else 0
        let hi : Int := if k.2.2.2 then 2 ^ (k.2.2.1 - 1) - 1 else 2 ^ k.2.2.1 - 1
        let reg (v : Int) : Nat := (BitVec.ofInt 64 v).toNat
        (lo ≤ i → i ≤ hi → fconvert k.1 mode a.toNat = some (reg i, { nx := decide (Spec.value x ≠ i) }))
        ∧ (i < lo → fconvert k.1 mode a.toNat = some (reg lo, { nv := true })) ∧ (hi < i → fconvert k.1 mode a.toNat = some (reg hi, { nv := true }))))
  ∧ (∀ (mode : RMode) (a : W64), ∀ k ∈ [(0, fmt64, fmt32), (1, fmt32, fmt64)],
    let x := k.2.1.decode (a.toNat % 2 ^ k.2.1.bits)
    let sign (f : Fmt) : Nat := if x.neg then 2 ^ (f.bits - 1) else 0
    ∃ r, fconvert k.1 mode a.toNat = some r ∧ (x.isNan = true → r = (k.2.2.nanCode, { nv := x.isSig }))
      ∧ (∀ n, x = .inf n → r = (sign k.2.2 + k.2.2.maxCode + 1, {})) ∧ (x.isFin = true → Spec.value x = 0 → r = (sign k.2.2, {}))
      ∧ (x.isFin = true → Spec.value x ≠ 0 → Spec.RoundsTo k.2.2 mode (Spec.value x) r))
  ∧ (∀ (mode : RMode) (a : W64), ∀ k ∈ [(0xA, fmt32, 32, true), (0xB, fmt32, 32, false), (0xC, fmt32, 64, true), (0xD, fmt32, 64, false),
      (0xE, fmt64, 32, true), (0xF, fmt64, 32, false), (0x10, fmt64, 64, true), (0x11, fmt64, 64, false)],
    let n : Nat := a.toNat % 2 ^ k.2.2.1
    let i : Int := if k.2.2.2 ∧ 2 ^ (k.2.2.1 - 1) ≤ n then (n : Int) - 2 ^ k.2.2.1 else n
    ∃ r, fconvert k.1 mode a.toNat = some r ∧ (i = 0 → r = (0, {})) ∧ (i ≠ 0 → Spec.RoundsTo k.2.1 mode i r))
  ∧ ∀ (mode : RMode) (a : W64), ∀ k ∈ [(0x12, fmt32), (0x13, fmt64)],
    let x := k.2.decode (a.toNat % 2 ^ k.2.bits)
    ∃ r, fconvert k.1 mode a.toNat = some r ∧ r.1 < 2 ^ k.2.bits ∧ (x.isNan = true → r = (k.2.nanCode, { nv := x.isSig }))
      ∧ (∀ n, x = .inf n → r = (k.2.infCode n, {}))
      ∧ (x.isFin = true → r.2 = { nx := decide (Spec.value x ≠ Spec.toInt mode (Spec.value x)) }
          ∧ (k.2.decode r.1).isFin = true ∧ Spec.value (k.2.decode r.1) = Spec.toInt mode (Spec.value x) ∧ (k.2.decode r.1).neg = x.neg)

/-! ### Special registers, nop, safe and brk -/

/-- R22, R81 and R82: gsr and ssr, their checks in order, and what each writes. A plain special register reads back what was
written to it, its reserved bits zero, and every other special register, every s register, every predicate and all memory stay.
R84, R348, R370 and R371: nop only applies NAS; safe does so outside a class S pre-emption; brk does so, and halts a core whose
debugger asked for it. -/
def Obligations.SystemWords : Prop :=
  (((∀ (s : State) (h : Hdr) (d : Reg) (n : BitVec 12), s.Issues h [d] [] →
    (regAccess n.toNat = none → Faults (.gsr h d n) s { code := .illegalOpcode })
    ∧ ∀ acc, regAccess n.toNat = some acc →
      (accessAt s.tile.core.level acc = .none → Faults (.gsr h d n) s { code := .privilege })
      ∧ (accessAt s.tile.core.level acc ≠ .none → (isEst n.toNat = true → s.nearBusy estRange.1 estRange.2 false = false) →
          Completes (.gsr h d n) h s (s.setReg d (s.special n.toNat))))
  ∧ (∀ (s : State) (h : Hdr) (a : Reg) (n : BitVec 12), s.Issues h [a] [] →
    let v := s.reg a
    (regAccess n.toNat = none → Faults (.ssr h a n) s { code := .illegalOpcode })
    ∧ ∀ acc, regAccess n.toNat = some acc →
      (acc.2 ≠ .write → Faults (.ssr h a n) s { code := .illegalOpcode })
      ∧ (acc.2 = .write → accessAt s.tile.core.level acc ≠ .write → Faults (.ssr h a n) s { code := .privilege })
      ∧ (accessAt s.tile.core.level acc = .write → acc.2 = .write →
          ((n = 4 ∨ n = 6) → v.toNat % 8 ≠ 0 → Faults (.ssr h a n) s { code := .misaligned, eval := some v })
          ∧ (n = 6 → v.toNat % 8 = 0 → (v.toNat < s.tile.core.ssbase.toNat ∨ s.tile.core.sslim.toNat < v.toNat) →
              Faults (.ssr h a n) s { code := .stackLimit, eval := some 2 })
          ∧ ((n = 4 ∨ n = 6 → v.toNat % 8 = 0) → (n = 6 → s.tile.core.ssbase.toNat ≤ v.toNat ∧ v.toNat ≤ s.tile.core.sslim.toNat) →
              (isEst n.toNat = true → s.nearBusy estRange.1 estRange.2 true = false) →
              Completes (.ssr h a n) h s (s.setSpecial n.toNat v)))))
  ∧ (∀ x ∈ Spec.plainSpecials, ∀ (s : State) (v : W64),
    (s.setSpecial x.1 v).special x.1 = v &&& x.2
    ∧ (∀ m < 0x1000, m ≠ x.1 → (s.setSpecial x.1 v).special m = s.special m)
    ∧ (∀ r, (s.setSpecial x.1 v).reg r = s.reg r) ∧ (∀ p, (s.setSpecial x.1 v).pred p = s.pred p)
    ∧ (s.setSpecial x.1 v).tile.near = s.tile.near ∧ (s.setSpecial x.1 v).pkg = s.pkg))
  ∧ (∀ (s : State) (h : Hdr) (tag : BitVec 12), s.Issues h [] [] →
    Completes (.nop h) h s s
    ∧ (s.tile.disp.preempt ≠ .classS → Completes (.safe h) h s s)
    ∧ (s.tile.sys.dbgctl.getLsbD 4 = false → Completes (.brk h tag) h s s)
    ∧ (s.tile.sys.dbgctl.getLsbD 4 = true → Completes (.brk h tag) h s
        ((s.mapSys (fun y => { y with dbgctl := y.dbgctl ||| 3 })).mapDisp (fun d => d.haltedAt s.pkg.time))))

end

namespace Sys2Proof
open Sys2Proof.Machine

/-! ### The tables of spec 06 and 09 -/

/-- R186: the loads with their sizes and whether they sign-extend. -/
def Spec.loads : List ((Hdr → Reg → MemOp → Instr) × Nat × Bool) :=
  [(.ldBs, 1, true), (.ldBz, 1, false), (.ldHs, 2, true), (.ldHz, 2, false), (.ldWs, 4, true), (.ldWz, 4, false), (.ldD, 8, false)]

/-- R187: the stores with their sizes. -/
def Spec.stores : List ((Hdr → Reg → MemOp → Instr) × Nat) := [(.stB, 1), (.stH, 2), (.stW, 4), (.stD, 8)]

/-- The number that bytes hold, least significant first (R6). -/
def Spec.number (bs : List Byte) : Nat := bs.foldr (fun b n => b.toNat + 256 * n) 0

/-- The low n bytes of a register, least significant first. -/
def Spec.bytes (n : Nat) (v : W64) : List Byte := (List.range n).map (fun k => BitVec.ofNat 8 (v.toNat / 256 ^ k))

/-- R186: a loaded value, sign-extended or zero-extended to 64 bits. -/
def Spec.loaded (bs : List Byte) (signed : Bool) : W64 :=
  let v := Spec.number bs
  if signed ∧ v ≥ 2 ^ (8 * bs.length - 1) then BitVec.ofInt 64 ((v : Int) - 2 ^ (8 * bs.length)) else BitVec.ofNat 64 v

/-- R191 and R192: the atomics, their code, and the new value from the old one, s[A] and s[D] (none: no write). -/
def Spec.atomics : List ((Hdr → BitVec 2 → Reg → Reg → CReg → BitVec 14 → Instr) × BitVec 3 × (W64 → W64 → W64 → Option W64)) :=
  [(.amoAdd, 0, fun m b _ => some (BitVec.ofNat 64 (m.toNat + b.toNat))),
   (.amoAnd, 1, fun m b _ => some (m &&& b)),
   (.amoOr, 2, fun m b _ => some (m ||| b)),
   (.amoXor, 3, fun m b _ => some (m ^^^ b)),
   (.amoMin, 4, fun m b _ => some (if b.toInt < m.toInt then b else m)),
   (.amoMax, 5, fun m b _ => some (if b.toInt > m.toInt then b else m)),
   (.amoSwap, 6, fun _ b _ => some b),
   (.cas, 7, fun m b x => if m = x then some b else none)]

/-- A word of a launch kind that it is not legal in (R121). -/
def Spec.kindWords (h : Hdr) (d : Reg) (p : PReg) (n : BitVec 4) (k : BitVec 12) : List Instr :=
  [.barC h n, .barL h, .step h, .itemNext h d p, .estFlush h, .estState h d k, .yield h]

end Sys2Proof

/-! ### Parallel execution -/

section
open Sys2Proof Sys2Proof.Machine

/-- R121: a word of another launch kind raises ILLEGAL_OPCODE, even when it is predicated false. R99, R123, R124 and R178:
a barrier word whose generation has completed completes with an acquire of its scope (cluster for bar.c, package for bar.l
and step); one with nothing under way and every other participant arrived, or alone, arrives and completes in one step; any
other holds the issue point, once the faults of its NAS have been checked (R29): a misaligned target and a full return stack fault before
the arrival counts. R99, R100 and R318: a generation completes only when every participant has arrived or applied END,
and for a superstep when no earlier send of a participant is open; the tile in focus, if it waits there, is then released. -/
def Obligations.BarrierWords : Prop :=
  (∀ (s : State) (h : Hdr) (d : Reg) (p : PReg) (n : BitVec 4) (k : BitVec 12), ∀ i ∈ Spec.kindWords h d p n k,
    i.kindOk s.tile.par.kind = false → Faults i s { code := .illegalOpcode })
  ∧ (∀ (s : State) (h : Hdr) (n : BitVec 4), s.Issues h [] [] → s.tile.par.kind = .single →
    ∀ w ∈ [(Instr.barC h n, some n, (1 : BitVec 2), false), (Instr.barL h, none, 2, false), (Instr.step h, none, 2, true)],
      let id : Option (BitVec 4) := w.2.1
      (∀ j, s.tile.ord.bar = .released j →
        Completes w.1 h s ((s.pushMarker .acq w.2.2.1).mapOrd (fun o => { o with bar := .idle })))
      ∧ (s.tile.ord.bar = .idle → s.tile.ord.sq = [] → s.tile.ord.lq = [] → (∀ c ∈ s.pkg.chans, c.src ≠ s.tile.phys) →
          (∀ m ∈ s.pkg.poolCh, m.src ≠ s.tile.phys) →
          let t := (s.releaseAll.mapOrd (fun o => { o with bar := .arrived id w.2.2.2 s.releaseAll.tile.eng.ts })).tryRelease id
          (t.tile.ord.bar = .released id → Completes w.1 h s ((t.pushMarker .acq w.2.2.1).mapOrd (fun o => { o with bar := .idle })))
          ∧ (t.tile.ord.bar = .arrived id w.2.2.2 s.releaseAll.tile.eng.ts →
              exec w.1 s = .next (s.awaits t h (s.predField h.pred) false) ∧ (h.nas = .seq → Holds w.1 s t)))
      ∧ (s.tile.ord.bar = .idle →
          (s.tile.ord.sq ≠ [] ∨ ∃ m ∈ s.pkg.poolCh, m.src = s.tile.phys ∧ m.byWord = true ∧ m.op.dest.isSome = true) →
          let t := (s.pushMarker .rel w.2.2.1).mapOrd (fun o => { o with bar := .releasing id w.2.2.2 s.tile.ord.seq })
          exec w.1 s = .next (s.awaits t h (s.predField h.pred) false) ∧ (h.nas = .seq → Holds w.1 s t)))
  ∧ (∀ (s t : State) (h : Hdr) (p : Bool),
      (h.nas = .jmpi → t.reg (h.tgt.extractLsb' 0 5) &&& 7 ≠ 0 →
        s.awaits t h p false = s.takeFault { code := .misaligned, eval := some (t.reg (h.tgt.extractLsb' 0 5)) } s.tile.core.pc)
      ∧ (h.nas = .call ∨ h.nas = .calli → t.canPush 1 = false →
        s.awaits t h p false = s.takeFault { code := .stackLimit, eval := some 0 } s.tile.core.pc))
  ∧ (∀ (s : State) (id : Option (BitVec 4)),
    let ts := (s.participants id).filterMap s.tileAt
    ((∃ t ∈ ts, t.arrivedAt id = false) → s.tryRelease id = s)
    ∧ ((∀ t ∈ ts, t.arrivedAt id = true) → (∀ t ∈ ts, t.sendsOpen id = false) → s.tile.phys ∈ s.participants id →
        (∃ b n, s.tile.ord.bar = .arrived id b n) → (s.tryRelease id).tile.ord.bar = .released id)
    ∧ (s.tryRelease id).tile.core = s.tile.core ∧ (s.tryRelease id).tile.near = s.tile.near
    ∧ (s.tryRelease id).pkg.mem = s.pkg.mem)

/-- R125 and R128: item.next writes the item at the position and sets the predicate while the batch lasts and has not
flushed; afterwards it writes all ones and clears it. -/
def Obligations.ItemNext : Prop :=
  ∀ (s : State) (h : Hdr) (d : Reg) (p : PReg) (l : Launch), s.Issues h [d] [] → s.tile.par.kind = .estimating →
    s.tile.task.stop = false → s.pkg.launch s.tile.handle = some l →
    let limit := min ((s.tile.par.task.toNat + 1) * l.rc.eb) l.rc.en
    let pos := s.tile.par.itempos.toNat
    (pos < limit → s.tile.task.flush = none →
      Completes (.itemNext h d p) h s
        (((s.setReg d (BitVec.ofNat 64 (itemAt l.rc.en s.tile.par.seed pos))).mapPar (fun q => { q with itempos := q.itempos + 1 })).setPred p true))
    ∧ (limit ≤ pos ∨ s.tile.task.flush ≠ none →
        Completes (.itemNext h d p) h s ((s.setReg d 0xFFFFFFFFFFFFFFFF).setPred p false))

/-- R114: the visiting order is a permutation of 0 to N − 1 for every N and SEED. -/
def Obligations.ItemOrderIsPermutation : Prop :=
  ∀ (n : Nat) (seed : W64), 0 < n → (∀ i < n, itemAt n seed i < n) ∧ ∀ i < n, ∀ j < n, itemAt n seed i = itemAt n seed j → i = j

/-- R115, R127, R128 and R130: est.add takes one step of the moments, est.flush queues them where the count is the
batch's and it has not flushed, and est.state reads the merged state. R131: yield with four binds queued does nothing; otherwise the
task's effects are dropped, its bind is queued again behind the others with AGE 0, its own priority and a fresh ORDER, and the tile is free. -/
def Obligations.EstimatorAndYield : Prop :=
  (∀ (s : State) (h : Hdr) (a : Reg) (k : BitVec 12), s.Issues h [a] [] →
    (s.nearBusy estRange.1 estRange.2 true = false →
      let q := s.tile.par
      let delta := d64 .sub (s.reg a) q.estMean
      let mean := d64 .add q.estMean (d64Count delta (q.estN + 1).toNat)
      Completes (.estAdd h a) h s (s.mapPar (fun q => { q with
        estN := q.estN + 1, estMean := mean, estM2 := d64 .add q.estM2 (d64 .mul delta (d64 .sub (s.reg a) mean)) })))
    ∧ (s.tile.par.kind = .estimating → s.nearBusy estRange.1 estRange.2 false = false → s.tile.task.stop = false →
        (s.tile.task.flush = none → s.tile.par.estN.toNat = s.batchItems →
          Completes (.estFlush h) h s (s.mapTask (fun t => { t with flush := some (s.tile.par.estN, s.tile.par.estMean, s.tile.par.estM2) })))
        ∧ (s.tile.task.flush ≠ none ∨ s.tile.par.estN.toNat ≠ s.batchItems →
            Faults (.estFlush h) s { code := .illegalOpcode, eval := some s.tile.par.estN }))
    ∧ (s.tile.par.kind = .estimating → ∀ l, s.pkg.launch s.tile.handle = some l →
        (∀ v, k.toNat < 5 → [BitVec.ofNat 64 l.almond.n, l.almond.mean, l.almond.m2, l.almond.hw, BitVec.ofNat 64 l.almond.stop][k.toNat]? = some v →
          Completes (.estState h a k) h s (s.setReg a v))
        ∧ (k.toNat ≥ 5 → Faults (.estState h a k) s { code := .illegalOpcode })))
  ∧ (∀ (s : State) (h : Hdr) (b : Bind), s.Issues h [] [] → s.tile.par.kind ≠ .single → s.tile.disp.bind = some b →
    (s.tile.disp.slot.length ≥ 4 → Completes (.yield h) h s s)
    ∧ (s.tile.disp.slot.length < 4 → ∃ t, exec (.yield h) s = .next t
        ∧ t.tile.disp.run = .free ∧ t.tile.disp.bind = none
        ∧ t.tile.disp.slot = s.tile.disp.slot ++ [{ b with age := 0, order := s.pkg.stamp, since := s.pkg.time }]
        ∧ (∀ cap, b.tt = false → Bind.eprio { b with age := 0, order := s.pkg.stamp, since := s.pkg.time } cap = b.prio.toNat)
        ∧ t.pkg.stamp = s.pkg.stamp + 1 ∧ t.tile.task.index = none ∧ t.tile.task.held = [] ∧ t.tile.task.deferred = []
        ∧ t.tile.core = s.tile.core ∧ t.tile.near = s.tile.near ∧ t.pkg.mem = s.pkg.mem))

/-! ### Memory words -/

/-- R148, with R134, R146 and R184: the checks of an access in their order, and an access to the tile's own scratchpad that they pass.
R354 to R358: the translation of an address that no TLB holds: which addresses are local, the two levels of the walk, the order of
its checks with PAGE_NOT_PRESENT, PAGE_PERM and CODE_WRITE, the physical address, and the entry that the TLB then holds. Bits of PTB below
its alignment are not read (log 10). -/
def Obligations.AccessChecks : Prop :=
  (∀ (s : State) (c : Cap) (a : W64) (n : Nat) (k : AccKind) (d : Reg) (st : Cap), s.inTask = false → k ≠ .stc →
    let isSealed := c.typ = 4 ∨ c.typ = 5
    let typed := k.typeOk c.typ.toNat = true
    let permitted := c.perm &&& k.perms = k.perms ∧ c.tenant = s.tile.tenant
    (c.tag = false → s.locate c a n k d st = .fault { code := .capTag, eval := some a })
    ∧ (c.tag = true → isSealed → s.locate c a n k d st = .fault { code := .sealedPath, eval := some a })
    ∧ (c.tag = true → ¬ isSealed → ¬ typed → s.locate c a n k d st = .fault { code := .capType, eval := some a })
    ∧ (c.tag = true → ¬ isSealed → typed → ¬ permitted → s.locate c a n k d st = .fault { code := .capPerm, eval := some a })
    ∧ (c.tag = true → ¬ isSealed → typed → permitted → c.typ ≠ 3 →
        (a.toNat < c.base.toNat ∨ a.toNat + n > c.base.toNat + c.len.toNat) →
        s.locate c a n k d st = .fault { code := .capBounds, eval := some a })
    ∧ (c.tag = true → ¬ isSealed → typed → permitted → boundsFault s.tile.par.ntile.toNat c a n k = none → k ≠ .cfl → k ≠ .cinv →
        a.toNat % n ≠ 0 → s.locate c a n k d st = .fault { code := .misaligned, eval := some a }))
  ∧ (∀ (s : State) (c : Cap) (a : W64) (n : Nat) (k : AccKind) (d : Reg) (st : Cap), s.inTask = false → k = .ld ∨ k = .st → 0 < n →
    c.tag = true → c.typ = 1 → c.perm &&& k.perms = k.perms → c.tenant = s.tile.tenant →
    c.base.toNat ≤ a.toNat → a.toNat + n ≤ c.base.toNat + c.len.toNat → a.toNat + n ≤ 0x200000 → a.toNat % n = 0 →
    s.tile.near.ecc = [] → s.tile.near.locked = [] → s.tile.eng.cmds = [] → (∀ b ∈ s.tile.bufs.toList, b.v = false) →
    s.tile.eng.ringV.q = 0 → s.tile.eng.ringM.q = 0 → s.tile.eng.ringX.q = 0 →
    s.locate c a n k d st = .ok s (.own a.toNat))
  ∧ (∀ (s : State) (va : W64) (x : XAcc), s.tile.ord.tlb = [] → s.pkg.l2tlb = [] →
    let fails (f : FaultCode) : Prop := ∃ fi : FaultInfo, s.translate va x = .error fi ∧ fi.code = f ∧ fi.eval = some va
    let field (lo n : Nat) : Nat := va.toNat / 2 ^ lo % 2 ^ n
    let entry (at_ : Nat) : W64 := BitVec.ofNat 64 (Spec.number (s.pkg.homeN at_ 8))
    let frame (e : W64) : Nat := e.toNat / 2 ^ 18 % 2 ^ 34 * 2 ^ 18
    let reserved (e : W64) : Prop := e.toNat / 2 ^ 52 % 4 ≠ 0 ∨ e.toNat / 2 ^ 16 % 4 ≠ 0
    let e1 := entry (s.tile.sys.ptb.toNat / 2 ^ 16 * 2 ^ 16 % 2 ^ 52 + 8 * field 33 13)
    let e2 := entry (frame e1 + 8 * field 18 15)
    let lets (e : W64) : Bool := match x with
      | .rd => e.getLsbD 59
      | .wr | .inval => e.getLsbD 58
      | .ex => e.getLsbD 57
    let leaf (e : W64) (pa : Nat) (big : Bool) : Prop :=
      (lets e = false → fails .pagePerm)
      ∧ (lets e = true → x = .wr → e.getLsbD 54 = true → fails .codeWrite)
      ∧ (lets e = true → (x = .wr → e.getLsbD 54 = false) → s.pkg.paKind pa = .none → fails .pagePerm)
      ∧ (lets e = true → (x = .wr → e.getLsbD 54 = false) → s.pkg.paKind pa ≠ .none → ∃ t : State, s.translate va x = .ok (t, pa, e.getLsbD 56)
          ∧ t.tile.core = s.tile.core ∧ t.tile.caps = s.tile.caps ∧ t.tile.sys = s.tile.sys ∧ t.tile.near = s.tile.near
          ∧ (∃ h : TlbEntry, t.tile.ord.tlb = [h] ∧ h.hits va s.tile.sys.asid = true ∧ h.big = big)
          ∧ (e.getLsbD 60 = false → t.pkg.mem = s.pkg.mem ∧ t.pkg.l2 = s.pkg.l2 ∧ t.pkg.scrub = s.pkg.scrub)
          ∧ (e.getLsbD 60 = true → ∀ u ∈ t.allTiles, ∀ l ∈ u.ord.l1, 64 * l.line / (if big then 2 ^ 33 else 2 ^ 18) ≠ pa / (if big then 2 ^ 33 else 2 ^ 18)))
    ((field 56 8 ≠ 0 ∨ (field 46 10 ≠ 0x3FF ∧ field 46 10 ≠ s.pkg.num)) → fails .pagePerm)
    ∧ (field 56 8 = 0 → (field 46 10 = 0x3FF ∨ field 46 10 = s.pkg.num) → s.pkg.ecc = [] →
        (e1.getLsbD 63 = false → fails .pageNotPresent)
        ∧ (e1.getLsbD 63 = true → (reserved e1 ∨ (e1.getLsbD 62 = true ∧ e1.toNat / 2 ^ 18 % 2 ^ 15 ≠ 0) ∨ (e1.getLsbD 62 = false ∧ e1.getLsbD 61 = true)) → fails .pagePerm)
        ∧ (e1.getLsbD 63 = true → ¬ reserved e1 → e1.getLsbD 62 = true → e1.toNat / 2 ^ 18 % 2 ^ 15 = 0 → leaf e1 (frame e1 + field 0 33) true)
        ∧ (e1.getLsbD 63 = true → ¬ reserved e1 → e1.getLsbD 62 = false → e1.getLsbD 61 = false →
            (e2.getLsbD 63 = false → fails .pageNotPresent)
            ∧ (e2.getLsbD 63 = true → (reserved e2 ∨ e2.getLsbD 62 = false) → fails .pagePerm)
            ∧ (e2.getLsbD 63 = true → ¬ reserved e2 → e2.getLsbD 62 = true → leaf e2 (frame e2 + field 0 18) false))))

/-- R186: a load from the tile's own memory writes the extended value of its bytes to s[D]. R164: a load from elsewhere
enters LQ with its size, extension and destination, which is pending from then on. No memory changes. Where the word's own
NAS needs the register, NAS waits (R29). -/
def Obligations.Loads : Prop :=
  (∀ f ∈ Spec.loads, ∀ (s : State) (h : Hdr) (d : Reg) (o : MemOp) (a : Nat), s.Issues h [d, o.a] [o.c] →
    s.locate (s.cap o.c) (s.opAddr o) f.2.1 .ld d {} = .ok s (.own a) →
    Completes (f.1 h d o) h s (s.stamp.setReg d (Spec.loaded (s.tile.near.readN a f.2.1) f.2.2)))
  ∧ (∀ f ∈ Spec.loads, ∀ (s t : State) (h : Hdr) (d : Reg) (o : MemOp) (l : Loc), s.Issues h [d, o.a] [o.c] →
    s.locate (s.cap o.c) (s.opAddr o) f.2.1 .ld d {} = .ok t l → (∀ a, l ≠ .own a) →
    let u := (t.stamp.pushLq (.load l f.2.1 f.2.2 d)).nextSeq
    (nasNeeds h d = false → Completes (f.1 h d o) h s u)
    ∧ (nasNeeds h d = true → h.nas = .jmpi →
        exec (f.1 h d o) s = .next (u.mapOrd (fun q => { q with nasWait := some ⟨h, d, s.reg d, s.tile.sys.pkseq⟩ })).held)
    ∧ (d ≠ 0 → u.pendingReg d = true) ∧ u.tile.near = t.tile.near ∧ u.pkg = t.pkg)

/-- R187 and R147: a store to the tile's own memory puts the low bytes of s[D] there, clears the tags of the granules
they touch, and leaves every byte outside them as it was. -/
def Obligations.StoresToOwnMemory : Prop :=
  ∀ f ∈ Spec.stores, ∀ (s : State) (h : Hdr) (d : Reg) (o : MemOp) (a : Nat), s.Issues h [d, o.a] [o.c] → s.tile.MemForm →
    s.locate (s.cap o.c) (s.opAddr o) f.2 .st d {} = .ok s (.own a) →
    let u := s.stamp.mapNear (fun n => n.store a (Spec.bytes f.2 (s.reg d)))
    Completes (f.1 h d o) h s u
    ∧ u.tile.near.readN a f.2 = Spec.bytes f.2 (s.reg d)
    ∧ (∀ b, (b < a ∨ a + f.2 ≤ b) → u.tile.near.read b = s.tile.near.read b)
    ∧ (∀ b, a ≤ b → b < a + f.2 → u.tile.near.tag b = false)
    ∧ u.pkg = s.pkg ∧ u.tile.core = s.tile.core ∧ u.tile.caps = s.tile.caps

/-- R159, R164 and R187: a store elsewhere is held with the task, or enters SQ with its bytes; no memory changes yet, but for a
line past the first 1024 of a task, which spills into the tile's commit area (R161).
R188: mark writes 64 zero bytes and clears both tags of the line, by the path of a store. -/
def Obligations.StoresAway : Prop :=
  (∀ f ∈ Spec.stores, ∀ (s t : State) (h : Hdr) (d : Reg) (o : MemOp) (l : Loc), s.Issues h [d, o.a] [o.c] →
    s.locate (s.cap o.c) (s.opAddr o) f.2 .st d {} = .ok t l → (∀ a, l ≠ .own a) →
    (t.holdsBack l = true →
      let u := t.mapTask (fun k => { k with held := k.held ++ [⟨t.tile.ord.seq, s.opAddr o, l, Spec.bytes f.2 (s.reg d), none⟩] })
      Completes (f.1 h d o) h s (u.spill (s.opAddr o)).nextSeq ∧ (u.tile.task.lines.length ≤ 1024 → u.spill (s.opAddr o) = u))
    ∧ (t.holdsBack l = false → Completes (f.1 h d o) h s ((t.stamp.pushSq (.store l (Spec.bytes f.2 (s.reg d)) none t.tile.sys.ptok)).nextSeq)))
  ∧ (∀ (s t : State) (h : Hdr) (o : MemOp) (l : Loc), s.Issues h [o.a] [o.c] →
    s.locate (s.cap o.c) (s.opAddr o) 64 .mark 0 {} = .ok t l →
    (∀ a, l = .own a → Completes (.mark h o) h s (t.stamp.mapNear (fun n => n.store a (List.replicate 64 0))))
    ∧ ((∀ a, l ≠ .own a) → t.holdsBack l = false → Completes (.mark h o) h s ((t.stamp.pushSq (.store l (List.replicate 64 0) none t.tile.sys.ptok)).nextSeq))
    ∧ ((∀ a, l ≠ .own a) → t.holdsBack l = true → 
        let u := t.mapTask (fun k => { k with held := k.held ++ [⟨t.tile.ord.seq, s.opAddr o, l, List.replicate 64 0, none⟩] })
        Completes (.mark h o) h s (u.spill (s.opAddr o)).nextSeq))

/-- R189, R190 and R144: ldc reads the 256 bits of a capability with its granule's tag, stc writes them; what stc
wrote in the tile's own memory ldc reads back whole, tag included. -/
def Obligations.CapabilityLoadStore : Prop :=
  (∀ (s t : State) (h : Hdr) (d : CReg) (o : MemOp) (l : Loc), s.Issues h [o.a] [o.c, d] →
    (s.locate (s.cap o.c) (s.opAddr o) 32 .ldc 0 {} = .ok t l →
      (∀ a, l = .own a → Completes (.ldc h d o) h s (t.stamp.setCap d (Cap.ofBytes (t.tile.near.readN a 32) (t.tile.near.tag a))))
      ∧ ((∀ a, l ≠ .own a) → Completes (.ldc h d o) h s ((t.stamp.pushLq (.loadCap l d)).nextSeq)))
    ∧ (s.locate (s.cap o.c) (s.opAddr o) 32 .stc 0 (s.cap d) = .ok t l →
      (∀ a, l = .own a → Completes (.stc h d o) h s (t.stamp.mapNear (fun n => (n.store a (s.cap d).toBytes).setTag a (s.cap d).tag)))
      ∧ ((∀ a, l ≠ .own a) → t.holdsBack l = false →
          Completes (.stc h d o) h s ((t.stamp.pushSq (.store l (s.cap d).toBytes (some (s.cap d).tag) t.tile.sys.ptok)).nextSeq))))
  ∧ ∀ (n : Near) (a : Nat) (c : Cap), Memory.wf n.mem = true → n.WholeLines → a % 32 = 0 →
      let u := (n.store a c.toBytes).setTag a c.tag
      Cap.ofBytes (u.readN a 32) (u.tag a) = c

/-- R191, R192 and R175: an atomic in the tile's own scratchpad reads the old word, writes the table's new value and
gives the old one to s[D]; elsewhere it enters SQ with its marker in LQ; in a task one that R159 covers is deferred. -/
def Obligations.Atomics : Prop :=
  ∀ f ∈ Spec.atomics, ∀ (s t : State) (h : Hdr) (sc : BitVec 2) (d a : Reg) (c : CReg) (off : BitVec 14) (l : Loc),
    s.Issues h [d, a] [c] → nasNeeds h d = false →
    let va := (s.cap c).cursor + off.signExtend 64
    s.locate (s.cap c) va 8 .amo d {} = .ok t l →
    (∀ p, l = .own p →
      let m := BitVec.ofNat 64 (Spec.number (t.tile.near.readN p 8))
      let u := match f.2.2 m (s.reg a) (s.reg d) with
        | some v => t.mapNear (fun n => n.store p (Spec.bytes 8 v))
        | none => t
      let u := u.stamp.setReg d m
      Completes (f.1 h sc d a c off) h s (if sc = 0 then u else u.pushMarker .fence sc))
    ∧ ((∀ p, l ≠ .own p) → t.holdsBack l = true →
        Completes (f.1 h sc d a c off) h s (t.mapTask (fun k => { k with deferred := k.deferred ++ [⟨amoFn f.2.1 sc, va, l, s.reg a⟩] })))
    ∧ ((∀ p, l ≠ .own p) → (∀ ob p, l ≠ .direct ob p) → t.holdsBack l = false →
        Completes (f.1 h sc d a c off) h s
          (((t.stamp.pushSq (.amo l f.2.1 (s.reg a) (s.reg d) d sc 0 t.tile.sys.ptok)).pushLq .amoMark).nextSeq))
    ∧ (∀ ob p, l = .direct ob p → t.holdsBack l = false →
        let key : W64 := if t.tile.sys.pkeyb = 0 then 0 else t.tile.sys.pkeyb + t.tile.sys.pkseq
        let u := if t.tile.sys.pkeyb = 0 then t else t.mapSys (fun y => { y with pkseq := y.pkseq + 1 })
        Completes (f.1 h sc d a c off) h s
          (((u.stamp.pushSq (.amo l f.2.1 (s.reg a) (s.reg d) d sc key u.tile.sys.ptok)).pushLq .amoMark).nextSeq))

/-- R193, R164 and R173: a fence, an acquire or a release marks both queues. R196: cfl and cinv change
nothing in the near space and through an uncached mapping; through a cacheable one they enter SQ, or take effect at issue
in a task. R194 and R180: mwait arms its monitor and reads; it completes at once on another value, and holds while the value
is the awaited one until a wake-up or the timeout comes. R29: a fault of its NAS comes before its access has issued (`awaits`). -/
def Obligations.OrderingWords : Prop :=
  ((∀ (s : State) (h : Hdr) (sc : BitVec 2), s.Issues h [] [] →
    let e (k : MarkKind) : QEntry := ⟨s.tile.ord.seq, s.tile.core.pc, .marker k sc⟩
    Completes (.fence h sc) h s (s.mapOrd (fun o => { o with lq := o.lq ++ [e .fence], sq := o.sq ++ [e .fence], seq := o.seq + 1 }))
    ∧ Completes (.acq h sc) h s (s.mapOrd (fun o => { o with lq := o.lq ++ [e .acq], sq := o.sq ++ [e .acq], seq := o.seq + 1 }))
    ∧ Completes (.rel h sc) h s (s.mapOrd (fun o => { o with lq := o.lq ++ [e .rel], sq := o.sq ++ [e .rel], seq := o.seq + 1 })))
  ∧ (∀ (s t : State) (h : Hdr) (o : MemOp) (l : Loc), s.Issues h [o.a] [o.c] → ∀ w ∈ [(Instr.cfl h o, AccKind.cfl, false), (Instr.cinv h o, .cinv, true)],
    s.locate (s.cap o.c) (s.opAddr o) 1 w.2.1 0 {} = .ok t l →
    ((∀ pa, l ≠ .pkgMem pa true) → Completes w.1 h s t)
    ∧ (∀ pa, l = .pkgMem pa true → t.inTask = false → Completes w.1 h s ((t.pushSq (.flush pa w.2.2)).nextSeq))
    ∧ (∀ pa, l = .pkgMem pa true → t.inTask = true → Completes w.1 h s (t.flushLine pa w.2.2))))
  ∧ (∀ (s t : State) (h : Hdr) (d a : Reg) (c : CReg) (off : BitVec 14), s.Issues h [d, a] [c] → nasNeeds h d = false →
    (s.tile.ord.mon = none → ∀ p, s.locate (s.cap c) ((s.cap c).cursor + off.signExtend 64) 8 .mwait d {} = .ok t (.own p) →
      let v := BitVec.ofNat 64 (Spec.number (t.tile.near.readN p 8))
      let m : Monitor := { loc := .own p, woken := false, read := true, matched := v == s.reg a, since := s.pkg.time, old := s.reg d }
      let u := t.stamp.setReg d v
      (v ≠ s.reg a → Completes (.mwait h d a c off) h s (u.mapOrd (fun o => { o with mon := none })))
      ∧ (v = s.reg a → u.timedOut m = false →
          let w := u.mapOrd (fun o => { o with mon := some m })
          exec (.mwait h d a c off) s = .next (s.awaits w h (s.predField h.pred) false) ∧ (h.nas = .seq → Holds (.mwait h d a c off) s w)))
    ∧ (s.tile.ord.mon = none → ∀ l, (∀ p, l ≠ .own p) → s.locate (s.cap c) ((s.cap c).cursor + off.signExtend 64) 8 .mwait d {} = .ok t l →
        let w := (t.stamp.pushLq (.loadWait l d (s.reg a))).nextSeq.mapOrd (fun o => { o with
          mon := some { loc := l, woken := false, read := false, matched := false, since := s.pkg.time, old := s.reg d } })
        exec (.mwait h d a c off) s = .next (s.awaits w h (s.predField h.pred) false) ∧ (h.nas = .seq → Holds (.mwait h d a c off) s w))
    ∧ (∀ m, s.tile.ord.mon = some m → m.read = true → (m.matched = false ∨ m.woken = true ∨ s.timedOut m = true) →
        Completes (.mwait h d a c off) h s (s.mapOrd (fun o => { o with mon := none })))
    ∧ (∀ m, s.tile.ord.mon = some m → (m.read = false ∨ (m.matched = true ∧ m.woken = false ∧ s.timedOut m = false)) →
        Holds (.mwait h d a c off) s s))

/-! ### Capabilities and declared buffers -/

/-- R197 to R199 and R202: the derivations with their checks, and what each writes. R200 and R201: cap.get and cap.tst
read a field, or test permissions, of any capability. -/
def Obligations.CapabilityWords : Prop :=
  (∀ (s : State) (h : Hdr) (d : CReg) (a : Reg) (c : CReg) (o : MemOp),
    let x := s.cap c
    let v := s.reg a
    (s.Issues h [a] [c, d] →
      (x.tag = false → Faults (.capBnd h d a c) s { code := .capTag } ∧ Faults (.capPrm h d a c) s { code := .capTag })
      ∧ (x.tag = true → (x.typ = 4 ∨ x.typ = 5) → Faults (.capBnd h d a c) s { code := .capType })
      ∧ (x.tag = true → x.typ ≠ 4 → x.typ ≠ 5 → x.typ ≠ 3 →
          (¬ (x.base.toNat ≤ x.cursor.toNat ∧ x.cursor.toNat + v.toNat ≤ x.base.toNat + x.len.toNat) →
            Faults (.capBnd h d a c) s { code := .capBounds, eval := some v })
          ∧ (x.base.toNat ≤ x.cursor.toNat ∧ x.cursor.toNat + v.toNat ≤ x.base.toNat + x.len.toNat →
            Completes (.capBnd h d a c) h s (s.setCap d { x with base := x.cursor, len := v })))
      ∧ (x.tag = true → x.typ = 3 →
          (x.cursor.toNat + v.toNat > x.len.toNat → Faults (.capBnd h d a c) s { code := .capBounds, eval := some v })
          ∧ (x.cursor.toNat + v.toNat ≤ x.len.toNat → Completes (.capBnd h d a c) h s (s.setCap d { x with len := x.cursor + v })))
      ∧ (x.tag = true → (v.toNat ≥ 2 ^ 12 ∨ v.toNat % 16 ≠ 0 ∨ v.extractLsb' 0 12 &&& ~~~x.perm ≠ 0) →
          Faults (.capPrm h d a c) s { code := .capPerm, eval := some v })
      ∧ (x.tag = true → v.toNat < 2 ^ 12 → v.toNat % 16 = 0 → v.extractLsb' 0 12 &&& ~~~x.perm = 0 →
          Completes (.capPrm h d a c) h s (s.setCap d { x with perm := v.extractLsb' 0 12 })))
    ∧ (s.Issues h [o.a] [o.c, d] → Completes (.capOff h d o) h s (s.setCap d { s.cap o.c with
        cursor := (s.cap o.c).cursor + (s.reg o.a <<< o.sc.toNat) + o.off.signExtend 64 }))
    ∧ (s.Issues h [] [c, d] → Completes (.capClr h d c) h s (s.setCap d { x with tag := false })))
  ∧ (∀ (s : State) (h : Hdr) (d : Reg) (p : PReg) (a : Reg) (c : CReg) (sel : BitVec 3),
    let x := s.cap c
    (s.Issues h [d] [c] → ∀ v, [x.typ.toNat, x.perm.toNat, x.base.toNat, x.len.toNat, x.cursor.toNat, x.pol.toNat, x.tenant.toNat, x.tag.toNat][sel.toNat]? = some v →
      Completes (.capGet h d c sel) h s (s.setReg d (BitVec.ofNat 64 v)))
    ∧ (s.Issues h [a] [c] → Completes (.capTst h p a c) h s
        (s.setPred p (x.tag && decide ((s.reg a).extractLsb' 0 12 &&& ~~~x.perm = 0)))))

/-- R149: no word of the capability family widens authority, whatever it ends in: type, policy and tenant stay, the
permissions are a subset, a set tag comes from a set tag, and the bounds lie inside the source's. `y` is what cD
holds afterwards. -/
def Obligations.CapabilitiesNeverWiden : Prop :=
  ∀ (s : State) (h : Hdr) (d : CReg) (a : Reg) (c : CReg) (o : MemOp), d ≠ 0 →
    ∀ i ∈ [Instr.capBnd h d a c, .capPrm h d a c, .capOff h d o, .capClr h d c], ∀ t, exec i s = .next t →
      let x := if i = .capOff h d o then s.cap o.c else s.cap c
      let y := t.cap d
      y = s.cap d ∨ (y.typ = x.typ ∧ y.pol = x.pol ∧ y.tenant = x.tenant ∧ y.perm &&& ~~~x.perm = 0 ∧ (y.tag = true → x.tag = true)
        ∧ (y.tag = true → x.typ ≠ 3 → x.base.toNat ≤ y.base.toNat ∧ y.base.toNat + y.len.toNat ≤ x.base.toNat + x.len.toNat)
        ∧ (y.tag = true → x.typ = 3 → y.base = x.base ∧ y.len.toNat ≤ x.len.toNat))

/-- R154, R203, R204 and R205: buf.decl, buf.set and buf.get with the conditions of the declaration and the transition
table; a word that must wait for an engine command with a role on the buffer, and a buf.set for one that touches its bytes, hold the issue point.
For the role of a command on a buffer, the model reads its append (log 18). -/
def Obligations.DeclaredBuffers : Prop :=
  ∀ (s : State) (h : Hdr) (d a : Reg) (id : BitVec 6) (st : BitVec 2), s.Issues h [d, a] [] →
    let base := s.reg d
    let len := s.reg a
    let b := s.tile.bufs[id.toFin]
    let entry (e : Buf) : State := s.stamp.updT (fun t => { t with bufs := t.bufs.set id.toFin e })
    (s.bufBusy id = true → Holds (.bufDecl h d a id) s s ∧ Holds (.bufGet h d id) s s ∧ Holds (.bufSet h id st) s s)
    ∧ (b.v = true → s.nearBusy b.lo b.hi true = true → Holds (.bufSet h id st) s s)
    ∧ (s.bufBusy id = false →
      (s.tile.declOk id base len = false → Faults (.bufDecl h d a id) s { code := .bufState, eval := some (BitVec.ofNat 64 id.toNat) })
      ∧ (s.tile.declOk id base len = true → Completes (.bufDecl h d a id) h s (entry (if len = 0 then {} else
          { st := .empty, v := true, len := BitVec.ofNat 16 (len.toNat / 64), base := BitVec.ofNat 15 (base.toNat / 64) }))))
    ∧ (s.bufBusy id = false →
      let states : List BufSt := [.empty, .filling, .full, .draining]
      (∀ new, states[st.toNat]? = some new → (b.v = false ∨ s.nearBusy b.lo b.hi true = false) →
        let legal := b.v = true ∧ (new = .empty ∨ (b.st, new) ∈ [(BufSt.empty, BufSt.filling), (.filling, .full), (.full, .draining)])
        (legal → Completes (.bufSet h id st) h s (entry { b with st := new }))
        ∧ (¬ legal → Faults (.bufSet h id st) s { code := .bufState, eval := some (BitVec.ofNat 64 id.toNat) }))
      ∧ (∀ k, states[k]? = some b.st → Completes (.bufGet h d id) h s (s.stamp.setReg d
          (if b.v then BitVec.ofNat 64 (k * 2 ^ 62 + 2 ^ 61 + b.len.toNat * 2 ^ 16 + b.base.toNat) else 0))))

end

/-! ### The control core's words for the engines -/

section
open Sys2Proof Sys2Proof.Machine

/-- R230: a word that names an engine without a ring raises ILLEGAL_OPCODE. R231: with no room for its words enq holds
the issue point; otherwise they stand at WP and after it, WP passes them, and no other byte of the near space, no
register and no other memory changes. A word of x is s[A] below s[B]; the other engines take s[A], and s[B] where B is not 0. -/
def Obligations.EnqueueWords : Prop :=
  ∀ (s : State) (h : Hdr) (e : Eng) (a b : Reg), s.Issues h [a, b] [] →
    let r := s.tile.eng.ring e
    let ws : List (List Byte) := if e = .x then [Spec.bytes 8 (s.reg a) ++ Spec.bytes 8 (s.reg b)]
      else if b = 0 then [Spec.bytes 8 (s.reg a)] else [Spec.bytes 8 (s.reg a), Spec.bytes 8 (s.reg b)]
    let used := (r.wp - r.rp).toNat
    let size : Nat := if e = .x then 16 else 8
    let place (k : Nat) : Nat := r.base.toNat + ((r.wp.toNat + k) % 2 ^ r.q.toNat) * size
    (r.q = 0 → ∀ i ∈ [Instr.enq h e a b, .seqWait h e a, .seqGet h e a, .xfence h e], Faults i s { code := .illegalOpcode })
    ∧ (r.q ≠ 0 → used + ws.length > 2 ^ r.q.toNat → Holds (.enq h e a b) s s)
    ∧ (r.q ≠ 0 → used + ws.length ≤ 2 ^ r.q.toNat → (∀ lo hi, s.nearBusy lo hi true = false) → s.tile.MemForm →
        ∃ t, Completes (.enq h e a b) h s t
          ∧ t.tile.eng.ring e = { r with wp := r.wp + BitVec.ofNat 32 ws.length }
          ∧ (∀ k w, ws[k]? = some w → t.tile.near.readN (place k) size = w)
          ∧ (∀ x, (∀ k < ws.length, x < place k ∨ place k + size ≤ x) → t.tile.near.read x = s.tile.near.read x)
          ∧ t.tile.core = s.tile.core ∧ t.tile.caps = s.tile.caps ∧ t.tile.bufs = s.tile.bufs ∧ t.pkg = s.pkg)

/-- R232 and R223: sd.set writes its word but for the read-only fields, takes SEALED from the type of the capability that
word 0 names and drops the key; sd.get reads a word. R233 to R236: the semaphores, the count of completed commands, the
condition queue and the cross-path marker. -/
def Obligations.DescriptorSemaphoreWords : Prop :=
  (∀ (s : State) (h : Hdr) (k : BitVec 3) (n : BitVec 4) (b : Reg), s.Issues h [b] [(s.reg b).extractLsb' 60 4] →
    let v := s.reg b
    let c := s.cap (v.extractLsb' 60 4)
    (s.sdBusy n true = false → ∃ t, Completes (.sdSet h k n b) h s t
      ∧ (∀ j, (t.sd n).get j =
          if j ≠ k ∨ k = 7 then (s.sd n).get j
          else if k = 0 then (v &&& 0xFFC000FFFFFFFFFF) ||| (if c.typ = 4 ∨ c.typ = 5 then 0x20000000000000 else 0)
          else if k = 2 then v &&& 0xFFFF00FFFFFFFFFF else v)
      ∧ (∀ m, m ≠ n → t.sd m = s.sd m)
      ∧ t.tile.core = s.tile.core ∧ t.tile.near = s.tile.near ∧ t.tile.caps = s.tile.caps ∧ t.pkg = s.pkg)
    ∧ (s.sdBusy n true = true → Holds (.sdSet h k n b) s s)
    ∧ (s.sdBusy n false = false → Completes (.sdGet h k n b) h s (s.setReg b ((s.sd n).get k))))
  ∧ (∀ (s : State) (h : Hdr) (n : BitVec 5) (e : Eng) (a : Reg), s.Issues h [a] [] →
    let sem (x : State) (m : BitVec 5) : BitVec 16 := x.tile.eng.sems[m.toFin]
    let entry (op : QOp) : QEntry := ⟨s.tile.ord.seq, s.tile.core.pc, op⟩
    let o := s.tile.ord
    let done := ([(Eng.v, s.tile.eng.seqV), (.m, s.tile.eng.seqM), (.x, s.tile.eng.seqX)].lookup e).getD 0
    Completes (.semSig h n) h s (s.mapOrd (fun o => { o with sq := o.sq ++ [entry (.sem n)], seq := o.seq + 1 }))
    ∧ Completes (.semGet h a n) h s (s.setReg a ((sem s n).zeroExtend 64))
    ∧ (sem s n = 0 → Holds (.semWait h n) s s)
    ∧ (sem s n ≠ 0 → s.tile.eng.cmds = [] → ∃ t, Completes (.semWait h n) h s t
        ∧ (∀ m, sem t m = if m = n then sem s n - 1 else sem s m)
        ∧ t.tile.core = s.tile.core ∧ t.tile.near = s.tile.near ∧ t.tile.ord = o ∧ t.pkg = s.pkg)
    ∧ (s.tile.eng.condq = [] → Holds (.condPop h a) s s)
    ∧ (∀ w q, s.tile.eng.condq = w :: q → Completes (.condPop h a) h s ((s.mapEng (fun g => { g with condq := q })).setReg a w))
    ∧ ((s.tile.eng.ring e).q ≠ 0 →
        Completes (.seqGet h e a) h s (s.setReg a (done.zeroExtend 64))
        ∧ ((done - (s.reg a).extractLsb' 0 32).toNat < 2 ^ 31 → Completes (.seqWait h e a) h s s)
        ∧ (¬ (done - (s.reg a).extractLsb' 0 32).toNat < 2 ^ 31 → Holds (.seqWait h e a) s s)
        ∧ Completes (.xfence h e) h s (s.mapOrd (fun o => { o with
            lq := o.lq ++ [entry (.xmark e (s.tile.eng.ts + 1))], sq := o.sq ++ [entry (.xmark e (s.tile.eng.ts + 1))], seq := o.seq + 1 }))))

/-- R305, R306, R307 and R308: mcfg writes a level word of the shadow bank, mgo swaps the banks and raises GO, mkey binds a
key to a descriptor or raises the fault of its first failing check, mstat reads.
In whose session mkey looks for a policy is the model's reading (log 56). -/
def Obligations.MatrixControlWords : Prop :=
  ∀ (s : State) (h : Hdr) (lvl : BitVec 3) (sel : BitVec 5) (n : BitVec 4) (a : Reg), s.Issues h [a] [(s.sd n).cap] →
    let e := s.tile.eng
    let words (x : State) (active : Bool) : Vector W64 6 := if active then x.tile.eng.bank1 else x.tile.eng.bank0
    (e.ringM.q = 0 → ∀ i ∈ [Instr.mcfg h lvl a, .mgo h, .mkey h n, .mstat h a sel], Faults i s { code := .illegalOpcode })
    ∧ (e.ringM.q ≠ 0 →
      (lvl.toNat ≥ 6 → Faults (.mcfg h lvl a) s { code := .illegalOpcode })
      ∧ (lvl.toNat < 6 → ∃ t, Completes (.mcfg h lvl a) h s t
          ∧ (∀ i : Fin 6, (words t (!e.active))[i] = if i.val = lvl.toNat then s.reg a &&& 0xFFFF0000FFFFFFFF else (words s (!e.active))[i])
          ∧ words t e.active = words s e.active ∧ t.tile.eng.active = e.active ∧ t.tile.eng.go = e.go
          ∧ t.tile.core = s.tile.core ∧ t.tile.near = s.tile.near ∧ t.pkg = s.pkg)
      ∧ (e.go = true → Holds (.mgo h) s s)
      ∧ (e.go = false → s.goReady = false → Holds (.mgo h) s s)
      ∧ (e.go = false → s.goReady = true → ∃ t, Completes (.mgo h) h s t
          ∧ t.tile.eng.active = !e.active ∧ t.tile.eng.go = true ∧ t.tile.eng.bank0 = e.bank0 ∧ t.tile.eng.bank1 = e.bank1
          ∧ t.tile.core = s.tile.core ∧ t.tile.near = s.tile.near ∧ t.pkg = s.pkg)
      ∧ (s.sdBusy n true = false →
          let d := s.sd n
          let c := s.cap d.cap
          (c.tag = false → Faults (.mkey h n) s { code := .capTag })
          ∧ (c.tag = true → (c.isSealed = false ∨ d.sealed_ = false) → Faults (.mkey h n) s { code := .capType })
          ∧ (c.tag = true → c.isSealed = true → d.sealed_ = true →
              ((∀ l, s.pkg.launch s.tile.handle = some l → l.rc.measured = false ∨ s.pkg.policy c l.rc.meas = none) →
                Faults (.mkey h n) s { code := .sealedPolicy, eval := some (c.pol.zeroExtend 64) })
              ∧ ∀ l x p u o, s.pkg.launch s.tile.handle = some l → l.rc.measured = true → s.pkg.policy c l.rc.meas = some (x, p) →
                  s.sealHdr c = .ok (u, o) → ∃ t, Completes (.mkey h n) h s t
                    ∧ t.sd n = { u.sd n with keyed := true, objid := BitVec.ofNat 64 o.objid, pol := c.pol, key := u.tenantKey x p } ∧ u.sd n = d
                    ∧ (∀ m, m ≠ n → t.sd m = u.sd m)))
      ∧ (sel = 0 → Completes (.mstat h a sel) h s (s.setReg a e.mStatus))
      ∧ (sel = 1 → Completes (.mstat h a sel) h s (s.setReg a e.msteps))
      ∧ (sel = 2 → Completes (.mstat h a sel) h s (s.setReg a e.mwakes))
      ∧ (sel.toNat ≥ 3 → Faults (.mstat h a sel) s { code := .illegalOpcode }))

/-! ### Traps and the system words -/

/-- R331, R332, R333, R337 and R338: what taking a fault of a control word does. A trap that can be delivered saves
CAUSE, EPC, EVAL, KPC, PPRIV and PIE, clears IE, sets NEST and goes to KVEC at level K; any other register, the
return stack and all memory stay. A trap with KVEC 0 or NEST set, and a fatal fault, end the launch at this tile with
the first fault on record. R337: an abort code in a running task writes CAUSE, EPC and EVAL and takes no trap: the task's held stores,
deferred atomics and queued flush are discarded with the commands that have not started, ABCNT rises by 1, the task is back in the ready set
at its list index (for PAGE_NOT_PRESENT until its page is present), and the 64th abort in succession ends the launch. A task that a
stop has reached is discarded instead. -/
def Obligations.TakingAFault : Prop :=
  ∀ (s : State) (c : FaultCode) (v pc : W64),
    let k := s.tile.sys.kstat
    let t := s.takeFault { code := c, eval := some v } pc
    let cause := t.tile.core.cause = BitVec.ofNat 64 c.num ∧ t.tile.core.epc = pc ∧ t.tile.core.eval = v
    let kept := t.tile.core.s = s.tile.core.s ∧ t.tile.core.p = s.tile.core.p ∧ t.tile.core.lc = s.tile.core.lc ∧ t.tile.core.ssp = s.tile.core.ssp
      ∧ t.tile.core.exh = s.tile.core.exh ∧ t.tile.caps = s.tile.caps ∧ t.tile.near = s.tile.near ∧ t.pkg = s.pkg ∧ t.peers = s.peers ∧ t.pool = s.pool
    (c.kind = .trap → s.tile.sys.kvec &&& ~~~7 ≠ 0 → k.getLsbD 6 = false →
      cause ∧ kept ∧ t.tile.sys.kpc = pc ∧ t.tile.core.pc = s.tile.sys.kvec &&& ~~~7 ∧ t.tile.core.level = .k
      ∧ t.tile.sys.kstat.toNat = (if k.getLsbD 7 then 128 else 0) + 64 + 8 * (k.getLsbD 2).toNat
          + (match s.tile.core.level with | .u => 0 | .k => 1 | .f => 2)
      ∧ t.tile.ord.lq = s.tile.ord.lq ∧ t.tile.ord.sq = s.tile.ord.sq
      ∧ t.tile.disp = (if s.tile.sys.dbgctl.getLsbD 0 then s.tile.disp.haltedAt s.pkg.time else s.tile.disp))
    ∧ ((c.kind = .trap ∧ (s.tile.sys.kvec &&& ~~~7 = 0 ∨ k.getLsbD 6 = true)) ∨ (c.kind ≠ .trap ∧ c.kind ≠ .abort) →
      cause ∧ kept ∧ t.tile.disp.run = .faulted ∧ t.tile.core.pc = s.tile.core.pc ∧ t.tile.core.level = s.tile.core.level ∧ t.tile.sys.kstat = k
      ∧ t.tile.disp.fault = some (s.tile.disp.fault.getD ⟨c, pc, s.pkg.time⟩))
    ∧ (c.kind = .abort → (s.tile.par.kind = .single ∨ s.tile.task.index = none) →
      t = s.trapCore { code := c, eval := some v } pc pc)
    ∧ (∀ i l r, c.kind = .abort → s.tile.par.kind ≠ .single → s.tile.task.index = some i → s.pkg.launch s.tile.handle = some l → l.tasks[i]? = some r →
      cause ∧ t.tile.core.s = s.tile.core.s ∧ t.tile.core.p = s.tile.core.p ∧ t.tile.core.pc = s.tile.core.pc ∧ t.tile.core.level = s.tile.core.level
      ∧ t.tile.sys.kstat = k ∧ t.tile.sys.kpc = s.tile.sys.kpc ∧ t.tile.sys.abcnt = s.tile.sys.abcnt + 1
      ∧ t.tile.task.held = [] ∧ t.tile.task.deferred = [] ∧ t.tile.task.flush = none ∧ t.tile.task.index = none
      ∧ (∀ d ∈ t.tile.eng.cmds, d.semr = 0x3F ∧ ∃ x ∈ s.tile.eng.cmds, x.eng = d.eng ∧ x.idx = d.idx ∧ ((x.eng = .x ∧ x.started = true) ∨ x.writes ≠ []))
      ∧ t.tile.caps = s.tile.caps ∧ t.tile.near = s.tile.near ∧ t.pkg.mem = s.pkg.mem ∧ t.pkg.l2 = s.pkg.l2 ∧ t.pool = s.pool
      ∧ (∃ x, t.pkg.launch l.handle = some x ∧ x.st = l.st ∧ (∀ j, j ≠ i → x.tasks[j]? = l.tasks[j]?) ∧ x.tasks[i]? = some { r with
          aborts := r.aborts + 1, st := if s.tile.task.stop = true then .committed else if c = .pageNotPresent then .waitVa v 0 else .ready })
      ∧ (r.aborts + 1 < 64 ∨ s.tile.task.stop = true → t.tile.disp.run = .between ∧ t.tile.disp.fault = s.tile.disp.fault)
      ∧ (64 ≤ r.aborts + 1 → s.tile.task.stop = false →
          t.tile.disp.run = .faulted ∧ t.tile.disp.fault = some (s.tile.disp.fault.getD ⟨c, pc, s.pkg.time⟩)))

/-- R361, R362, R363 and R364: trap, kcall and tret. -/
def Obligations.TrapWords : Prop :=
  ∀ (s : State) (h : Hdr) (a : Reg) (code : BitVec 8) (svc : BitVec 12), s.Issues h [a] [] →
    let k := s.tile.sys.kstat
    let deliver := s.tile.sys.kvec &&& ~~~7 ≠ 0 ∧ k.getLsbD 6 = false
    let into (t : State) : Prop := t.tile.core.pc = s.tile.sys.kvec &&& ~~~7 ∧ t.tile.core.level = .k ∧ t.tile.sys.kpc = s.tile.core.pc + 8
      ∧ t.tile.core.s = s.tile.core.s ∧ t.tile.core.p = s.tile.core.p ∧ t.tile.near = s.tile.near ∧ t.pkg = s.pkg ∧ t.tile.sys.kstat.getLsbD 6 = true
      ∧ t.tile.sys.kstat.getLsbD 2 = false ∧ t.tile.sys.kstat.getLsbD 3 = k.getLsbD 2
    let level (x : BitVec 2) : Level := if x = 0 then .u else .k
    (trapCodeOf code.toNat = none → Faults (.trap h a code) s { code := .illegalOpcode })
    ∧ (∀ c, trapCodeOf code.toNat = some c → deliver → ∃ t, exec (.trap h a code) s = .next t ∧ into t
        ∧ t.tile.core.cause = code.zeroExtend 64 ∧ t.tile.core.epc = s.tile.core.pc ∧ t.tile.core.eval = s.reg a ∧ t.tile.sys.kstat.extractLsb' 4 2 = 0)
    ∧ (∀ c, trapCodeOf code.toNat = some c → ¬ deliver → ∃ t, exec (.trap h a code) s = .next t ∧ t.tile.disp.run = .faulted)
    ∧ (k.getLsbD 6 = true → Faults (.kcall h svc) s { code := .illegalOpcode })
    ∧ (deliver → ∃ t, exec (.kcall h svc) s = .next t ∧ into t ∧ t.tile.sys.kmsg = 0x4000000000000000 ||| svc.zeroExtend 64
        ∧ t.tile.core.cause = s.tile.core.cause ∧ t.tile.core.epc = s.tile.core.epc ∧ t.tile.core.eval = s.tile.core.eval
        ∧ t.tile.sys.kstat.extractLsb' 4 2 = 2)
    ∧ (s.tile.core.level ≠ .u →
      (k.getLsbD 1 = true → Faults (.tret h) s { code := .privilege })
      ∧ (k.getLsbD 1 = false → s.tile.sys.kpc.toNat % 8 ≠ 0 → Faults (.tret h) s { code := .misaligned, eval := some s.tile.sys.kpc })
      ∧ (k.getLsbD 1 = false → s.tile.sys.kpc.toNat % 8 = 0 → ∃ t, exec (.tret h) s = .next t
          ∧ t.tile.core.pc = s.tile.sys.kpc ∧ t.tile.core.level = level (k.extractLsb' 0 2) ∧ t.tile.sys.kstat.getLsbD 2 = k.getLsbD 3
          ∧ t.tile.sys.kstat.getLsbD 6 = false ∧ t.tile.sys.kstat.getLsbD 7 = false ∧ t.tile.eng.heldStreams = false
          ∧ t.tile.core.s = s.tile.core.s ∧ t.tile.caps = s.tile.caps ∧ t.tile.near = s.tile.near ∧ t.pkg = s.pkg))

/-- R360 and R365 to R372: the words of level K below it, the invalidations and their wait, the context words, and idle.
When tlbsync is done and the inner form of a context area are the model's (logs 54 and 41). -/
def Obligations.KernelWords : Prop :=
  ∀ (s : State) (h : Hdr), s.tile.ord.nasWait = none →
    (∀ i : Instr, i.hdr = some h → i.needsK = true → s.tile.core.level = .u → Faults i s { code := .privilege })
    ∧ (s.tile.core.level ≠ .u → ∀ (d a : Reg) (pod : Bool), s.Issues h [d, a] [] →
      let o := s.tile.ord
      let inval (form : BitVec 2) (va asid : W64) : State := s.mapOrd (fun o => { o with
        lq := o.lq ++ [⟨o.seq, s.tile.core.pc, .marker .rel 2⟩],
        sq := o.sq ++ [⟨o.seq, s.tile.core.pc, .marker .rel 2⟩] ++ [⟨o.seq + 1, s.tile.core.pc, .tlbi form va asid pod⟩], seq := o.seq + 2 })
      Completes (.tlbiPage h d a pod) h s (inval 0 (s.reg a &&& 0x3FFFFFFFFFFF) (s.reg d &&& 0xFFFF))
      ∧ Completes (.tlbiAsid h d pod) h s (inval 1 0 (s.reg d &&& 0xFFFF))
      ∧ Completes (.tlbiAll h pod) h s (inval 2 0 0)
      ∧ (s.tlbiDone = true → Completes (.tlbsync h) h s (s.mapOrd (fun o => { o with tlbiQ := [], tlbiX := [], tlbiPod := [] })))
      ∧ (s.tlbiDone = false → Holds (.tlbsync h) s s)
      ∧ (o.sq = [] → o.tlbiQ = [] → o.tlbiX = [] → o.tlbiPod = [] → s.tlbiDone = true)
      ∧ (∀ i ∈ [Instr.ctxSave h a, .ctxLoad h a], let p := s.reg a
          (p.toNat % 0x40000 ≠ 0 → Faults i s { code := .misaligned, eval := some p })
          ∧ (p.toNat % 0x40000 = 0 → (p.toNat + 0x370000 > s.pkg.bound ∨ s.pkg.stackGone p.toNat = true) → Faults i s { code := .pagePerm, eval := some p })
          ∧ (p.toNat % 0x40000 = 0 → p.toNat + 0x370000 ≤ s.pkg.bound → s.pkg.life.gone = [] → (s.tile.eng.settled && s.coreQuiet) = false →
              Holds i s (s.mapEng (fun e => { e with settling := true }))))
      ∧ ((s.reg a).toNat % 0x40000 = 0 → (s.reg a).toNat + 0x370000 ≤ s.pkg.bound → s.pkg.life.gone = [] → s.tile.eng.settled = true → s.coreQuiet = true →
          let u := ((s.mapEng (fun e => { e with settling := false })).holdStreams).releaseAll
          Completes (.ctxSave h a) h s (u.writeArea (s.reg a).toNat (u.mapCore (fun c => { c with s := c.s.set a.toFin u.tile.sys.kscr })).tile
            u.tile.sys.kpc (u.tile.sys.kstat.getLsbD 7) 0 0 wholeNear)
          ∧ (let bs := u.pkg.homeN (s.reg a).toNat 0x118
             let form := (dword bs 0).extractLsb' 16 8
             let bad := (dword bs 0).extractLsb' 0 16 ≠ 1 ∨ form.toNat > 1 ∨ ((dword bs 0).extractLsb' 24 4).toNat ≠ u.tile.par.tile.toNat
               ∨ ((dword bs 0).extractLsb' 28 4).toNat ≠ u.tile.par.clus.toNat
             (bad → Faults (.ctxLoad h a) s { code := .illegalOpcode, eval := some (s.reg a) })
             ∧ ∀ t, ¬ bad → u.loadArea (s.reg a).toNat form.toNat (u.areaRanges (s.reg a).toNat form.toNat) = .ok t →
                 ∃ r, Completes (.ctxLoad h a) h s r ∧ r.tile.sys.kpc = dword bs 8 ∧ r.tile.sys.kstat.extractLsb' 0 2 = 0
                   ∧ r.tile.sys.kstat.getLsbD 7 = (dword bs 0x110).getLsbD 8 ∧ r.tile.core = t.tile.core ∧ r.tile.caps = t.tile.caps
                   ∧ r.tile.near = t.tile.near ∧ r.tile.eng = t.tile.eng))
      ∧ ((s.tile.disp.msg.isSome ∨ s.tile.disp.preempt ≠ .none ∨ s.tile.sys.dbgctl.getLsbD 0 = true) → Completes (.idle h) h s s)
      ∧ (s.tile.disp.msg = none → s.tile.disp.preempt = .none → s.tile.sys.dbgctl.getLsbD 0 = false → Holds (.idle h) s s))

end

namespace Sys2Proof
open Sys2Proof.Machine

/-! ### The tables of spec 12 -/

/-- R268: an integer source element after ABS and then NEG, each modulo 2^w. -/
def Spec.srcInt (w : Nat) (signed : Bool) (r : Region) (x : Nat) : Int :=
  if signed then
    let v : Int := if x < 2 ^ (w - 1) then x else x - 2 ^ w
    let v : Int := if r.abs then (if v < 0 then -v else v) else v
    (BitVec.ofInt w (if r.neg then -v else v)).toInt
  else x

/-- R271: an integer result, saturated or modulo 2^w. -/
def Spec.dstInt (w : Nat) (signed satd : Bool) (e : Int) : Nat :=
  let lo : Int := if signed then -(2 ^ (w - 1)) else 0
  let hi : Int := if signed then 2 ^ (w - 1) - 1 else 2 ^ w - 1
  ((if satd then max lo (min hi e) else e) % 2 ^ w).toNat

/-- R271: the two-source arithmetic on integers, and on numbers before their one rounding. -/
def Spec.vArith : List ((VCmd → Instr) × VSpec × (Int → Int → Int) × (RMode → FVal → FVal → FVal)) :=
  [(.vAdd, specSum, (· + ·), fun m x y => (FVal.add m x y).1), (.vSub, specSum, (· - ·), fun m x y => (FVal.add m x y.negate).1),
   (.vMul, specSum, (· * ·), fun _ x y => (FVal.mul x y).1), (.vMin, specMinMax, min, fun _ x y => (x.min y).1),
   (.vMax, specMinMax, max, fun _ x y => (x.max y).1), (.vDiv, specDiv, fun _ _ => 0, fun _ x y => (FVal.div x y).1)]

/-- R274: the bitwise functions of two sources; R274 and R275: of one, with the element width first. -/
def Spec.vBits2 : List ((VCmd → Instr) × (Nat → Nat → Nat)) := [(.vAnd, (· &&& ·)), (.vOr, (· ||| ·)), (.vXor, (· ^^^ ·))]
def Spec.vBits1 : List ((VCmd → Instr) × (Nat → Nat → Nat)) :=
  [(.vNot, fun w x => 2 ^ w - 1 - x), (.vClz, Spec.clz), (.vFfs, Spec.ffs), (.vPop, Spec.pop)]

/-- R274: the shifts, by width, source and amount. -/
def Spec.vShifts : List ((VCmd → Instr) × (Nat → Nat → Nat → Nat)) :=
  [(.vShl, fun w x k => x * 2 ^ k % 2 ^ w), (.vShr, fun _ x k => x / 2 ^ k),
   (.vSra, fun w x k => ((if x < 2 ^ (w - 1) then (x : Int) else x - 2 ^ w) / 2 ^ k % 2 ^ w).toNat)]

/-- R259, R260 and R279: the log-number commands of two LNS32 sources. -/
def Spec.vLogs : List ((VCmd → Instr) × (LVal → LVal → LVal)) := [(.vLmul, LVal.mul), (.vLdiv, LVal.div), (.vLadd, LVal.add)]

end Sys2Proof

/-! ### The vector engine -/

section
open Sys2Proof Sys2Proof.Machine

/-- R269, R271, R274 and R275: arithmetic, bitwise, shift and bit-count commands. Each writes its value to every element
of D, in the element's own width, and RP passes the command; nothing but D, the command's record and a monitor on a
written line changes. An element of D in cluster memory enters the queue of the V path (R176, EngineEvents). Floating point takes one
rounding of the exact value (`dstV`).
That the reads of a command fall in one step is the model's choice (log 15). -/
def Obligations.VectorArithmeticAndBits : Prop :=
  (∀ f ∈ Spec.vArith, ∀ (s : State) (c : VCmd), s.VReady f.2.1 c →
    let sp := f.2.1
    let x (r : VRole) (i : Nat) : Nat := s.vSrc (sp.reg c r) (sp.width c r) i
    (∀ w sg, c.ty = .int w sg → exec (f.1 c) s = .next (s.vDone sp c (dOut (sp.n c) (fun i =>
      Spec.dstInt w sg (c.ops.getLsbD 28) (f.2.2.1 (Spec.srcInt w sg (sp.reg c .a) (x .a i)) (Spec.srcInt w sg (sp.reg c .b) (x .b i))))) id))
    ∧ (∀ g, c.ty = .flt g → exec (f.1 c) s = .next (s.vDone sp c (dOut (sp.n c) (fun i =>
      dstV g (.mode (rmodeOf c.rm)) (sp.reg c .d) (f.2.2.2 (rmodeOf c.rm) (s.vVal sp c .a i) (s.vVal sp c .b i)))) id)))
  ∧ (∀ (s : State) (c : VCmd) (g : Fmt), c.ty = .flt g →
    let v (sp : VSpec) (r : VRole) (i : Nat) : FVal := s.vVal sp c r i
    let out (sp : VSpec) (f : Nat → FVal) : State := s.vDone sp c (dOut (sp.n c) (fun i => dstV g (.mode (rmodeOf c.rm)) (sp.reg c .d) (f i))) id
    (s.VReady specFma c → exec (.vFma c) s = .next (out specFma (fun i =>
      (FVal.fma (rmodeOf c.rm) (v specFma .a i) (v specFma .b i) (g.decode (s.vGet (specFma.reg c .d) g.bits i))).1)))
    ∧ (s.VReady specSqrt c → exec (.vSqrt c) s = .next (out specSqrt (fun i => (v specSqrt .a i).sqrt.1)))
    ∧ (s.VReady specRsq c → exec (.vRsq c) s = .next (out specRsq (fun i => (v specRsq .a i).rsqrt))))
  ∧ (∀ f ∈ Spec.vBits2, ∀ (s : State) (c : VCmd), s.VReady specBit2 c →
    let x (r : VRole) (i : Nat) : Nat := s.vSrc (specBit2.reg c r) c.ty.bits i
    exec (f.1 c) s = .next (s.vDone specBit2 c (dOut (specBit2.n c) (fun i => f.2 (x .a i) (x .b i))) id))
  ∧ (∀ f ∈ Spec.vBits1, ∀ (s : State) (c : VCmd), s.VReady specBit1 c →
    exec (f.1 c) s = .next (s.vDone specBit1 c (dOut (specBit1.n c) (fun i => f.2 c.ty.bits (s.vSrc (specBit1.reg c .a) c.ty.bits i))) id))
  ∧ (∀ f ∈ Spec.vShifts, ∀ (s : State) (c : VCmd), s.VReady specShift c →
    let w := c.ty.bits
    let by_ (i : Nat) : Nat := if c.ops.getLsbD 31 then (c.ops.extractLsb' 0 6).toNat else s.vSrc (specShift.reg c .b) w i % w
    exec (f.1 c) s = .next (s.vDone specShift c (dOut (specShift.n c) (fun i => f.2 w (s.vSrc (specShift.reg c .a) w i) (by_ i))) id))

/-- R276 to R282, R259 to R261: conversions, block formats, log numbers, activations, reductions and scans. R272, R273, R283
to R291: compare, select, fill, index, permute, move, the conditional streams, the estimator and random bits. A v.cmp whose words
do not all fit into the condition queue pushes as many as do, keeps the others, and waits past RP with M not written (R207, R222, R272).
The sign of a zero and NaN in a fold are the model's readings (logs 13 and 23). -/
def Obligations.VectorOtherCommands : Prop :=
  (∀ (s : State) (c : VCmd),
    (s.VReady specCvt c → exec (.vCvt c) s = .next (s.vDone specCvt c (dOut (specCvt.n c) (fun i =>
      c.ty.ofValue (s.vRound (s.atRp .v) c.rm i) (specCvt.reg c .d).scale.toInt (specCvt.reg c .d).clamp (s.vVal specCvt c .a i))) id))
    ∧ (s.VReady specQblk c →
      let block (b : Nat) : Nat × List Nat := quantBlock c.tcode (fun i => s.vRound (s.atRp .v) c.rm (32 * b + i))
        ((List.range 32).map (fun i => s.vVal specQblk c .a (32 * b + i)))
      let bs := List.range (specQblk.n c / 32)
      exec (.vQblk c) s = .next (s.vDone specQblk c (bs.flatMap (fun b => (block b).2.mapIdx (fun i x => (.d, 32 * b + i, x))) ++ bs.map (fun b => (.sc, b, (block b).1))) id))
    ∧ (∀ g, s.VReady specDq c → c.ty = .flt g → exec (.vDq c) s = .next (s.vDone specDq c (dOut (specDq.n c) (fun i =>
      dstV g (.mode .rne) (specDq.reg c .d) (blockValue c.scode (s.vGet (specDq.reg c .sc) (specDq.width c .sc) (i / 32)) (i % 32)
        (s.vGet (specDq.reg c .a) (specDq.width c .a) i)))) id))
    ∧ (s.VReady specTolog c → exec (.vTolog c) s = .next (s.vDone specTolog c (dOut (specTolog.n c) (fun i => (lnsOf (s.vVal specTolog c .a i)).encode)) id))
    ∧ (s.VReady specFromlog c → exec (.vFromlog c) s = .next (s.vDone specFromlog c (dOut (specFromlog.n c) (fun i =>
      fmt32.clamp (specFromlog.reg c .d).clamp (lnsToF32 (specFromlog.reg c .d).scale.toInt (s.vLns specFromlog c .a i)))) id))
    ∧ (s.VReady specLog2 c → ∀ f ∈ Spec.vLogs, exec (f.1 c) s = .next (s.vDone specLog2 c (dOut (specLog2.n c) (fun i =>
      (f.2 (s.vLns specLog2 c .a i) (s.vLns specLog2 c .b i)).encode)) id))
    ∧ (s.VReady specLpow c → exec (.vLpow c) s = .next (s.vDone specLpow c (dOut (specLpow.n c) (fun i =>
      ((s.vLns specLpow c .a i).pow (s.vVal specLpow c .y i)).encode)) id))
    ∧ (s.VReady specLog1 c → exec (.vLsqrt c) s = .next (s.vDone specLog1 c (dOut (specLog1.n c) (fun i => (s.vLns specLog1 c .a i).sqrt.encode)) id))
    ∧ (∀ g, s.VReady specAct c → c.ty = .flt g → exec (.vAct c) s = .next (s.vDone specAct c (dOut (specAct.n c) (fun i =>
      g.clamp (specAct.reg c .d).clamp ((actFn (c.ops.extractLsb' 0 4).toNat).apply g (specAct.reg c .d).scale.toInt (s.vVal specAct c .a i)))) id))
    ∧ (s.VReady specRed c →
      let n := specRed.n c
      let l := specRed.count c .a / n
      exec (.vRed c) s = .next (s.vDone specRed c (dOut n (fun g =>
        treeOf (redOp c.ty c.rm (c.ops.extractLsb' 0 2).toNat) 17 ((List.range l).map (fun i => s.vPat specRed c .a (g * l + i))))) id))
    ∧ (s.VReady specScan c →
      let n := specScan.n c
      let op := (c.ops.extractLsb' 0 2).toNat
      let l := segOf c n
      let xs := (List.range n).map (fun i => s.vPat specScan c .a i)
      let segs := (List.range (n / l)).map (fun b => (xs.drop (b * l)).take l)
      exec (.vScan c) s = .next (s.vDone specScan c ((segs.flatMap (scanSeg (redOp c.ty c.rm op) (c.ops.getLsbD 2) none (scanId c.ty op))).mapIdx (fun i x => (.d, i, x))) id)))
  ∧ (∀ (s : State) (c : VCmd),
    (s.VReady specCmp c →
      let n := specCmp.n c
      let ws := (List.range ((n + 63) / 64)).map (condWord n (s.vCond c))
      let puts : List (VRole × Nat × Nat) := if c.regs.length = 3 then ws.mapIdx (fun g w => (.m, g, w)) else []
      (c.ops.getLsbD 28 = false → exec (.vCmp c) s = .next (s.vDone specCmp c puts id))
      ∧ (c.ops.getLsbD 28 = true → s.tile.eng.condq.length + ws.length ≤ 4 →
          exec (.vCmp c) s = .next (s.vDone specCmp c puts (fun t => t.mapEng (fun e => { e with condq := e.condq ++ ws.map (BitVec.ofNat 64) }))))
      ∧ (c.ops.getLsbD 28 = true → s.tile.eng.condq.length ≤ 4 → 4 < s.tile.eng.condq.length + ws.length → ∃ t k, exec (.vCmp c) s = .next t
          ∧ t.tile.eng.condq = s.tile.eng.condq ++ (ws.take (4 - s.tile.eng.condq.length)).map (BitVec.ofNat 64)
          ∧ t.tile.eng.ringV.rp = s.tile.eng.ringV.rp + BitVec.ofNat 32 (1 + c.regs.length) ∧ t.tile.near = s.tile.near ∧ t.pkg = s.pkg
          ∧ t.tile.eng.cmds = [k] ∧ k.started = true ∧ k.performed = false ∧ k.left = 4 - s.tile.eng.condq.length ∧ k.held = ws.map (BitVec.ofNat 64)))
    ∧ (s.VReady specSel c → exec (.vSel c) s = .next (s.vDone specSel c
        (((List.range (specSel.n c)).filter (fun i => s.vBit specSel c i != c.ops.getLsbD 31)).map (fun i => (.d, i, s.vSrc (specSel.reg c .a) c.ty.bits i))) id))
    ∧ (s.VReady specFill c →
      (c.tcode ≠ 6 → c.tcode ≠ 7 → c.tcode ≠ 0xB → exec (.vFill c) s = .next (s.vDone specFill c (dOut (specFill.n c) (fun _ => c.ops.toNat % 2 ^ c.ty.bits)) id))
      ∧ (c.tcode = 6 ∨ c.tcode = 7 → exec (.vFill c) s = .next (s.vDone specFill c (dOut (specFill.n c) (fun _ => (BitVec.ofInt 64 c.ops.toInt).toNat)) id))
      ∧ (c.tcode = 0xB → exec (.vFill c) s = .next (s.vDone specFill c (dOut (specFill.n c) (fun _ => (fmt64.round .rne (fmt32.decode c.ops.toNat)).1)) id)))
    ∧ (s.VReady specIdx c → exec (.vIdx c) s = .next (s.vDone specIdx c (dOut (specIdx.n c) (fun i =>
        (((c.ops.extractLsb' 16 16).toInt + i * (c.ops.extractLsb' 0 16).toInt) % 2 ^ c.ty.bits).toNat)) id))
    ∧ (s.VReady specPerm c → exec (.vPerm c) s = .next (s.vDone specPerm c (dOut (specPerm.n c) (fun i =>
        let j := s.vSrc (specPerm.reg c .x) 32 i
        if j < (specPerm.reg c .a).count.toNat then s.vGet (specPerm.reg c .a) c.ty.bits j else 0)) id))
    ∧ (s.VReady specMov c →
      (∀ g, c.ty = .flt g → g.bits ≥ 16 → exec (.vMov c) s = .next (s.vDone specMov c (dOut (specMov.n c) (fun i =>
        dstV g (.mode (rmodeOf c.rm)) (specMov.reg c .d) (s.vVal specMov c .a i))) id))
      ∧ ((∃ g, c.ty = .flt g ∧ g.bits < 16) → exec (.vMov c) s = .next (s.vDone specMov c (dOut (specMov.n c) (fun i => s.vSrc (specMov.reg c .a) c.ty.bits i)) id))
      ∧ ((∀ g, c.ty ≠ .flt g) → (∀ sg, c.ty ≠ .int 4 sg) → exec (.vMov c) s = .next (s.vDone specMov c (dOut (specMov.n c) (fun i => s.vPat specMov c .a i)) id)))
    ∧ (s.VReady specSpush c →
      let q : Fin 4 := (c.ops.extractLsb' 0 2).toFin
      let sel := (List.range (specSpush.n c)).filter (fun i => s.vBit specSpush c i != c.ops.getLsbD 2)
      let cap := specSpush.count c .ring
      let a := s.tile.sys.sqin[q]
      ((a - s.tile.sys.sqout[q]).toNat + sel.length ≤ cap → exec (.vSpush c) s = .next (s.vDone specSpush c
          (sel.mapIdx (fun j i => (.ring, (a + BitVec.ofNat 32 j).toNat % cap, s.vSrc (specSpush.reg c .a) c.ty.bits i)))
          (fun t => t.mapSys (fun y => { y with sqin := y.sqin.set q (a + BitVec.ofNat 32 sel.length) }))
          (fun k => { k with sq := some (q, false, BitVec.ofNat 32 sel.length) })))
      ∧ ((a - s.tile.sys.sqout[q]).toNat + sel.length > cap →
          exec (.vSpush c) s = .next ((s.begun .v).engFault .v (s.tile.eng.ring .v).rp { code := .bufState, eval := some (0x44 + BitVec.ofNat 64 q.val) })))
    ∧ (s.VReady specSpop c →
      let q : Fin 4 := (c.ops.extractLsb' 0 2).toFin
      let n := specSpop.n c
      let o := s.tile.sys.sqout[q]
      let avail := (s.tile.sys.sqin[q] - o).toNat
      let cap := specSpop.count c .ring
      ((n ≤ avail ∨ c.ops.getLsbD 3 = true) → exec (.vSpop c) s = .next (s.vDone specSpop c
          (dOut n (fun i => if i < min n avail then s.vGet (specSpop.reg c .ring) c.ty.bits ((o.toNat + i) % cap) else 0))
          (fun t => t.mapSys (fun y => { y with sqout := y.sqout.set q (o + BitVec.ofNat 32 (min n avail)) }))
          (fun k => { k with sq := some (q, true, BitVec.ofNat 32 (min n avail)) })))
      ∧ (avail < n → c.ops.getLsbD 3 = false →
          exec (.vSpop c) s = .next ((s.begun .v).engFault .v (s.tile.eng.ring .v).rp { code := .bufState, eval := some (0x44 + BitVec.ofNat 64 q.val) })))
    ∧ (s.VReady specEst c → exec (.vEst c) s = .next (s.vDone specEst c [] (fun t => t.mapPar (fun p =>
        ((List.range (specEst.n c)).map (fun i => BitVec.ofNat 64 (fmt64.round .rne (s.vVal specEst c .a i)).1)).foldl Par.welford p))))
    ∧ (s.VReady specRnd c → exec (.vRnd c) s = .next (s.vDone specRnd c (dOut (specRnd.n c) (fun i =>
        let h := c.ty.bytes / 2
        (List.range h).foldl (fun a j => a + (s.vRho (s.atRp .v) (h * i + j)).toNat * 2 ^ (16 * j)) 0)) id)))

end

/-! ### The arithmetic of the matrix engine -/

section
open Sys2Proof Sys2Proof.Machine

/-- R245: the products that one pair of operands gives, and log 20 where only one of them is FP32. -/
def Spec.parts (sa sb : Bool) (p : FVal × FVal) : List (FVal × FVal) :=
  let (x, y) := p
  if x.isFin = false ∨ y.isFin = false then [(x, y)]
  else
    match sa, sb with
    | false, false => [(x, y)]
    | true, false => [((splitF19 x).1, y), ((splitF19 x).2, y)]
    | false, true => [(x, (splitF19 y).1), (x, (splitF19 y).2)]
    | true, true => [((splitF19 x).1, (splitF19 y).1), ((splitF19 x).1, (splitF19 y).2), ((splitF19 x).2, (splitF19 y).1)]

/-- R243 to R245: one result element of a floating-point step is the exact sum of its products and the accumulator, rounded once to FP32 in
RNE; the special values of R244; the two parts of an FP32 operand. R246: an integer element is the saturated exact sum. -/
def Spec.MatrixSums : Prop :=
  (∀ (sa sb : Bool) (acc : Option Nat) (ps : List (FVal × FVal)),
    (sa = true → ∀ p ∈ ps, ∃ c, p.1 = fmt32.decode c) → (sb = true → ∀ p ∈ ps, ∃ c, p.2 = fmt32.decode c) →
    let r := mmaFloat sa sb acc (ps.map (·.1)) (ps.map (·.2))
    let a := acc.map fmt32.decode
    let zeroInf (x y : FVal) : Prop := x.isFin = true ∧ Spec.value x = 0 ∧ y.isFin = false
    let undef := (∃ v ∈ a, v.isNan = true) ∨ ∃ p ∈ ps, p.1.isNan = true ∨ p.2.isNan = true ∨ zeroInf p.1 p.2 ∨ zeroInf p.2 p.1
    let inf (n : Bool) : Prop := a = some (.inf n) ∨ ∃ p ∈ ps, (p.1.isFin = false ∨ p.2.isFin = false) ∧ (p.1.neg != p.2.neg) = n
    let parts := ps.flatMap (Spec.parts sa sb)
    let q : Rat := (parts.map (fun p => Spec.value p.1 * Spec.value p.2)).foldl (· + ·) ((a.map Spec.value).getD 0)
    let negZero := (∀ v ∈ a, Spec.value v = 0 ∧ v.neg = true) ∧ (∀ p ∈ parts, Spec.value p.1 * Spec.value p.2 = 0 ∧ p.1.neg ≠ p.2.neg) ∧ (acc ≠ none ∨ ps ≠ [])
    (undef ∨ (inf true ∧ inf false) → r = 0x7FC00000)
    ∧ (∀ n, ¬ undef → inf n → ¬ inf (!n) → r = if n then 0xFF800000 else 0x7F800000)
    ∧ (¬ undef → ¬ inf true → ¬ inf false →
        (q ≠ 0 → ∃ fl, Spec.RoundsTo fmt32 .rne q (r, fl)) ∧ (q = 0 → negZero → r = 0x80000000) ∧ (q = 0 → ¬ negZero → r = 0)))
  ∧ (∀ (c : Nat), let x := fmt32.decode c
      x.isFin = true → Spec.value x ≠ 0 →
      ∃ hi lo : Nat × FlagSet, splitF19 x = (fmt19.decode hi.1, fmt19.decode lo.1) ∧ Spec.RoundsTo fmt19 .rz (Spec.value x) hi
        ∧ (let rest := Spec.value x - Spec.value (fmt19.decode hi.1)
           (rest ≠ 0 → Spec.RoundsTo fmt19 .rne rest lo) ∧ (rest = 0 → Spec.value (fmt19.decode lo.1) = 0)))
  ∧ (∀ (w : BitVec 32) (xs : List (Int × Int)),
      let sum := xs.foldl (fun t p => t + p.1 * p.2) w.toInt
      mmaInt (some w.toNat) (xs.map (fun p => FVal.ofInt p.1)) (xs.map (fun p => FVal.ofInt p.2)) =
        ((BitVec.ofInt 32 (max (-(2 ^ 31)) (min (2 ^ 31 - 1) sum))).toNat, decide (sum < -(2 ^ 31) ∨ 2 ^ 31 - 1 < sum)))

/-- R293, R297, R298, R300, R301: one step at a point whose blocks are in range. Of mma: the kinds that raise STREAM_FORMAT, and the block
that the step makes of its operands, here unscaled elements of whole bytes behind plain capabilities, row by row. Of acc.ld: the block that it makes.
Of acc.out: the element that each format and kind takes. A block written reads back, with its kind, and no other block changes. -/
def Spec.MatrixSteps : Prop :=
  (∀ (s : State) (m : MStep) (pt : List Nat) (fresh : Bool), 0 ≤ m.blk pt → m.blk pt ≤ 95 →
    (m.op = .mmaDc → 0 ≤ m.blkA pt ∧ m.blkA pt ≤ 95) →
    let a := s.sd m.c.sa
    let b := s.sd m.c.sb
    let blk := (m.blk pt).toNat
    let kind := s.blockKind m.c.bank blk
    let int := m.op = .mma ∧ 9 ≤ b.fmt ∧ b.fmt ≤ 0xB
    let badKind := (fresh = false ∧ ((int ∧ kind = .fp) ∨ (¬ int ∧ kind = .int))) ∨ (m.op = .mmaDc ∧ s.blockKind m.c.dcbank (m.blkA pt).toNat = .int)
    let after (u : State) : State := (u.mTake m pt).mapEng (fun e => { e with msteps := e.msteps + 1 })
    let bytes (t : State) (d : Sd) (ls : List Loc) (i k : Nat) : Nat := Spec.number (t.locRead (ls.getD (d.cols * i + k) (.own 0)) (d.bits / 8))
    let whole (d : Sd) : Prop := d.sfmt = 0 ∧ 8 ≤ d.bits ∧ d.fmt < 0xC ∧ 0 < d.rows ∧ d.rows ≤ 16 ∧ 0 < d.cols
    (m.op = .mma ∨ m.op = .mmaDc → badKind → s.mStep m pt fresh = .error { code := .streamFormat })
    ∧ (m.op = .mma → ¬ badKind → whole a → whole b → ∀ t la lb, s.fillChecks m.idx (some a) b pt = .ok (t, .plain (la.map (fun l => [l])), .plain (lb.map (fun l => [l]))) →
        la.length = a.rows * a.cols → lb.length = b.rows * b.cols →
        let row (d : Sd) (ls : List Loc) (neg : Bool) (i : Nat) : List FVal :=
          if i < d.rows then (List.range d.cols).map (fun k => let v := d.ety.value (bytes t d ls i k); if neg then v.negate else v) else []
        let was (i j : Nat) : Option Nat := if fresh then none else some ((s.blockWords m.c.bank blk).toList.getD (16 * i + j) 0)
        (int → s.mStep m pt fresh = .ok (after (let rs := (List.range 256).map (fun n => mmaInt (was (n / 16) (n % 16)) (row a la m.c.na (n / 16)) (row b lb m.c.nb (n % 16)))
          let u := t.putBlock m.c.bank blk (rs.map (·.1)) .int
          if rs.any (·.2) then u.mapSys (fun y => { y with msat := 1 }) else u)))
        ∧ (¬ int → s.mStep m pt fresh = .ok (after (t.putBlock m.c.bank blk ((List.range 256).map (fun n =>
            mmaFloat (decide (a.fmt = 0)) (decide (b.fmt = 0)) (was (n / 16) (n % 16)) (row a la m.c.na (n / 16)) (row b lb m.c.nb (n % 16)))) .fp))))
    ∧ (m.op = .ld → a.sfmt = 0 → a.fmt ∈ [0, 2, 3] → a.rows ≤ 16 → a.cols ≤ 16 → ∀ t ls, s.fillCheck m.idx a pt false false = .ok (t, .plain (ls.map (fun l => [l]))) → ls.length = a.rows * a.cols →
        ∃ ws : List Nat, ws.length = 256 ∧ s.mStep m pt fresh = .ok (after (t.putBlock m.c.bank blk ws (if a.fmt = 0 then .raw else .fp)))
          ∧ ∀ r < 16, ∀ c < 16,
              let w := ws.getD (16 * r + c) 0
              let x := a.ety.value (bytes t a ls r c)
              (¬ (r < a.rows ∧ c < a.cols) → w = 0)
              ∧ (r < a.rows → c < a.cols → a.fmt = 0 → w = bytes t a ls r c)
              ∧ (r < a.rows → c < a.cols → a.fmt ≠ 0 →
                  (x.isNan = true → w = 0x7FC00000)
                  ∧ (x.isNan = false → Spec.value (fmt32.decode w) = Spec.value x ∧ (fmt32.decode w).neg = x.neg ∧ (fmt32.decode w).isFin = x.isFin)))
    ∧ (m.op = .out → (outElem a.fmt kind 0).isNone = true → s.mStep m pt fresh = .error { code := .streamFormat })
    ∧ (m.op = .out → (outElem a.fmt kind 0).isNone = false → ∀ t ls, s.fillCheck m.idx a pt true false = .ok (t, .plain ls) →
        s.mStep m pt fresh = .ok (after ((a.positions.zip ls).foldl (fun t x => t.outPut m.idx (a.elemAt (s.cap a.cap) pt x.1.1 x.1.2) x.2 a.bits
          ((outElem a.fmt kind ((s.blockWords m.c.bank blk).toList.getD (16 * x.1.1 + x.1.2) 0)).getD 0)) t))))
  ∧ (∀ (kind : BlockKind) (w : BitVec 32),
      let v := fmt32.decode w.toNat
      (outElem 0 kind w.toNat = some w.toNat)
      ∧ (∀ f ∈ [9, 0xA, 0xB], (outElem f kind w.toNat = none ↔ kind = .fp)
          ∧ (kind ≠ .fp → outElem f kind w.toNat = some (match f with
              | 9 => (BitVec.ofInt 8 (max (-128) (min 127 w.toInt))).toNat
              | 0xA => (max 0 (min 255 w.toInt)).toNat
              | _ => (BitVec.ofInt 4 (max (-8) (min 7 w.toInt))).toNat)))
      ∧ (∀ f, 1 ≤ f → f ≤ 8 → (outElem f kind w.toNat = none ↔ kind = .int))
      ∧ (kind ≠ .int → ∀ f ∈ [(1, fmt19, 2 ^ 13), (2, fmtBf16, 1), (3, fmt16, 1), (4, fmtE5m2, 1)],
          (v.isNan = true → outElem f.1 kind w.toNat = some ((f.2.1.nan.getD 0) * f.2.2))
          ∧ (∀ n, v = .inf n → outElem f.1 kind w.toNat = some (((if n then 2 ^ (f.2.1.bits - 1) else 0) + f.2.1.maxCode + 1) * f.2.2))
          ∧ (v.isFin = true → Spec.value v ≠ 0 → ∃ r, Spec.RoundsTo f.2.1 .rne (Spec.value v) r ∧ outElem f.1 kind w.toNat = some (r.1 * f.2.2))
          ∧ (v.isFin = true → Spec.value v = 0 → outElem f.1 kind w.toNat = some ((if v.neg then 2 ^ (f.2.1.bits - 1) else 0) * f.2.2))))
  ∧ (∀ (s : State) (bank : Bool) (b : Nat) (ws : List Nat) (k : BlockKind), s.tile.MemForm → b < 96 → ws.length = 256 → (∀ w ∈ ws, w < 2 ^ 32) →
      let t := s.putBlock bank b ws k
      let at_ : Nat := 0x400000 + (if bank then 0x18000 else 0) + 0x400 * b
      (t.blockWords bank b).toList = ws ∧ t.blockKind bank b = k
      ∧ (∀ i < 256, t.tile.near.readN (at_ + 4 * i) 4 = Spec.bytes 4 (BitVec.ofNat 64 (ws.getD i 0)))
      ∧ (∀ a, (a < at_ ∨ at_ + 0x400 ≤ a) → t.tile.near.read a = s.tile.near.read a)
      ∧ (∀ bank' b', b' < 96 → (bank' ≠ bank ∨ b' ≠ b) → t.blockKind bank' b' = s.blockKind bank' b')
      ∧ t.tile.core = s.tile.core ∧ t.tile.caps = s.tile.caps ∧ t.tile.eng = s.tile.eng ∧ t.pkg = s.pkg)

/-- R157, R301, R303, R304: a stream behind a sealed capability. Only mma opens one; the descriptor's binding is checked first, then the payload's
bounds, then the capability. A segment's plaintext is that of AES-256-GCM under the binding's key with the IV and the authenticated header
bytes of R157, and a tag that differs raises SEALED_INTEGRITY with its number, which ends the fill. -/
def Spec.SealedFills : Prop :=
  (∀ (s : State) (idx : W32) (d : Sd) (pt : List Nat) (wr mayOpen : Bool), s.sealedStream d = true →
    let c := s.cap d.cap
    let first : W64 := BitVec.ofInt 64 ((d.elemAcc c pt ++ d.scaleAcc c pt).headD (0, 0)).1
    (mayOpen = false → s.fillCheck idx d pt wr mayOpen = .error { code := .sealedPath, eval := some first })
    ∧ (mayOpen = true → (d.keyed = false ∨ d.pol ≠ c.pol) → s.fillCheck idx d pt wr mayOpen = .error { code := .sealedPolicy, eval := some (c.pol.zeroExtend 64) })
    ∧ (mayOpen = true → d.keyed = true → d.pol = c.pol → ∀ t bs, s.sealedBytes c (if c.typ = 4 then 0 else c.base) 0x14 = .ok (t, bs) →
        let lo : Int := ((if c.typ = 4 then 0 else c.base) : W64).toNat + 0x100
        let hi : Int := lo + 256 * Spec.number ((bs.drop 16).take 4)
        (d.objid.toNat ≠ Spec.number (bs.take 6) → s.fillCheck idx d pt wr mayOpen = .error { code := .sealedPolicy, eval := some (c.pol.zeroExtend 64) })
        ∧ (d.objid.toNat = Spec.number (bs.take 6) → ∀ pre x post, d.elemAcc c pt ++ d.scaleAcc c pt = pre ++ x :: post →
            (∀ y ∈ pre, lo ≤ y.1 ∧ y.1 + y.2 ≤ hi) → (x.1 < lo ∨ hi < x.1 + x.2) → s.fillCheck idx d pt wr mayOpen = .error { code := .capBounds, eval := some (BitVec.ofInt 64 x.1) })
        ∧ (d.objid.toNat = Spec.number (bs.take 6) → (∀ x ∈ d.elemAcc c pt ++ d.scaleAcc c pt, lo ≤ x.1 ∧ x.1 + x.2 ≤ hi) →
            (c.perm.getLsbD 11 = false ∨ c.tenant ≠ s.tile.tenant) → s.fillCheck idx d pt wr mayOpen = .error { code := .capPerm, eval := some first })))
  ∧ (∀ (x : Segment) (d : Sd) (h : SealHdr), x.j < 2 ^ 32 →
      let big (n v : Nat) : List Byte := (Spec.bytes n (BitVec.ofNat 64 v)).reverse
      let key : List Byte := ((List.range 32).map (fun i => BitVec.ofNat 8 (d.key.toNat / 256 ^ i))).reverse
      let g := gcmDecrypt key (big 6 h.objid ++ big 4 x.j ++ big 2 h.version) h.aad x.ct
      (g.2.take 8 = x.tag → x.unseal d h = .ok (x.j, g.1))
      ∧ (g.2.take 8 ≠ x.tag → x.unseal d h = .error { code := .sealedIntegrity, eval := some (BitVec.ofNat 64 x.j) }))
  ∧ (∀ (s : State) (d : Sd) (pt : List Nat) (h : SealHdr) (segs : List Segment),
      (∀ fi pre x post, segs = pre ++ x :: post → (∀ y ∈ pre, ∃ p, y.unseal d h = .ok p) → x.unseal d h = .error fi → s.fillBytes d pt (.sealed_ h segs) = .error fi)
      ∧ (∀ ps : List (Nat × List Byte), segs.map (fun x => x.unseal d h) = ps.map (fun p => .ok p) →
          let c := s.cap d.cap
          let byte (a : Int) : Byte := let o := a.toNat - h.origin.toNat - 0x100
            (((ps.find? (fun p => p.1 == o / 256)).map (·.2)).getD []).getD (o % 256) 0
          (∀ x ∈ d.elemAcc c pt ++ d.scaleAcc c pt, (h.origin.toNat : Int) + 0x100 ≤ x.1) →
          s.fillBytes d pt (.sealed_ h segs) = .ok ((d.elemAcc c pt ++ d.scaleAcc c pt).map (fun x => (List.range x.2).map (fun (i : Nat) => byte (x.1 + (i : Int)))))))

end

/-! ### Starting commands; the matrix engine -/

section
open Sys2Proof Sys2Proof.Machine

/-- R214, R216, R219, R220, R221 and R269: what stands between a command at RP and its work, in order. The fields, then
the semaphore, then a predicate that is false (RP passes the command and its descriptors advance, R223), then earlier commands,
then the addresses and the buffers. A command that faults or waits does none of its work. A gsr sees a count of a
conditional stream once the command that moved it completes (R287).
RP stays at a command that waits or faults (log 16). -/
def Obligations.EngineCommandStart : Prop :=
  (∀ (s : State) (e : Eng) (op : EngOp),
    let n := (s.tile.eng.ring e).rp
    let c := s.cmdAt e n op.pred
    let r := s.runCmd e n false op
    let named := op.semw ≠ 0x3F
    let kept := s.keepCmd { c with waited := true }
    ((badSem op.semw = true ∨ badSem op.semr = true) → r = s.engFault e n { code := .illegalOpcode })
    ∧ (badSem op.semw = false → badSem op.semr = false →
      (∀ fi, op.bad = some fi → r = s.engFault e n fi)
      ∧ (op.bad = none → named → c.waited = false → s.semFree op.semw (some e) c.ts = false → r = s)
      ∧ (s.tile.eng.sems[op.semw.toNat % 32] = 0 → s.semFree op.semw (some e) c.ts = false)
      ∧ (op.bad = none → ¬ named ∨ c.waited = true → c.predTrue = false → ∀ t, op.run kept { c with waited := true } = .done t →
          r = ((t.passRp e op.words).advanceSds op.sds).keepCmd { c with words := op.words, waited := true, began := true, started := true, semr := op.semr, sds := [], prod := [], cons := [], performed := true })
      ∧ (op.bad = none → ¬ named ∨ c.waited = true → c.predTrue = true → kept.cmdBlocked { c with waited := true } = true → r = kept)
      ∧ (op.bad = none → ¬ named ∨ c.waited = true → c.predTrue = true → c.caps = none → kept.cmdBlocked { c with waited := true } = false →
          kept.queueBlocks c.rngs = false → kept.unmarked c.rngs = false → op.ready kept { c with waited := true } = true →
          (∀ fi, op.chk kept = some fi → r = kept.engFault e n fi)
          ∧ (∀ v, op.chk kept = none → c.began = false →
              kept.tile.bufStartFault (fun d => d.before { c with waited := true }) (bufUses c.decls op.acc) = some v →
              r = kept.engFault e n { code := .bufState, eval := some v }))))
  ∧ (∀ (s : State) (q : Fin 4) (pop : Bool) (k : Cmd) (v : W32), s.tile.eng.cmds = [k] → k.eng = .v →
      ((s.putSq q pop v).sqShown q pop = v.zeroExtend 64)
      ∧ (∀ d, k.sq = some (q, pop, d) → k.done = false →
          s.sqShown q pop = ((if pop then s.tile.sys.sqout[q] else s.tile.sys.sqin[q]) - d).zeroExtend 64)
      ∧ (k.done = true → s.sqShown q pop = (if pop then s.tile.sys.sqout[q] else s.tile.sys.sqin[q]).zeroExtend 64))
  ∧ (∀ (s : State) (i : Instr) (sp : VSpec) (c : VCmd), vSpecOf i = some (sp, c) → badSem c.semw = false → badSem c.semr = false →
      (∀ fi, sp.bad c = some fi → exec i s = .next (s.engFault .v (s.tile.eng.ring .v).rp fi))
      ∧ (∀ fi, sp.bad c = none → s.EngineReady c.semw c.semr c.pred → s.vBounds sp c = some fi →
          exec i s = .next ((s.begun .v).engFault .v (s.tile.eng.ring .v).rp fi)))
  ∧ (∀ (s : State) (n : W32) (r : Region) (w i x : Nat), s.tile.MemForm → 0 < w → w ≤ 64 → 0 ≤ r.firstByte w i → s.tile.eng.writesOf .v n = [] →
      let p := r.place w i
      let t := s.vPut n r w i x
      (p.1 + p.2 ≤ clusterBase → t.vGet r w i = x % 2 ^ w
        ∧ (∀ a, (a < p.1 ∨ p.1 + p.2 ≤ a) → t.tile.near.read a = s.tile.near.read a) ∧ t.pkg = s.pkg ∧ t.tile.core = s.tile.core ∧ t.tile.eng = s.tile.eng)
      ∧ (clusterBase ≤ p.1 → ∃ bs : List Byte, bs.length = p.2 ∧ leNat bs / 2 ^ (r.bitAt w i % 8).toNat % 2 ^ w = x % 2 ^ w
          ∧ t = s.updCmd .v n (fun c => { c with writes := c.writes ++ [(.own p.1, bs)] })))

/-- R293, R296, R298 to R301, R225, R227: an M command whose steps all succeed has run every point of the nest that it
latched, and RP passes it; one that a step stops is stopped there with the earlier steps kept. A command with G set
waits for GO and takes it. acc.zero clears the block of every point. `Spec.MatrixSums`, `Spec.MatrixSteps` and `Spec.SealedFills`
say what one element, one step and one sealed stream are (R243 to R246, R297 to R301, R303, R304).
That a command's steps all run in one step of the machine, with its writes to shared memory queued, the numbering of the sub-arrays, the operand of
another format beside an FP32 one, and the header that names a SEALED-POOL object are the model's (logs 15, 34, 20 and 137). -/
def Obligations.MatrixCommands : Prop :=
  (∀ x ∈ [(Instr.mma, MOp.mma), (.mmaDc, .mmaDc), (.accZero, .zero), (.accLd, .ld), (.accOut, .out)],
    ∀ (s : State) (c : MCmd), s.EngineReady c.semw c.semr c.pred → s.mBad x.2 c = none →
    let e := s.tile.eng
    let nest := (if e.active then e.bank1 else e.bank0).toList
    let m : MStep := ⟨x.2, c, nest.map nestDa, nest.map nestDacc, e.ringM.rp⟩
    let latched (f : Cmd → Cmd) : Cmd := f { s.atRp .m with raw := nest.map (fun w => w.zeroExtend 128) }
    let at_ : State := (s.mapEng (fun g => { g with cmds := [latched id], go := if c.g then false else g.go })).wakeArrays (s.mNeeds x.2 c)
    (c.g = true → e.go = false → exec (x.1 c) s = .next (s.begun .m))
    ∧ ((c.g = true → e.go = true) → ∀ t, at_.mSteps m 0 [] (nestPoints nest) = (t, none) →
        exec (x.1 c) s = .next (s.passed t .m 1 c.semr (fun k => { k with sds := x.2.sds c })))
    ∧ ((c.g = true → e.go = true) → ∀ t fi, at_.mSteps m 0 [] (nestPoints nest) = (t, some fi) →
        exec (x.1 c) s = .next (((t.updT (fun y => { y with caps := s.tile.caps, sys := { y.sys with ptok := s.tile.sys.ptok } })).mapEng (fun g => { g with cmds := [latched (fun k => { k with began := true, semr := c.semr, sds := x.2.sds c, writes := t.tile.eng.writesOf .m e.ringM.rp })] })).engFault .m e.ringM.rp fi))
    ∧ (∀ pts k seen, x.2 = .zero → (∀ pt ∈ pts, 0 ≤ m.blk pt ∧ m.blk pt ≤ 95) → ∀ u : State,
        u.mSteps m k seen pts = (((pts.foldl (fun u pt =>
          (u.putBlock c.bank (m.blk pt).toNat (List.replicate 256 0) .raw).mapEng (fun g => { g with msteps := g.msteps + 1 })) u).mapEng (fun g => { g with mPoint := 0 })), none))
    ∧ (∀ pt r k seen, (m.blk pt < 0 ∨ 95 < m.blk pt) → ∀ u : State,
        u.mSteps m k seen (pt :: r) = (u.mapEng (fun g => { g with mPoint := k }), some { code := .accRange, eval := some (BitVec.ofInt 64 (m.blk pt)) })))
  ∧ Spec.MatrixSums ∧ Spec.MatrixSteps ∧ Spec.SealedFills

end

/-! ### The transfer engine -/

section
open Sys2Proof Sys2Proof.Machine

/-- R310, R312, R313, R315 and R316: x.copy, x.fill, x.gather and x.scatter. A side that fails a check faults the command
with no access, the source before the destination, and an index list that leaves the core scratchpad comes first. Otherwise the command starts, RP passes it,
and its accesses are those of the rules, in list order for an indexed side; they perform all reads before any write (`performMove`): a place written twice, as by
a scatter with repeated indices, keeps the last. Writes to shared memory enter the command's path queue in that order (R176). A side's addresses are
exact sums: a copy or a fill whose first source or destination lies outside the 64-bit space faults with no access.
That the reads of a move are one step, that near lines are looked at after both sides' addresses, and that a place outside the
64-bit space gives CAP_BOUNDS, are the model's choices (logs 15, 126 and 103). -/
def Obligations.TransferMoves : Prop :=
  (∀ (s : State) (c : XCmd), s.EngineReady c.semw c.semr c.pred →
    let from_ := s.cap c.scap
    let to_ := s.cap c.dcap
    let n := c.len16.toNat
    let run (a : W64) (unit k : Nat) : List W64 := (List.range k).map (fun i => a + BitVec.ofNat 64 (unit * i))
    let starts (i : Instr) (gather one : Bool) (unit : Nat) (srcs dsts : List W64) : Prop :=
      s.sideFault ⟨from_, srcs, false⟩ unit = none → s.sideFault ⟨to_, dsts, true⟩ unit = none →
      s.sideGuard ⟨from_, srcs, false⟩ unit = none → s.sideGuard ⟨to_, dsts, true⟩ unit = none →
      ∀ t ls u ds, (s.begun .x).engLocates from_ unit false false srcs = .ok (t, ls) → t.engLocates to_ unit true false dsts = .ok (u, ds) →
        exec i s = .next (s.passed u .x 1 c.semr (fun k => { k with
          performed := false, raw := s.ringWords .x s.tile.eng.ringX.rp 1, tok := s.tile.sys.ptok, move := some ⟨gather, unit, ls, ds, one⟩ }))
    let stops (i : Instr) (unit : Nat) (srcs dsts : List W64) : Prop :=
      (∀ fi, s.sideFault ⟨from_, srcs, false⟩ unit = some fi → exec i s = .next ((s.begun .x).engFault .x s.tile.eng.ringX.rp fi))
      ∧ (∀ fi, s.sideFault ⟨from_, srcs, false⟩ unit = none → s.sideFault ⟨to_, dsts, true⟩ unit = some fi → exec i s = .next ((s.begun .x).engFault .x s.tile.eng.ringX.rp fi))
    let z : Nat := match (c.len16.extractLsb' 14 2).toNat with | 0 => 4 | 1 => 8 | 2 => 64 | _ => 256
    let unit := min z 8
    let k := (c.len16.extractLsb' 0 14).toNat + 1
    let list (o : BitVec 40) : Nat := (o.extractLsb' 25 15).toNat * 64
    let index (o : BitVec 40) (i : Nat) : Nat := Spec.number (s.tile.near.readN (list o + 4 * i) 4)
    let parts (f : Nat → W64) : List W64 := (List.range k).flatMap (fun i => run (f i) unit (z / unit))
    let readable (o : BitVec 40) : Prop := list o + 4 * k ≤ 0x200000 ∧ s.tile.near.ecc = []
    let x : Int := from_.cursor.toNat + c.soff.toInt
    let y : Int := to_.cursor.toNat + c.doff.toInt
    let fault (i : Instr) (a : W64) : Prop := exec i s = .next ((s.begun .x).engFault .x s.tile.eng.ringX.rp { code := .capBounds, eval := some a })
    (n = 0 → ∀ i ∈ [Instr.xCopy c, .xFill c], exec i s = .next (s.engFault .x s.tile.eng.ringX.rp { code := .regionCount }))
    ∧ (n ≠ 0 →
      (let srcs := run (from_.cursor + c.soff.signExtend 64) 8 n
       let dsts := run (to_.cursor + c.doff.signExtend 64) 8 n
       (inSpace x (8 * n) → inSpace y (8 * n) → starts (.xCopy c) false false 8 srcs dsts ∧ stops (.xCopy c) 8 srcs dsts)
       ∧ (inSpace x 8 → inSpace y (8 * n) →
          starts (.xFill c) false true 8 [from_.cursor + c.soff.signExtend 64] dsts ∧ stops (.xFill c) 8 [from_.cursor + c.soff.signExtend 64] dsts)
       ∧ (¬ inSpace x 8 → s.sideCap from_ (from_.cursor + c.soff.signExtend 64) false = none →
          fault (.xCopy c) (from_.cursor + c.soff.signExtend 64) ∧ fault (.xFill c) (from_.cursor + c.soff.signExtend 64))
       ∧ (¬ inSpace y 8 → s.sideCap to_ (to_.cursor + c.doff.signExtend 64) true = none →
          (inSpace x (8 * n) → s.sideFault ⟨from_, srcs, false⟩ 8 = none → fault (.xCopy c) (to_.cursor + c.doff.signExtend 64))
          ∧ (inSpace x 8 → s.sideFault ⟨from_, [from_.cursor + c.soff.signExtend 64], false⟩ 8 = none → fault (.xFill c) (to_.cursor + c.doff.signExtend 64)))))
    ∧ (0x200000 < list c.doff + 4 * k → fault (.xGather c) (BitVec.ofNat 64 (max (list c.doff) 0x200000)))
    ∧ (0x200000 < list c.soff + 4 * k → fault (.xScatter c) (BitVec.ofNat 64 (max (list c.soff) 0x200000)))
    ∧ (readable c.doff → (∀ i < k, inSpace (x + index c.doff i * z) z) → inSpace (to_.cursor.toNat + (c.doff.extractLsb' 0 25).toNat) (z * k) →
        let srcs := parts (fun i => from_.cursor + c.soff.signExtend 64 + BitVec.ofNat 64 (index c.doff i * z))
        let dsts := parts (fun i => to_.cursor + (c.doff.extractLsb' 0 25).zeroExtend 64 + BitVec.ofNat 64 (z * i))
        starts (.xGather c) true false unit srcs dsts ∧ stops (.xGather c) unit srcs dsts)
    ∧ (readable c.soff → (∀ i < k, inSpace (y + index c.soff i * z) z) → inSpace (from_.cursor.toNat + (c.soff.extractLsb' 0 25).toNat) (z * k) →
        let srcs := parts (fun i => from_.cursor + (c.soff.extractLsb' 0 25).zeroExtend 64 + BitVec.ofNat 64 (z * i))
        let dsts := parts (fun i => to_.cursor + c.doff.signExtend 64 + BitVec.ofNat 64 (index c.soff i * z))
        starts (.xScatter c) true false unit srcs dsts ∧ stops (.xScatter c) unit srcs dsts))
  ∧ (∀ (s : State) (rp : W32) (a b n : Nat) (g : Bool), s.tile.MemForm → a + 8 * n ≤ clusterBase → b + 8 * n ≤ clusterBase → 0 < n →
      let places (x : Nat) : List Loc := (List.range n).map (fun i => Loc.own (x + 8 * i))
      let copy := s.performMove rp ⟨g, 8, places a, places b, false⟩
      let fill := s.performMove rp ⟨g, 8, [.own a], places b, true⟩
      (∀ j < 8 * n, copy.tile.near.read (b + j) = s.tile.near.read (a + j) ∧ fill.tile.near.read (b + j) = s.tile.near.read (a + j % 8))
      ∧ (∀ x, (x < b ∨ b + 8 * n ≤ x) → copy.tile.near.read x = s.tile.near.read x ∧ fill.tile.near.read x = s.tile.near.read x)
      ∧ copy.pkg = s.pkg ∧ fill.pkg = s.pkg)
  ∧ (∀ (s : State) (rp : W32) (unit : Nat) (ss ds : List Nat) (g : Bool), s.tile.MemForm → 0 < unit → ss.length = ds.length →
      (∀ a ∈ ss, a + unit ≤ clusterBase) → (∀ a ∈ ds, a + unit ≤ clusterBase) →
      let t := s.performMove rp ⟨g, unit, ss.map .own, ds.map .own, false⟩
      (∀ i x, i < ds.length → ds.getD i 0 ≤ x → x < ds.getD i 0 + unit → (∀ j, i < j → j < ds.length → x < ds.getD j 0 ∨ ds.getD j 0 + unit ≤ x) →
          t.tile.near.read x = s.tile.near.read (ss.getD i 0 + (x - ds.getD i 0)))
      ∧ (∀ x, (∀ a ∈ ds, x < a ∨ a + unit ≤ x) → t.tile.near.read x = s.tile.near.read x) ∧ t.pkg = s.pkg ∧ t.tile.core = s.tile.core)
  ∧ (∀ (s : State) (rp : W32) (m : Move), m.one = false → m.srcs.length = m.dsts.length → (∀ d ∈ m.dsts, d.shared = true) →
      s.performMove rp m = s.updCmd .x rp (fun c => { c with writes := c.writes ++ m.dsts.zip (m.srcs.map (fun l => s.locRead l m.unit)) }))

/-- R317, R319 and R320: x.send delivers its words and raises both semaphores' ends, x.fence waits for the paths of its
mask, x.wait for its word. An x.fence that names the control core waits while an earlier access of the core has not
performed, and one that names V or M while an earlier command of it with an access in its path has not (R177). A command that waits has
started: RP passes it (R207). An x.send that arrives changes the named bytes of the target tile and its semaphore alone.
That the words of an x.send arrive in one step, where it stands among the receiver's commands, and which accesses are a path's are the model's
choices (logs 15, 129 and 130). -/
def Obligations.SendFenceWait : Prop :=
  (∀ (s : State) (c : XCmd), s.EngineReady c.semw c.semr c.pred →
    let n := c.len16.toNat
    let here := s.cap c.scap
    let src := here.cursor + c.soff.signExtend 64
    let srcs : List W64 := (List.range n).map (fun i => src + BitVec.ofNat 64 (8 * i))
    let near := (c.doff.extractLsb' 0 25).toNat
    let rp := s.tile.eng.ringX.rp
    let fault (fi : FaultInfo) (i : Instr) : Prop := exec i s = .next ((s.begun .x).engFault .x rp fi)
    let badField (i : Instr) : Prop := exec i s = .next (s.engFault .x rp { code := .illegalOpcode })
    let reserved := c.doff.getLsbD 31 = true ∨ c.doff.extractLsb' 36 4 ≠ 0 ∨ badSem (c.doff.extractLsb' 25 6) = true ∨ s.tile.par.kind ≠ .single
    (reserved → badField (.xSend c))
    ∧ (¬ reserved → n ≠ 0 → here.tag = true → here.typ ≠ 1 → here.typ ≠ 4 → here.typ ≠ 5 → fault { code := .capType, eval := some src } (.xSend c))
    ∧ (¬ reserved → n ≠ 0 → here.typ = 1 → inSpace (here.cursor.toNat + c.soff.toInt) (8 * n) → s.sideFault ⟨here, srcs, false⟩ 8 = none → s.sendFault c = none →
        s.sideGuard ⟨here, srcs, false⟩ 8 = none → s.sendGuard c = none →
        ∀ phys r, s.sendTarget c = some phys → s.tileAt phys = some r → s.sliceBegun phys = true → (∀ b ∈ r.bufs.toList, b.v = false) →
        r.ringFault near (near + 8 * n) = none →
        r.eng.sems[(c.doff.extractLsb' 25 6).toNat % 32] ≠ 0xFFFF →
        ∀ t ls, (s.begun .x).engLocates here 8 false false srcs = .ok (t, ls) →
          exec (.xSend c) s = .next (s.passed (t.sendArrive c (s.atRp .x) phys (ls.flatMap (fun l => t.locRead l 8))) .x 1 c.semr))
    ∧ (let res := c.scap ≠ 0 ∨ c.soff ≠ 0 ∨ c.dcap ≠ 0 ∨ c.doff ≠ 0 ∨ c.len16.extractLsb' 4 12 ≠ 0 ∨ c.len16 = 0
       (res → badField (.xFence c)) ∧ (¬ res → exec (.xFence c) s = .next (s.passed (s.begun .x) .x 1 c.semr)))
    ∧ (let res := c.dcap ≠ 0 ∨ c.doff.extractLsb' 32 8 ≠ 0 ∨ c.len16 ≠ 0
       (res → badField (.xWait c))
       ∧ (¬ res → here.typ = 1 → s.sideCap here src false = none → 0x400000 ≤ src.toNat → src.toNat < 0x430000 → fault { code := .capBounds, eval := some src } (.xWait c))
       ∧ (¬ res → here.typ = 1 → inSpace (here.cursor.toNat + c.soff.toInt) 4 → s.sideFault ⟨here, [src], false⟩ 4 = none →
          s.sideGuard ⟨here, [src], false⟩ 4 = none → ¬ (0x400000 ≤ src.toNat ∧ src.toNat < 0x430000) →
          let w : BitVec 32 := BitVec.ofNat 32 (leNat (s.nearN src.toNat 4))
          exec (.xWait c) s = .next (if (w - c.doff.extractLsb' 0 32).toNat < 2 ^ 31 then s.passed (s.begun .x) .x 1 c.semr
            else s.waitsX (s.begun .x) 1 c.semr))))
  ∧ (∀ (s : State) (c : XCmd) (k : Cmd) (rest : List Cmd), s.tile.eng.cmds = rest ++ [k] →
    k.eng = .x → k.idx = s.tile.eng.ringX.rp → (∀ d ∈ rest, d.eng = .x → d.idx ≠ k.idx ∧ d.started = false) →
    k.predTrue = true → k.waited = true → k.started = false → k.rngs = [] → k.caps = none → k.began = false →
    (∀ d ∈ s.tile.eng.cmds, d.tried = false) → badSem c.semw = false → badSem c.semr = false →
    c.scap = 0 → c.soff = 0 → c.dcap = 0 → c.doff = 0 → c.len16.extractLsb' 4 12 = 0 → c.len16 ≠ 0 →
    ((c.len16.getLsbD 0 = true ∧ s.coreOpen k.pos = true)
      ∨ (c.len16.getLsbD 1 = true ∧ ∃ d ∈ rest, d.eng = .v ∧ d.path = true ∧ d.predTrue = true ∧ d.performed = false ∧ d.ts < k.ts)
      ∨ (c.len16.getLsbD 2 = true ∧ ∃ d ∈ rest, d.eng = .m ∧ d.path = true ∧ d.predTrue = true ∧ d.performed = false ∧ d.ts < k.ts)) →
    exec (.xFence c) s = .next ((s.passRp .x 1).updCmd .x k.idx (fun _ => { k with
      words := 1, began := true, started := true, semr := c.semr, sds := [], left := 0, raw := s.ringWords .x k.idx 1, caps := some s.tile.caps,
      tok := s.tile.sys.ptok, tried := true })))
  ∧ (∀ (s : State) (c : XCmd) (k : Cmd) (phys : Nat) (bs : List Byte) (r : Tile), s.tileAt phys = some r → r.MemForm → (∀ b ∈ r.bufs.toList, b.v = false) →
      let near := (c.doff.extractLsb' 0 25).toNat
      let n := (c.doff.extractLsb' 25 6).toNat
      near + bs.length ≤ 0x1EFFC0 → (n = 0x3F ∨ (n < 32 ∧ r.eng.sems[n % 32] ≠ 0xFFFF)) →
      let t := s.sendArrive c k phys bs
      (∃ u, t.tileAt phys = some u
        ∧ (∀ i < bs.length, u.near.read (near + i) = bs.getD i 0) ∧ (∀ x, (x < near ∨ near + bs.length ≤ x) → u.near.read x = r.near.read x)
        ∧ (∀ m : Fin 32, u.eng.sems[m] = if m.val = n then r.eng.sems[m] + 1 else r.eng.sems[m])
        ∧ u.core = r.core ∧ u.caps = r.caps ∧ u.sys = r.sys ∧ u.par = r.par ∧ u.near.kinds = r.near.kinds ∧ ∀ e, u.eng.ring e = r.eng.ring e)
      ∧ (∀ p q, p ≠ phys → s.tileAt p = some q → ∃ u, t.tileAt p = some u ∧ u.near = q.near ∧ u.core = q.core ∧ u.caps = q.caps ∧ u.eng.sems = q.eng.sems)
      ∧ t.pkg.mem = s.pkg.mem ∧ t.pkg.l2 = s.pkg.l2)

end

/-! ### Pool, leases, peers, collectives and circuits through the transfer engine -/

section
open Sys2Proof Sys2Proof.Machine

/-- R426 to R433: the pool commands. A pool side that fails its checks faults the command with nothing done. x.pget
writes the object's bytes to its destination, x.pput its source bytes to the resident page and its channel, x.patom
sends its atomic, the page commands work through their pages, x.pref leaves the pages to the prefetcher. A renewal that is refused raises
LEASE_LOST for its page. A release waits while the node of the object cannot be reached (R408).
That the reads of a command fall in one step, the permissions of a lease command, the place of the entry and mode checks in R312's order, the
endpoint number of a node and what reaches it are the model's (logs 15, 29, 62, 116 and 120). -/
def Obligations.PoolCommands : Prop :=
  ∀ (s : State) (c : XCmd), s.EngineReady c.semw c.semr c.pred →
    let e := s.begun .x
    let rp := s.tile.eng.ringX.rp
    let src := s.cap c.scap
    let dst := s.cap c.dcap
    let a := src.cursor + c.soff.signExtend 64
    let b := dst.cursor + c.doff.signExtend 64
    let n := c.len40.toNat
    let x : Int := src.cursor.toNat + c.soff.toInt
    let y : Int := dst.cursor.toNat + c.doff.toInt
    let words (x : W64) (k : Nat) : List W64 := (List.range k).map (fun i => x + BitVec.ofNat 64 (8 * i))
    let plain := c.len16 = 0 ∧ c.key = 0 ∧ c.flags = 0
    let done (i : Instr) (t : State) : Prop := exec i s = .next (s.passed t .x 2 c.semr)
    let fault (i : Instr) (fi : FaultInfo) : Prop := exec i s = .next (e.engFault .x rp fi)
    let paged := c.dcap = 0 ∧ c.doff = 0 ∧ c.key = 0 ∧ c.len40 = 0 ∧ c.flags.toNat < 4 ∧ 0 < c.len16.toNat ∧ c.len16.toNat ≤ 4096
    let pages := (List.range c.len16.toNat).map (fun i => a.toNat / 0x40000 + i)
    let id := src.base.toNat
    let k := s.startedX 2 c.semr
    (plain → n ≠ 0 →
      let direct := (s.pkg.object id).any (·.direct) && n == 8
      (∀ fi, s.poolSide src x n 0x800 (if direct then 8 else 64) direct = some fi → fault (.xPget c) fi)
      ∧ (s.poolSide src x n 0x800 (if direct then 8 else 64) direct = none → inSpace y n →
          ∀ fi, s.plainSide ⟨dst, words b (n / 8), true⟩ = some fi → fault (.xPget c) fi)
      ∧ (s.poolSide src x n 0x800 (if direct then 8 else 64) direct = none → inSpace y n → s.plainSide ⟨dst, words b (n / 8), true⟩ = none →
          s.sideGuard ⟨dst, words b (n / 8), true⟩ 8 = none → s.lostPage id a.toNat n = none → s.objBad id a.toNat n false = none → ((∀ g ∈ pagesOf a.toNat n, (s.pkg.frameOf id g).isSome) ∨ s.channelBusy id = false) →
          ∀ t ls, e.engLocates dst 8 true false (words b (n / 8)) = .ok (t, ls) →
            done (.xPget c) (t.putWords rp ls ((List.range n).map (fun i => s.objByte id (a.toNat + i))))))
    ∧ (plain → n ≠ 0 → n % 8 = 0 → inSpace x n → s.plainSide ⟨src, words a (n / 8), false⟩ = none → ∀ fi, s.poolSide dst y n 0x400 64 false = some fi → fault (.xPput c) fi)
    ∧ (plain → n ≠ 0 → inSpace x n → s.plainSide ⟨src, words a (n / 8), false⟩ = none → s.poolSide dst y n 0x400 64 false = none →
        s.sideGuard ⟨src, words a (n / 8), false⟩ 8 = none → (∀ g ∈ pagesOf b.toNat n, ∃ l, s.pkg.frameLoc dst.base.toNat (firstOff b.toNat g) true = .ok l) → s.objBad dst.base.toNat b.toNat n true = none →
        ∀ t ls, e.engLocates src 8 false false (words a (n / 8)) = .ok (t, ls) →
          let lines := (chunks 64 (ls.flatMap (fun l => t.locRead l 8))).mapIdx (fun i x => (b.toNat + 64 * i, x))
          let u := lines.foldl (fun u x => match u.pkg.frameOf dst.base.toNat (x.1 / 0x40000) with
            | some f => (u.writeHomeLine (f.pa + x.1 % 0x40000) x.2 u.tile.sys.ptok).updP (fun p => p.markLast (s.cmdAddr .x rp) rp)
            | none => u) t
          done (.xPput c) u)
    ∧ (c.len16 = 0 → c.len40 = 0 → c.flags.toNat < 8 → (s.tile.par.kind ≠ .single → c.key ≠ 0) → src.tag = true → src.typ = 1 →
        inSpace x 16 → s.sideFault ⟨src, words a 2, false⟩ 8 = none → s.sideFault ⟨src, words a 2, true⟩ 8 = none →
        (∀ fi, s.poolSide dst y 8 0xD00 8 true = some fi → fault (.xPatom c) fi)
        ∧ (s.poolSide dst y 8 0xD00 8 true = none → s.sideGuard ⟨src, words a 2, false⟩ 8 = none → s.sideGuard ⟨src, words a 2, true⟩ 8 = none →
        let op : BitVec 3 := c.flags.extractLsb' 0 3
        let word (x : Nat) : W64 := leWord (s.nearN x 8)
        let m : PoolMsg := { obj := dst.base.toNat, op := .atomic b.toNat op (word a.toNat) (if op = 7 then word (a.toNat + 8) else 0) c.key none (some (a.toNat + 8)), token := s.tile.sys.ptok, src := s.tile.phys, pc := s.cmdAddr .x rp, eng := some rp, seq := 0, launch := some s.tile.handle }
        exec (.xPatom c) s = .next (s.passed (e.updP (fun p => { p with poolCh := p.poolCh ++ [m] })) .x 2 c.semr
          (fun k => { k with performed := false, left := 1, raw := s.ringWords .x rp 2, tok := s.tile.sys.ptok }))))
    ∧ (paged → ∀ fi, s.poolSide src x (c.len16.toNat * 0x40000) 0x800 0x40000 false = some fi →
        fault (.xLeaseRd c) fi ∧ fault (.xLeaseRenew c) fi ∧ fault (.xLeaseRel c) fi ∧ (c.flags = 0 → fault (.xPref c) fi))
    ∧ (paged → ∀ fi, s.poolSide src x (c.len16.toNat * 0x40000) 0x400 0x40000 false = some fi → fault (.xLeaseWr c) fi)
    ∧ (paged → s.poolSide src x (c.len16.toNat * 0x40000) 0x800 0x40000 false = none →
        (∀ t, e.acquirePages id false s.tile.sys.ptok k pages.zipIdx = .ok t →
            exec (.xLeaseRd c) s = .next (s.passed t .x 2 c.semr (fun k => { k with got := c.len16.toNat })))
        ∧ (∀ t, s.channelBusy id = false → e.renewPages id pages = (t, none) → done (.xLeaseRenew c) t)
        ∧ (∀ t g, s.channelBusy id = false → e.renewPages id pages = (t, some g) → t.tile.eng.cmds = e.tile.eng.cmds →
            exec (.xLeaseRenew c) s = .next (((t.updT (fun y => { y with caps := s.tile.caps, sys := { y.sys with ptok := s.tile.sys.ptok } })).mapEng (fun g => { g with
              cmds := [{ k with started := false }] })).engFault .x rp (poolFault .leaseLost id (BitVec.ofNat 64 (g * 0x40000)) false)))
        ∧ (∀ t, s.poolAway id = false → e.releasePages id pages = (t, true) → done (.xLeaseRel c) t)
        ∧ (s.poolAway id = true → exec (.xLeaseRel c) s = .next (s.waitsX e 2 c.semr))
        ∧ (c.flags = 0 → done (.xPref c) (e.updP (fun p => { p with prefetch := p.prefetch ++ pages.map (fun g => (id, g)) }))))
    ∧ (paged → s.poolSide src x (c.len16.toNat * 0x40000) 0x400 0x40000 false = none →
        (∀ t, e.acquirePages id true s.tile.sys.ptok k pages.zipIdx = .ok t →
            exec (.xLeaseWr c) s = .next (s.passed t .x 2 c.semr (fun k => { k with got := c.len16.toNat })))
        ∧ (∀ t, e.acquirePages id true s.tile.sys.ptok k pages.zipIdx = .refused t →
            exec (.xLeaseWr c) s = .next (((t.updT (fun y => { y with caps := s.tile.caps, sys := { y.sys with ptok := s.tile.sys.ptok } })).mapEng (fun g => { g with
              cmds := [{ k with started := false, got := (t.tile.eng.cmd .x rp).elim 0 (·.got) }] })).engFault .x rp { code := .fenced })))

/-- R408, R412, R422, R423, R434 to R437: peer copies, collectives, circuits and x.sfence.
A party of a collective that starts CTO or later after another makes every party raise COLL_TIMEOUT; a party whose launch is saved holds the
others (R413).
Where a collective waits, what x.circ.rel counts, when a peer write is done and what reaches a package are the model's (logs 30, 32, 88 and 120). -/
def Obligations.PeerCommands : Prop :=
  ∀ (s : State) (c : XCmd), s.EngineReady c.semw c.semr c.pred →
    let e := s.begun .x
    let rp := s.tile.eng.ringX.rp
    let src := s.cap c.scap
    let dst := s.cap c.dcap
    let a := src.cursor + c.soff.signExtend 64
    let b := dst.cursor + c.doff.signExtend 64
    let n := c.len40.toNat
    let words (x : W64) (k : Nat) : List W64 := (List.range k).map (fun i => x + BitVec.ofNat 64 (8 * i))
    let done (i : Instr) (t : State) : Prop := exec i s = .next (s.passed t .x 2 c.semr)
    let fault (i : Instr) (fi : FaultInfo) : Prop := exec i s = .next (e.engFault .x rp fi)
    let stalled (t : State) : State := s.waitsX t 2 c.semr
    let failed (i : Instr) (t : State) (code : FaultCode) : Prop :=
      exec i s = .next ((t.mapEng (fun g => { g with cmds := [{ s.startedX 2 c.semr with started := false }] })).engFault .x rp { code := code })
    let sIn := inSpace (src.cursor.toNat + c.soff.toInt)
    let dIn := inSpace (dst.cursor.toNat + c.doff.toInt)
    let single := s.tile.par.kind = .single
    let copy := c.len16 = 0 ∧ c.key = 0 ∧ c.flags = 0 ∧ single ∧ 0 < n ∧ n ≤ 2 ^ 30 ∧ n % 8 = 0
    let put (u : State) (to_ : Nat) (ls : List Loc) (as : List W64) : State := u.updP (fun p => { p with
      peerCh := p.peerCh ++ (as.zip ls).map (fun x => { src := u.tile.phys, target := to_, addr := x.1, tenant := dst.tenant, bytes := u.locRead x.2 8, eng := rp }) })
    -- to a peer
    (copy → sIn n → dIn n → src.typ ≠ 6 → s.plainSide ⟨src, words a (n / 8), false⟩ = none → s.peerSide ⟨dst, words b (n / 8), true⟩ = none →
        s.sideGuard ⟨src, words a (n / 8), false⟩ 8 = none →
        (s.reach (s.peerOf dst) = .no → fault (.xRcopy c) { code := .peerUnreachable })
        ∧ (s.reach (s.peerOf dst) = .yes → ∀ t ls u ps, e.engLocates src 8 false false (words a (n / 8)) = .ok (t, ls) →
            t.peerLocates (s.peerOf dst) dst.tenant true (words b (n / 8)) = .ok (u, ps) → done (.xRcopy c) (put u (s.peerOf dst) ls (words b (n / 8)))))
    -- from a peer
    ∧ (copy → sIn n → dIn n → src.typ = 6 → s.peerSide ⟨src, words a (n / 8), false⟩ = none → s.plainSide ⟨dst, words b (n / 8), true⟩ = none →
        s.sideGuard ⟨dst, words b (n / 8), true⟩ 8 = none → s.reach (s.peerOf src) = .yes → s.peerBusy (s.peerOf src) = false →
        ∀ t ps u ls, e.peerLocates (s.peerOf src) src.tenant false (words a (n / 8)) = .ok (t, ps) → t.engLocates dst 8 true false (words b (n / 8)) = .ok (u, ls) →
          done (.xRcopy c) (u.putWords rp ls (ps.flatMap (fun pa => ((t.package (s.peerOf src)).map (fun p => p.homeN pa 8)).getD []))))
    ∧ (c.len16 = 0 → c.key = 0 → c.len40 = 0 → c.flags = 0 → single → sIn 8 → dIn 8 → src.tag = true → src.typ = 1 → s.sideFault ⟨src, [a], false⟩ 8 = none →
        s.sideGuard ⟨src, [a], false⟩ 8 = none → s.peerSide ⟨dst, [b], true⟩ = none → s.reach (s.peerOf dst) = .yes →
        ∀ t ls u ps, e.engLocates src 8 false false [a] = .ok (t, ls) → t.peerLocates (s.peerOf dst) dst.tenant true [b] = .ok (u, ps) →
          done (.xRst c) (put u (s.peerOf dst) ls [b]))
    -- collectives: a party joins, and takes its result once every party has
    ∧ (∀ x ∈ [(Instr.xCollBcast c, CollOp.bcast), (.xCollGather c, .gather), (.xCollRscat c, .rscat), (.xCollAllred c, .allred)],
        let z := s.collSizes x.2 c
        let typ : BitVec 6 := c.flags.extractLsb' 2 6
        let ps := (List.range ((c.key.extractLsb' 28 10).toNat + 1)).map (fun j => ((c.key.extractLsb' 38 10).toNat + j) % 1024)
        c.len16 = 0 → c.key.extractLsb' 0 28 = 0 → c.flags.extractLsb' 8 16 = 0 → single → s.collRank c < collN c →
        0 < n → n ≤ 2 ^ 30 →
        ([4, 9, 0xA, 0xB].contains typ.toNat = false → exec x.1 s = .next (s.engFault .x rp { code := .streamFormat })) ∧
        ([4, 9, 0xA, 0xB].contains typ.toNat = true → n % 8 = 0 →
        (z.1 = 0 ∨ (sIn z.1 ∧ s.plainSide ⟨src, words a (z.1 / 8), false⟩ = none)) → dIn z.2 → s.plainSide ⟨dst, words b (z.2 / 8), true⟩ = none →
        s.sideGuard ⟨src, words a (z.1 / 8), false⟩ 8 = none → s.sideGuard ⟨dst, words b (z.2 / 8), true⟩ 8 = none →
        (∀ p ∈ ps, s.reach p ≠ .no) → (∀ r ∈ s.pkg.optics.resvs, r.launch = s.tile.handle → r.again = false) →
        ((s.pkg.colls.find? (fun y => y.phys == s.tile.phys && y.idx == rp && y.away.isNone && !y.finished)) = none →
          ∀ t ls u ds, e.engLocates src 8 false false (words a (z.1 / 8)) = .ok (t, ls) → t.engLocates dst 8 true false (words b (z.2 / 8)) = .ok (u, ds) →
            u.pkg.time = s.pkg.time → u.tile.phys = s.tile.phys →
            exec x.1 s = .next (stalled (u.updP (fun p => { (p.bumpColl (c.key.extractLsb' 48 16).toNat) with colls := p.colls ++ [
              { group := (c.key.extractLsb' 48 16).toNat, count := p.collNumber (c.key.extractLsb' 48 16).toNat, phys := s.tile.phys, idx := rp, op := x.2.num, typ := typ, len := n, first := (c.key.extractLsb' 38 10).toNat, n := (c.key.extractLsb' 28 10).toNat + 1, src := ls.flatMap (fun l => u.locRead l 8), started := s.pkg.time, faulted := false }] }))))
        ∧ (∀ y, (s.pkg.colls.find? (fun y => y.phys == s.tile.phys && y.idx == rp && y.away.isNone && !y.finished)) = some y → y.faulted = false →
            let all := ps.filterMap (fun p => s.collOf p y.group y.count)
            let cto := s.tile.sys.cto.toNat
            let fails : Prop := failed x.1 ((e.updColl ps y.group y.count (fun w => { w with faulted := true })).updP (fun p => { p with colls := p.colls.filter (fun w => !(w.group == y.group && w.count == y.count)) })) .collTimeout
            ((∃ w ∈ all, w.op ≠ y.op ∨ w.typ ≠ y.typ ∨ w.len ≠ y.len ∨ w.faulted = true ∨ ∃ v ∈ y :: all, v.started + cto ≤ w.started) → fails)
            ∧ (all.length < ps.length → y.started + cto ≤ s.pkg.time → fails)
            ∧ (all.length = ps.length → (∀ w ∈ all, w.op = y.op ∧ w.typ = y.typ ∧ w.len = y.len ∧ w.faulted = false) →
                (∀ w ∈ all, ∀ v ∈ y :: all, w.started < v.started + cto) →
                ((∃ w ∈ all, w.away ≠ none) ∨ (∃ p ∈ ps, s.reach p ≠ .yes) → exec x.1 s = .next (stalled e))
                ∧ ((∀ w ∈ all, w.away = none) → (∀ p ∈ ps, s.reach p = .yes) →
                    ∀ t ls, e.engLocates dst 8 true false (words b (z.2 / 8)) = .ok (t, ls) →
                      done x.1 (((t.putWords rp ls (collResult x.2 ((etyOfType y.typ.toNat).getD (.int 32 true)) y.len (s.collRank c) (all.map (·.src)))).updColl [s.pkg.num] y.group y.count (fun w => { w with finished := true })).clearColl ps y.group y.count))))))
    -- circuits
    ∧ (c.scap = 0 → c.soff = 0 → c.dcap = 0 → c.doff = 0 → c.len40 = 0 → c.key.toNat < 2 ^ 11 → c.flags.toNat < 2 → single → 0 < c.len16.toNat → c.len16.toNat ≤ 8 →
        let id := s.tile.eng.ts * 256 + s.tile.phys
        let rs := s.pkg.optics.resvs
        let with_ (rs : List Resv) : State := e.updP (fun p => { p with optics := { p.optics with resvs := rs } })
        (rs.find? (fun r => r.id == id) = none → exec (.xCircRes c) s = .next (stalled (with_ (rs ++ [{ id := id, launch := s.tile.handle, port := (s.pkg.optics.portTo c.key.toNat).getD 32, dest := c.key.toNat, slots := c.len16.toNat, granted := false, since := s.pkg.time, cto := s.tile.sys.cto.toNat }]))))
        ∧ (∀ r, rs.find? (fun r => r.id == id) = some r → r.granted = true → done (.xCircRes c) e)
        ∧ (∀ r, rs.find? (fun r => r.id == id) = some r → r.granted = false →
            (s.pkg.time < r.since + r.cto → exec (.xCircRes c) s = .next (stalled e))
            ∧ (r.since + r.cto ≤ s.pkg.time → failed (.xCircRes c) (with_ (rs.filter (fun r => !(r.id == id)))) .collTimeout))
        ∧ (let mine := (rs.filter (fun r => r.granted && r.launch == s.tile.handle && r.dest == c.key.toNat)).take c.len16.toNat
           done (.xCircRel c) (with_ (rs.filter (fun r => !mine.contains r)))))
    -- x.sfence
    ∧ (c.scap = 0 → c.soff = 0 → c.dcap = 0 → c.doff = 0 → c.len16 = 0 → c.key = 0 → c.len40 = 0 → c.flags = 0 →
        ((∀ m ∈ s.pkg.peerCh, m.src ≠ s.tile.phys) → (∀ m ∈ s.pkg.poolCh, m.src = s.tile.phys → m.eng = none) → s.tile.disp.fenced = [] → done (.xSfence c) e)
        ∧ ((∃ m ∈ s.pkg.peerCh, m.src = s.tile.phys ∧ s.peerLost m = true) →
            failed (.xSfence c) (e.updP (fun p => { p with peerCh := p.peerCh.filter (fun m => !(m.src == s.tile.phys && s.peerLost m)) })) .peerUnreachable)
        ∧ ((∀ m ∈ s.pkg.peerCh, m.src = s.tile.phys → s.peerLost m = false) →
            ((∃ m ∈ s.pkg.peerCh, m.src = s.tile.phys) ∨ (∃ m ∈ s.pkg.poolCh, m.src = s.tile.phys ∧ m.eng.isSome) ∨ s.tile.disp.fenced ≠ []) →
            exec (.xSfence c) s = .next (stalled e)))

end

/-! ### Events of the engines -/

section
open Sys2Proof Sys2Proof.Machine

/-- R31, R52 and R214: a word whose opcode no map lists is ILLEGAL_OPCODE at its own address, and a command whose opcode
no map lists stops its stream at RP, which does not move, with one fault on the list. R335: a stopped stream that a 1 in its
ECTL bit restarts runs from its stop position, its undelivered faults gone. R216, R217 and R209: a command whose work is
done completes: SEMR rises, S counts it, the completion word takes S. R171 and R176: of a command with writes in its path queue one aligned 8-byte word
performs at a time, with the token of its start, and the command has performed once none is left. R227: an idle sub-array's power is gated.
That an event whose condition fails changes nothing is the model's choice (log 39). -/
def Obligations.EngineEvents : Prop :=
  (∀ (s : State) (w : W64), exec (.unassignedControlOpcode w) s = .next (s.takeFault { code := .illegalOpcode } s.tile.core.pc))
  ∧ (∀ (s : State) (e : Eng) (w : BitVec 128), s.tile.disp.run = .running → s.tile.eng.stop e = none →
      let r := s.tile.eng.ring e
      let first : Nat := r.base.toNat + (r.rp.toNat % 2 ^ r.q.toNat) * (if e = .x then 16 else 8)
      ∃ t v, exec (.unassignedEngineOpcode e w) s = .next t ∧ t.tile.eng.stop e = some r.rp ∧ t.tile.eng.ring e = r
        ∧ t.tile.eng.faults = s.tile.eng.faults ++ [⟨e, r.rp, BitVec.ofNat 64 first, .illegalOpcode, v⟩]
        ∧ (∀ d, d ≠ e → t.tile.eng.stop d = s.tile.eng.stop d ∧ t.tile.eng.ring d = s.tile.eng.ring d)
        ∧ t.tile.eng.cmds = s.tile.eng.cmds ∧ t.tile.core = s.tile.core ∧ t.tile.sys = s.tile.sys ∧ t.tile.near = s.tile.near ∧ t.pkg = s.pkg)
  ∧ (∀ (s : State), let e := s.arg.eng
      (s.tile.eng.stop e = none → exec .engineStreamRestart s = .next s)
      ∧ (s.tile.eng.stop e ≠ none → ∃ t, exec .engineStreamRestart s = .next t ∧ t.tile.eng.stop e = none
          ∧ t.tile.eng.faults = s.tile.eng.faults.filter (fun f => f.eng != e)
          ∧ (∀ d, t.tile.eng.ring d = s.tile.eng.ring d) ∧ (∀ d, d ≠ e → t.tile.eng.stop d = s.tile.eng.stop d)
          ∧ (e ≠ .x → t.tile.eng.cmds = s.tile.eng.cmds)
          ∧ t.tile.core = s.tile.core ∧ t.tile.sys = s.tile.sys ∧ t.tile.near = s.tile.near ∧ t.pkg = s.pkg))
  ∧ (∀ (s : State) (c : Cmd), s.tile.MemForm → s.tile.eng.cmds = [c] → s.arg.eng = c.eng → s.arg.idx = c.idx → c.performed = true → c.done = false →
      c.move = none → c.writes = [] → c.rsem = none → c.rbufs = [] → c.prod = [] → c.cons = [] → c.sds = [] →
      let named : Bool := c.semr != 0x3F
      let n : Fin 32 := ⟨c.semr.toNat % 32, Nat.mod_lt _ (by decide)⟩
      let S := s.tile.eng.seqOf c.eng + 1
      (named = true → s.tile.eng.sems[n] = 0xFFFF → exec .engineCommandComplete s = .next s)
      ∧ ((named = true → s.tile.eng.sems[n] ≠ 0xFFFF ∧ c.semr.toNat < 32) → ∃ t, exec .engineCommandComplete s = .next t
          ∧ t.tile.eng.cmds = [] ∧ t.tile.eng.seqOf c.eng = S ∧ (∀ d, d ≠ c.eng → t.tile.eng.seqOf d = s.tile.eng.seqOf d)
          ∧ (∀ m : Fin 32, t.tile.eng.sems[m] = if named = true ∧ m = n then s.tile.eng.sems[m] + 1 else s.tile.eng.sems[m])
          ∧ (let at_ : Nat := 0x1EFFC0 + (match c.eng with | .v => 0 | .m => 4 | .x => 8)
             t.tile.near.readN at_ 4 = Spec.bytes 4 (S.zeroExtend 64) ∧ ∀ x, (x < at_ ∨ at_ + 4 ≤ x) → t.tile.near.read x = s.tile.near.read x)
          ∧ (∀ d, t.tile.eng.ring d = s.tile.eng.ring d) ∧ t.tile.core = s.tile.core ∧ t.tile.caps = s.tile.caps ∧ t.tile.bufs = s.tile.bufs ∧ t.pkg = s.pkg))
  ∧ (∀ (s : State) (c : Cmd), s.tile.eng.cmds = [c] → s.arg.eng = c.eng → s.arg.idx = c.idx → c.move = none → c.started = true → s.tile.disp.run = .running →
      ∀ w, c.writes[s.arg.count % c.writes.length]? = some w →
      let here := c.writes.filter (fun x => x.1.sameWord w.1)
      let rest := c.writes.filter (fun x => !x.1.sameWord w.1)
      let t := here.foldl (fun u x => u.locWrite x.1 x.2) (s.mapSys (fun y => { y with ptok := c.tok }))
      exec .engineCommandComplete s = .next ((t.mapSys (fun y => { y with ptok := s.tile.sys.ptok })).updCmd c.eng c.idx (fun d =>
        if rest = [] then { d with writes := [], performed := d.started || d.performed, raw := if d.started then [] else d.raw } else { d with writes := rest })))
  ∧ (∀ (s : State), s.arg.ix < 4 → s.tile.sys.midle ≠ 0 → ∃ t, exec .subarrayPowerGate s = .next t
      ∧ (∀ i, t.tile.eng.gated.getLsbD i = (s.tile.eng.gated.getLsbD i || i == s.arg.ix))
      ∧ t.tile.core = s.tile.core ∧ t.tile.near = s.tile.near ∧ t.tile.sys = s.tile.sys ∧ t.pkg = s.pkg)
  ∧ ∀ (s : State), s.tile.sys.midle = 0 → exec .subarrayPowerGate s = .next s

end

/-! ### The ordering machine -/

section
open Sys2Proof Sys2Proof.Machine

/-- R164 to R167, R169, R172, R446 and R448: the oldest load reads, the oldest store performs, and the oldest entry of a channel takes
effect at its slice. A load with an earlier store of its own to all its bytes takes them from it, one that a store covers in part
waits; a load of package memory reads the coherent value; a store of it leaves this core as the only holder of the line, in M,
with the bytes the coherent value; one through an uncached mapping writes behind the home and changes no home value of a line
that L2 holds; accesses of the cluster memory
and of DIRECT objects go into their channels, in order. A store waits for every earlier load. A tile's access of a register page is
untrusted: a read of a shared page is performed, a write is dropped, and a write to a session's page leaves a record.
That a load covered in part waits is the model's reading (log 53). A cached load is stated where its set and its L2 slice have room. -/
def Obligations.LoadsAndStoresPerform : Prop :=
  (∀ (s : State) (e : QEntry) (q : List QEntry) (l : Loc) (n : Nat) (sg : Bool) (d : Reg), s.tile.ord.lq = e :: q → e.op = .load l n sg d → n ∈ [1, 2, 4, 8] → s.tile.task.held = [] →
      let popped := s.mapOrd (fun o => { o with lq := q })
      let reads (bs : List Byte) : Prop := ∃ t, exec .loadRead s = .next t ∧ t.tile.ord.lq = q ∧ t.tile.ord.sq = s.tile.ord.sq
        ∧ t.tile.core = (s.setReg d (Spec.loaded bs sg)).tile.core ∧ t.tile.caps = s.tile.caps ∧ t.tile.near = s.tile.near
        ∧ t.pkg.mem = s.pkg.mem ∧ t.pkg.l2 = s.pkg.l2 ∧ t.pkg.poolCh = s.pkg.poolCh ∧ t.pool = s.pool
      (s.forwarded l n e.seq = .part → exec .loadRead s = .next s)
      ∧ (∀ bs tg, s.forwarded l n e.seq = .all bs tg → reads bs)
      ∧ (s.forwarded l n e.seq = .none →
          (∀ pa, l = .pkgMem pa true → s.pkg.host = [] → ((s.tile.ord.line (pa / 64)).isSome ∨ (s.tile.ord.set (pa / 64)).length < 8) →
            (s.pkg.l2lines.contains (pa / 64) ∨ s.pkg.l2Victim (pa / 64) = none) → s.ownerKept (pa / 64) = [] → reads (s.coherentN pa n))
          ∧ (∀ pa, l = .pkgMem pa false → reads (s.pkg.behindN pa n))
          ∧ (∀ off, l = .regs off → (n ≠ 8 ∨ off % 8 ≠ 0) → reads (List.replicate n 0))
          ∧ (l = .regs 0x410048 → n = 8 → reads (Spec.bytes 8 (s.pkg.regs.ttlen.zeroExtend 64)))
          ∧ (∀ tile off, l = .cluster tile off → exec .loadRead s = .next (popped.updP (fun p => { p with chans := p.chans ++ [⟨s.tile.phys, tile / 16, tile, e⟩] })))
          ∧ (∀ obj off, l = .direct obj off → exec .loadRead s = .next (popped.updP (fun p => { p with
              poolCh := p.poolCh ++ [{ obj := obj, op := .load8 off d, token := 0, src := s.tile.phys, pc := e.pc, eng := none, seq := e.seq, launch := some s.tile.handle }] })))))
  ∧ (∀ (s : State) (e : QEntry) (q : List QEntry), s.tile.ord.sq = e :: q →
      let popped := s.mapOrd (fun o => { o with sq := q })
      (s.loadsOpen e.seq = true → exec .storePerform s = .next s)
      ∧ (s.loadsOpen e.seq = false →
          (∀ pa bs tok, e.op = .store (.pkgMem pa true) bs none tok → (∀ i < bs.length, (pa + i) / 64 = pa / 64) → s.pkg.host = [] →
            ∃ t, exec .storePerform s = .next t ∧ t.tile.ord.sq = q ∧ t.coherentN pa bs.length = bs
              ∧ (∃ l, t.tile.ord.line (pa / 64) = some l ∧ l.st = .m ∧ l.tok = tok) ∧ (∀ u ∈ t.pkg.tiles, u.ord.line (pa / 64) = none)
              ∧ t.tile.core = s.tile.core ∧ t.tile.caps = s.tile.caps ∧ t.tile.near = s.tile.near
              ∧ (((s.tile.ord.line (pa / 64)).isSome ∨ (s.tile.ord.set (pa / 64)).length < 8) →
                  (s.pkg.l2lines.contains (pa / 64) ∨ s.pkg.l2Victim (pa / 64) = none) →
                  t.pkg.l2 = (if meetsRanges s.pkg.scrub (pa / 64 * 64) (pa / 64 * 64 + 64) then s.pkg.settle (pa / 64) else s.pkg).l2))
          ∧ (∀ pa bs tok, e.op = .store (.pkgMem pa false) bs none tok → (∀ i < bs.length, (pa + i) / 64 = pa / 64) → Memory.wf s.pkg.mem = true →
            ∃ t, exec .storePerform s = .next t ∧ t.tile.ord.sq = q ∧ t.pkg.behindN pa bs.length = bs
              ∧ (∀ x, x / 64 ≠ pa / 64 → Memory.read t.pkg.mem x = Memory.read s.pkg.mem x)
              ∧ (s.pkg.MemForm → s.pkg.l2lines.contains (pa / 64) = true → meetsRanges s.pkg.scrub (pa / 64 * 64) (pa / 64 * 64 + 64) = false →
                  ∀ x, t.pkg.home x = s.pkg.home x)
              ∧ t.tile.core = s.tile.core ∧ t.tile.caps = s.tile.caps ∧ t.tile.near = s.tile.near)
          ∧ (∀ off bs tg tok, e.op = .store (.regs off) bs tg tok →
              ((off / 0x10000 = 0x40 ∨ off / 0x10000 = 0x41 ∨ bs.length ≠ 8 ∨ off % 8 ≠ 0) → exec .storePerform s = .next popped)
              ∧ (∀ x, s.pkg.sessions = [x] → off / 0x10000 = 0x200 + x.num → x.num < 256 → off % 8 = 0 → bs.length = 8 →
                  exec .storePerform s = .next (popped.updP (fun p => { p with sessions := [x.append s.pkg.time 1 2 off] }))))
          ∧ (∀ tile off bs tg tok, e.op = .store (.cluster tile off) bs tg tok →
              exec .storePerform s = .next (popped.updP (fun p => { p with chans := p.chans ++ [⟨s.tile.phys, tile / 16, tile, e⟩] })))
          ∧ (∀ obj off bs tg tok, e.op = .store (.direct obj off) bs tg tok → exec .storePerform s = .next (popped.updP (fun p => { p with
              poolCh := p.poolCh ++ [{ obj := obj, op := .store8 off (BitVec.ofNat 64 (Spec.number bs)), token := tok, src := s.tile.phys, pc := e.pc, eng := none, seq := e.seq, launch := some s.tile.handle }] })))
          ∧ (∀ n : BitVec 5, e.op = .sem n →
              (s.tile.eng.sems[n.toFin] = 0xFFFF → exec .storePerform s = .next s)
              ∧ (s.tile.eng.sems[n.toFin] ≠ 0xFFFF → ∃ t, exec .storePerform s = .next t ∧ t.tile.ord.sq = q
                  ∧ (∀ m : Fin 32, t.tile.eng.sems[m] = if m = n.toFin then s.tile.eng.sems[m] + 1 else s.tile.eng.sems[m])
                  ∧ t.tile.core = s.tile.core ∧ t.tile.near = s.tile.near ∧ t.pkg = s.pkg))))
  ∧ (∀ (s : State) (c : ChanEntry) (r : List ChanEntry) (tile off : Nat) (u : Tile), s.pkg.chans = c :: r → c.src = s.tile.phys → c.slice = s.arg.slice →
      s.tileAt tile = some u → u.MemForm →
      (∀ bs tg tok, c.e.op = .store (.cluster tile off) bs tg tok → ∃ t, exec .portArrival s = .next t ∧ t.pkg.chans = r
        ∧ t.sliceN tile off bs.length = bs ∧ (∀ x k, (x + k ≤ off ∨ off + bs.length ≤ x) → t.sliceN tile x k = s.sliceN tile x k)
        ∧ t.tile.core = s.tile.core ∧ t.tile.caps = s.tile.caps ∧ t.pkg.mem = s.pkg.mem ∧ t.pkg.l2 = s.pkg.l2)
      ∧ (∀ n sg d, c.e.op = .load (.cluster tile off) n sg d → n ∈ [1, 2, 4, 8] → s.tile.task.held = [] → exec .portArrival s =
          .next ((s.updP (fun p => { p with chans := r })).setReg d (Spec.loaded (s.sliceN tile off n) sg))))

/-- R173, R174, R181 and R236: a fence at the head of both queues and a release at the head of SQ complete once the
accesses before them have performed; the release first writes the lines of its record, those that the core holds in M or O, to
their homes, one in each step, and completes with the last; a line of it that another agent has taken over since reaches its home
too. An xfence waits for the commands below it that have an access in the path queue which it names. R140 and
R170: an evicted line's dirty bytes are at its home. R172: a written-back L2 line gives the memory behind it its bytes, and no home
value changes but of a byte that an uncached store had changed behind it. R180 and R194: a monitor wakes. R143: a scrubbed line reads as it did,
and its mark is gone. That an event whose condition fails changes nothing is the model's choice (log 39). -/
def Obligations.MarkersCachesWaits : Prop :=
  (∀ (s : State) (e : QEntry) (sc : BitVec 2), sc ≠ 3 → (∀ c ∈ s.pkg.chans, c.src ≠ s.tile.phys) → (∀ m ∈ s.pkg.poolCh, m.src ≠ s.tile.phys) →
      (e.op = .marker .fence sc → s.tile.ord.lq = [e] → s.tile.ord.sq = [e] →
        exec .markerComplete s = .next (s.mapOrd (fun o => { o with lq := [], sq := [], relRec := none })))
      ∧ (e.op = .marker .acq sc → s.tile.ord.lq = [e] → s.tile.ord.sq = [] → exec .markerComplete s = .next (s.mapOrd (fun o => { o with lq := [] })))
      ∧ (e.op = .marker .rel sc → s.tile.ord.lq = [e] → s.tile.ord.sq = [e] →
          let lines := s.tile.ord.relRec.getD ((s.tile.ord.l1.filter (fun l => l.st = .m ∨ l.st = .o)).map (·.line))
          ∃ t, exec .markerComplete s = .next t
          ∧ (lines.length ≤ 1 → t.tile.ord.lq = [] ∧ t.tile.ord.sq = [] ∧ t.tile.ord.relRec = none)
          ∧ (1 < lines.length → t.tile.ord.lq = [e] ∧ t.tile.ord.sq = [e] ∧ t.tile.ord.relRec = some lines.tail)
          ∧ (∀ k l, lines.head? = some k → s.tile.ord.line k = some l →
              (∀ x, t.tile.ord.line k = some x → x.st ≠ .m ∧ x.st ≠ .o)
              ∧ ∀ pa b, (l.st = .m ∨ l.st = .o) → l.dirty = [(pa, b)] → pa / 64 = l.line → pa < s.pkg.bound →
                  (∀ u ∈ s.pkg.tiles, ∀ y, u.ord.line k = some y → y.st ≠ .m ∧ y.st ≠ .o) → (∀ y ∈ s.pkg.host, y.line = k → y.st ≠ .m ∧ y.st ≠ .o) → t.pkg.home pa = b)
          ∧ (∀ k src l pa b, lines.head? = some k → s.tile.ord.line k = none → s.dirtyOf k = some (src, l) → l.line = k → l.dirty = [(pa, b)] → pa / 64 = k → pa < s.pkg.bound → t.pkg.home pa = b)
          ∧ (∀ k, lines.head? ≠ some k → t.tile.ord.line k = s.tile.ord.line k)
          ∧ t.tile.core = s.tile.core ∧ t.tile.near = s.tile.near ∧ t.tile.caps = s.tile.caps)
      ∧ (∀ eg ts, e.op = .xmark eg ts → s.tile.ord.lq = [e] → s.tile.ord.sq = [e] →
          ((∀ c ∈ s.tile.eng.cmds, c.eng = eg → c.ts < ts → c.performed = true) → exec .markerComplete s = .next (s.mapOrd (fun o => { o with lq := [], sq := [], relRec := none })))
          ∧ ((∃ c ∈ s.tile.eng.cmds, c.eng = eg ∧ c.path = true ∧ c.whole = true ∧ c.ts < ts ∧ c.predTrue = true ∧ c.performed = false) → exec .markerComplete s = .next s)))
  ∧ (∀ (s : State) (l : L1Line), s.tile.ord.line s.arg.line = some l → ∃ t, exec .lineEviction s = .next t ∧ t.tile.ord.line s.arg.line = none
      ∧ (∀ k, k ≠ s.arg.line → t.tile.ord.line k = s.tile.ord.line k)
      ∧ (∀ pa b, l.dirty = [(pa, b)] → pa / 64 = l.line → pa < s.pkg.bound → t.pkg.home pa = b)
      ∧ (l.dirty = [] → t.pkg = s.pkg)
      ∧ (∀ m, s.tile.ord.mon = some m → t.tile.ord.mon = some (if m.loc.onLine s.arg.line then { m with woken := true } else m))
      ∧ t.tile.core = s.tile.core ∧ t.tile.near = s.tile.near ∧ t.tile.caps = s.tile.caps)
  ∧ (∀ (s : State), s.tile.ord.line s.arg.line = none → exec .lineEviction s = .next s)
  ∧ (∀ (s : State), s.pkg.MemForm → ∃ t, exec .l2WriteBack s = .next t
      ∧ (∀ pa, (pa / 64 ≠ s.arg.line ∨ Cells.get? s.pkg.l2kept pa = none) → t.pkg.home pa = s.pkg.home pa)
      ∧ (∀ pa, pa / 64 = s.arg.line → t.pkg.behindN pa 1 = [t.pkg.home pa]) ∧ t.tile = s.tile)
  ∧ (∀ (s : State), exec .mwaitWake s = .next (s.mapOrd (fun o => { o with mon := o.mon.map (fun m => { m with woken := true }) })))
  ∧ (∀ (s : State), exec .mwaitTimeout s = .next (match s.tile.ord.mon with
      | none => s
      | some m => if s.tile.sys.mwto ≠ 0 ∧ m.since + s.tile.sys.mwto.toNat ≤ s.pkg.time then s.mapOrd (fun o => { o with mon := some { m with woken := true } }) else s))
  ∧ (∀ (s : State), s.MemForm →
      (s.arg.near = true → ∃ t, exec .backgroundScrub s = .next t ∧ (∀ x, t.tile.near.read x = s.tile.near.read x)
        ∧ (∀ x, x / 64 = s.arg.line → inRanges t.tile.near.scrub x = false) ∧ t.tile.core = s.tile.core ∧ t.tile.caps = s.tile.caps ∧ t.pkg = s.pkg)
      ∧ (s.arg.near = false → ∃ t, exec .backgroundScrub s = .next t ∧ (∀ x, x / 64 = s.arg.line → inRanges t.pkg.scrub x = false)
        ∧ (∀ x, x / 64 ≠ s.arg.line → t.pkg.home x = s.pkg.home x) ∧ t.tile = s.tile))

end

/-! ### Launches and tasks -/

section
open Sys2Proof Sys2Proof.Machine

/-- R110 to R113: a bind record enters the slot of its tile with EPRIO = PRIO and AGE 0, a full slot drops it and sets
FULLERR; R111: an AGEINT that has passed ages a bind that is not time-triggered and raises its EPRIO up to AGECAP; R112: a free
tile takes the bind with the highest EPRIO, of equal ones the lowest ORDER. R90, R91: a record that fails a check is rejected with
the offset of the first failing field as CODE and STATUS 2, one whose RESULT is not writable with CODE 0x60. R2: a PLM840-K240 takes at most 15 tiles of a cluster. R105: without a
placement a launch waits until tiles free. R93, R94 and R467: the end of a launch by completion, by a fault and by a cancel,
whose STATUS and CODE its result record takes, and whose tiles are free; R117: a cancel of an ESTIMATING launch waits for its next
merge, and has no effect after a stop; a cancel that was accepted goes on. R340: the watchdog. R353: a host's write of measured bytes has
ended the launch, which no other event ends then.
What clears FULLERR, that a disabled tile takes no bind up, and the operands of a launch are the model's (logs 44, 119, 5 and 57). -/
def Obligations.LaunchEvents : Prop :=
  let freed (l : Launch) (status code : Nat) (t : State) : Prop :=
    (∃ x, t.pkg.launch l.handle = some x ∧ x.st = .ended status ∧ x.code = code) ∧ (∀ u ∈ t.allTiles, ∀ b, u.disp.bind = some b → b.launch.toNat ≠ l.handle)
      ∧ ∀ u ∈ t.allTiles, ∀ b ∈ u.disp.slot, b.launch.toNat ≠ l.handle
  (∀ (s : State), s.arg.val.getLsbD 63 = true → s.pkg.regs.sppub = s.pkg.regs.spdone →
      let v := s.arg.val
      (s.tile.disp.slot.length < 4 → ∃ t b, exec .bindWrite s = .next t ∧ t.tile.disp.slot = s.tile.disp.slot ++ [b] ∧ t.pkg.stamp = s.pkg.stamp + 1
        ∧ b.prio = v.extractLsb' 59 3 ∧ (∀ cap, b.eprio cap = b.prio.toNat) ∧ b.since = s.pkg.time ∧ b.age = 0 ∧ b.launch = v.extractLsb' 40 16 ∧ b.ltile = v.extractLsb' 36 4 ∧ b.lclus = v.extractLsb' 32 4
        ∧ b.stage = v.extractLsb' 28 4 ∧ b.order = s.pkg.stamp ∧ b.tt = false ∧ t.tile.disp.fullerr = s.tile.disp.fullerr ∧ t.tile.core = s.tile.core ∧ t.pkg.mem = s.pkg.mem)
      ∧ (4 ≤ s.tile.disp.slot.length → exec .bindWrite s = .next (s.mapDisp (fun d => { d with fullerr := true }))))
  ∧ (∀ (s : State), s.arg.val.getLsbD 63 = false → exec .bindWrite s = .next (s.mapDisp (fun d => { d with fullerr := false })))
  ∧ (∀ (s : State) (b : Bind), s.tile.disp.slot[s.arg.ix]? = some b →
      let n := 1000 * s.pkg.regs.ageint
      let cap := s.pkg.regs.agecap
      (b.tt = false → n ≠ 0 → b.since + n ≤ s.pkg.time → ∃ t x, exec .bindAgeTick s = .next t ∧ t.tile.disp.slot[s.arg.ix]? = some x
        ∧ x = { b with age := BitVec.ofNat 4 (min 15 (b.age.toNat + 1)), since := b.since + n }
        ∧ x.eprio cap = min (b.prio.toNat + min 15 (b.age.toNat + 1)) (max b.prio.toNat cap)
        ∧ (∀ i, i ≠ s.arg.ix → t.tile.disp.slot[i]? = s.tile.disp.slot[i]?) ∧ t.tile.core = s.tile.core ∧ t.pkg = s.pkg)
      ∧ ((b.tt = true ∨ n = 0 ∨ s.pkg.time < b.since + n) → exec .bindAgeTick s = .next s))
  ∧ (∀ (s : State) (a b : Bind) (l : Launch), s.tile.disp.slot = [a, b] → a.tt = b.tt → s.tile.disp.run = .free → s.tileQuiet s.tile = true → s.pkg.off s.tile.phys = false →
      s.pkg.launch b.launch.toNat = some l → l.startable = true → l.rc.kind ≠ .single →
      (a.eprio s.pkg.regs.agecap < b.eprio s.pkg.regs.agecap ∨ (a.eprio s.pkg.regs.agecap = b.eprio s.pkg.regs.agecap ∧ b.order.toNat < a.order.toNat)) →
      ∃ t, exec .bindDispatch s = .next t ∧ t.tile.disp.bind = some b ∧ t.tile.disp.slot = [a])
  ∧ (∀ (s : State), s.pkg.off s.tile.phys = true → exec .bindDispatch s = .next s)
  ∧ (∀ (s : State) (b : Bind) (l : Launch), s.tile.disp.slot = [b] → s.tile.disp.run = .free → s.tileQuiet s.tile = true → s.pkg.off s.tile.phys = false →
      s.pkg.launch b.launch.toNat = some l → l.startable = true →
      (l.rc.kind ≠ .single → ∃ t, exec .bindDispatch s = .next t ∧ t.tile.disp.run = .between ∧ t.tile.disp.bind = some b ∧ t.tile.disp.slot = []
        ∧ (∃ x, t.pkg.launch b.launch.toNat = some x ∧ x.st = .running) ∧ t.tile.par.ntile = BitVec.ofNat 64 l.rc.ntile ∧ t.tile.par.kind = l.rc.kind)
      ∧ (l.rc.kind = .single → l.st = .queued → l.place = [(0, s.tile.phys)] → l.handle = b.launch.toNat → l.img.data = [] → ∃ t, exec .bindDispatch s = .next t
          ∧ t.tile.disp.run = .running ∧ t.tile.disp.bind = some b ∧ t.tile.core.pc = l.rc.entry ∧ t.reg 1 = l.rc.args ∧ t.reg 2 = 0 ∧ (∀ r : Reg, 3 ≤ r.toNat → t.reg r = 0)
          ∧ t.cap 1 = l.rc.root ∧ t.tile.sys.kvec = l.kvec ∧ t.tile.sys.ptb = l.ptb ∧ t.tile.core.level = .u))
  ∧ (∀ (s : State), s.pkg.inUse s.arg.handle = false →
      let l := { s.launchOf s.arg.handle s.arg.recPA with mask := 0xFFFF, tt := false }
      let u := s.touchLaunch l
      let checks := u.recChecks l (u.acornPkg.homeN s.arg.recPA 256)
      (u.pkg.resultOk l = false → ∃ t x, exec .launchLoad s = .next t ∧ t.pkg.launch s.arg.handle = some x ∧ x.st = .ended 2 ∧ x.code = 0x60)
      ∧ (∀ off b, u.pkg.resultOk l = true → checks.find? (·.2) = some (off, b) → ∃ t x, exec .launchLoad s = .next t ∧ t.pkg.launch s.arg.handle = some x ∧ x.st = .ended 2 ∧ x.code = off)
      ∧ (∀ corner, u.pkg.fused = (State.resetK240 corner).pkg.fused → u.pkg.disabled = [] → 15 < l.rc.ntile → u.pkg.resultOk l = true →
          ∃ t x, exec .launchLoad s = .next t ∧ t.pkg.launch s.arg.handle = some x ∧ x.st = .ended 2 ∧ x.code ≤ 6)
      ∧ (u.pkg.resultOk l = true → checks.find? (·.2) = none → l.rc.kind ≠ .tasked →
          (∀ pl, u.choosePlace l.rc 0xFFFF = some pl → ∃ t x, exec .launchLoad s = .next t ∧ t.pkg.launch s.arg.handle = some x ∧ x.st = .queued ∧ x.place = pl ∧ x.rc = l.rc)
          ∧ (u.choosePlace l.rc 0xFFFF = none → ∃ t x, exec .launchLoad s = .next t ∧ t.pkg.launch s.arg.handle = some x ∧ x.st = .waiting ∧ x.rc = l.rc)))
  ∧ (∀ (s : State) (l : Launch), s.pkg.launch s.arg.handle = some l →
      (s.pkg.inUse s.arg.handle = true → l.st ≠ .waiting → exec .launchLoad s = .next s)
      ∧ (∀ pl, l.st = .waiting → l.tt = false → s.choosePlace l.rc l.mask = some pl →
          ∃ t x, exec .launchLoad s = .next t ∧ t.pkg.launch s.arg.handle = some x ∧ x.st = .queued ∧ x.place = pl ∧ x.rc = l.rc)
      ∧ (l.st = .waiting → s.choosePlace l.rc l.mask = none → ∃ t x, exec .launchLoad s = .next t ∧ t.pkg.launch s.arg.handle = some x ∧ x.st = .waiting ∧ t.tile = s.tile))
  ∧ (∀ (s : State) (l : Launch), s.pkg.launch s.arg.handle = some l → s.pkg.launches = [l] → l.place = [(0, s.tile.phys)] → (s.tile.disp.bind.any (fun b => b.launch.toNat == l.handle)) = true →
      s.pkg.tiles = [] → s.tile.disp.fenced = [] → s.tile.eng.cmds = [] → s.tile.ord.lq = [] → s.tile.ord.sq = [] → s.pkg.chans = [] → s.pkg.poolCh = [] → s.pkg.peerCh = [] →
      (l.hostFault = true → ∃ t, exec .launchFaultStop s = .next t ∧ ((s.tile.disp.fault = none ∨ s.tile.disp.run ≠ .faulted) → freed l 1 0x38 t))
      ∧ (l.hostFault = true → ∀ i ∈ [Instr.launchComplete, .launchCancel, .watchdog], exec i s = .next s) ∧
      (l.hostFault = false →
      (s.tile.disp.run = .ended → l.st = .running → l.rc.kind = .single → s.tile.eng.quiescent = true → l.rejected = false → ∃ t, exec .launchComplete s = .next t ∧ freed l 0 0 t)
      ∧ (∀ f, s.tile.disp.run = .faulted → s.tile.disp.fault = some f → ∃ t, exec .launchFaultStop s = .next t ∧ freed l 1 f.code.num t
          ∧ ∃ x, t.pkg.launch l.handle = some x ∧ x.fwhere = 0 ∧ x.fepc = f.epc)
      ∧ (l.st = .running → l.rc.kind = .single → l.rejected = false → (s.arg.req = .acornF ∨ s.arg.req = .acornK ∨ s.arg.req = .ide l.session) →
          ∃ t, exec .launchCancel s = .next t ∧ freed l 3 0 t)
      ∧ ((l.st = .waiting ∨ l.st = .queued) → l.rc.kind ≠ .estimating → mayCancel s.arg.req l = true → ∃ t, exec .launchCancel s = .next t ∧ freed l 3 0 t)
      ∧ (l.st = .saved → (l.rc.kind = .estimating → l.almond.stop = 0) → l.rejected = false → mayCancel s.arg.req l = true →
          ∃ t, exec .launchCancel s = .next t ∧ freed l 3 0 t)
      ∧ (l.st = .running → s.tile.sys.dbgctl.getLsbD 1 = false → max l.started s.tile.disp.lastDone + s.tile.sys.wdlim.toNat ≤ s.pkg.time →
          ∃ t, exec .watchdog s = .next t ∧ freed l 1 0x50 t)
      ∧ (l.st = .running → s.pkg.time < max l.started s.tile.disp.lastDone + s.tile.sys.wdlim.toNat → exec .watchdog s = .next s)))
  ∧ (∀ (s : State) (l : Launch), s.pkg.launch s.arg.handle = some l → l.hostFault = false →
      (mayCancel s.arg.req l = false → l.cancelling = false → exec .launchCancel s = .next s)
      ∧ (mayCancel s.arg.req l = true → l.rc.kind = .estimating →
          (l.st = .saved → l.almond.stop ≠ 0 → l.cancelled = false → exec .launchCancel s = .next s)
          ∧ (l.st = .running → l.almond.stop ≠ 0 → exec .launchCancel s = .next s)
          ∧ ((l.st = .waiting ∨ l.st = .queued ∨ (l.st = .running ∧ l.almond.stop = 0)) → ∃ t x, exec .launchCancel s = .next t ∧ t.pkg.launch l.handle = some x
              ∧ x.almond.cancel = true ∧ x.almond.stop = l.almond.stop ∧ x.st = l.st ∧ t.tile = s.tile)))

/-- R96 and R98: the tile in focus, between tasks of a TASKED launch, starts the eligible task with the lowest list index at its
entry, with its argument and its number; with nothing eligible it stays. R98 and R160: a task that has applied END and ended its streams commits: its
held stores perform and the tile is between tasks; where one has no place any more, none performs (log 104), and with a faulted tile
in the launch none commits (R338). R107 to R109: an entry that may fire opens its window, its binds pre-empt what is not
time-triggered on their tiles, one whose clusters another window holds counts a skip, and at the end of a window the launch
overruns or its window goes; a firing for a saved launch binds it again (R347). R116 to R118: Almond merges the next batch in order and
stops, and a stop reaches the tile's batch.
When a waiting task is eligible again and that an entry fires once in its slot are the model's readings (logs 49 and 109). That a firing
whose LAUNCH is in use does nothing, that a window closes over a launch still queued, and that an overrun launch holds the clusters that
its tiles stand in are the model's choices (log 108). -/
def Obligations.TaskEvents : Prop :=
  (∀ (s : State) (l : Launch) (b : Bind), s.tile.disp.bind = some b → s.pkg.launch b.launch.toNat = some l → l.rc.kind = .tasked →
      s.tile.disp.run = .between → s.tileQuiet s.tile = true → s.tile.disp.preempt = .none → l.st = .running → l.almond.cancel = false →
      let may (i : Nat) : Prop := ∃ t, l.tasks[i]? = some t ∧ t.st.eligible s.pkg l.ptb = true ∧ ∀ j u, j < i → l.tasks[j]? = some u → u.st = .committed ∨ u.conflicts t = false
      (∀ i t, may i → (∀ j < i, ¬ may j) → l.tasks[i]? = some t → ∃ u, exec .taskDispatch s = .next u ∧ u.tile.core.pc = t.entry ∧ u.reg 1 = l.rc.args ∧ u.reg 2 = t.arg
        ∧ (∀ r : Reg, 3 ≤ r.toNat → u.reg r = 0) ∧ u.tile.disp.run = .running ∧ u.tile.task.index = some i ∧ u.tile.task.rds = t.rds ∧ u.tile.task.wrs = t.wrs
        ∧ u.tile.task.held = [] ∧ u.tile.par.task = t.id ∧ u.tile.par.itempos = 0 ∧ u.tile.sys.abcnt = BitVec.ofNat 64 t.aborts
        ∧ ∃ x y, u.pkg.launch l.handle = some x ∧ x.tasks[i]? = some y ∧ y.st = .running s.tile.phys)
      ∧ ((∀ i < l.tasks.length, ¬ may i) → exec .taskDispatch s = .next s))
  ∧ (∀ (s : State) (l : Launch) (i : Nat) (r : TaskRec), s.tile.task.index = some i → s.tile.disp.run = .ended → s.tile.eng.cmds = [] →
      s.tile.eng.quiescent = true → s.coreQuiet = true → s.tileQuiet s.tile = true → s.tile.task.stop = false → s.tile.task.deferred = [] →
      s.pkg.launch s.tile.handle = some l → l.tasks[i]? = some r → (∀ u ∈ s.tilesOf l, u.disp.run ≠ .faulted) →
      (∀ fi, s.placeTask = .error fi → exec .taskCommit s = .next (s.lateFault fi s.tile.core.pc))
      ∧ (∀ p, s.placeTask = .ok p → ∃ t, exec .taskCommit s = .next t ∧ t.tile.disp.run = .between ∧ t.tile.task.index = none ∧ t.tile.task.held = [] ∧ t.tile.disp.bind = s.tile.disp.bind
        ∧ (∃ x y, t.pkg.launch l.handle = some x ∧ x.tasks[i]? = some y ∧ y.st = .committed ∧ (l.almond.stop = 0 →
            x.almond.held = l.almond.held ++ (match s.tile.task.flush with
              | some m => [(i, m.1, m.2.1, m.2.2)]
              | none => [])))
        ∧ (∀ h pa u, s.tile.task.held = [h] → s.taskPlace h.addr = .ok (u, .pkgMem pa true) → h.tag = none → u.pkg.host = [] → 0 < h.bytes.length → (∀ k < h.bytes.length, (pa + k) / 64 = pa / 64) →
            pa + h.bytes.length ≤ u.pkg.bound → Overlay.wf u.pkg.l2 = true → (∀ v ∈ u.allTiles, v.ord.l1 = []) → t.pkg.homeN pa h.bytes.length = h.bytes)))
  ∧ (∀ (s : State) (l : Launch) (u : Tile), s.pkg.launch s.tile.handle = some l → u ∈ s.tilesOf l → u.disp.run = .faulted → exec .taskCommit s = .next s)
  ∧ (∀ (s : State), s.tile.task.index = none → exec .taskCommit s = .next s)
  ∧ (∀ (s : State), s.arg.ix < 64 →
      let i := BitVec.ofNat 6 s.arg.ix
      let e := s.pkg.tt[i.toFin]
      let r := s.pkg.regs
      let cycle := 64 * r.ttlen.toNat
      let start := r.ttbase.toNat + (s.pkg.time - r.ttbase.toNat) / cycle * cycle + s.arg.ix * r.ttlen.toNat
      let now := r.ttlen ≠ 0 ∧ r.ttbase.toNat ≤ s.pkg.time ∧ start ≤ s.pkg.time ∧ s.pkg.time < start + r.ttlen.toNat
      let window (h : Nat) : TtWindow := { entry := i, handle := h, clmask := e.clmask, overrun := false, skipNext := false, ends := start + (e.len.toNat + 1) * r.ttlen.toNat }
      let noted := s.updP (fun p => p.updEntry i (fun e => { e with fired := some start }))
      let saved := s.pkg.launches.find? (fun l => l.handle == e.launch.toNat && l.tt && l.st == .saved)
      ((e.en = false ∨ ¬ now ∨ e.fired = some start) → exec .ttFiring s = .next s)
      ∧ (e.en = true → now → e.fired ≠ some start →
          ((∃ w ∈ s.pkg.windows, w.clmask &&& e.clmask ≠ 0 ∧ w.overrun = false ∧ w.entry ≠ i ∧ w.handle ≠ 0) → (∀ w ∈ s.pkg.windows, w.overrun = false) →
            ∃ t, exec .ttFiring s = .next t ∧ t.pkg.tt[i.toFin].skips = min 4095 (e.skips + 1) ∧ t.pkg.tt[i.toFin].fired = some start ∧ t.pkg.windows = s.pkg.windows ∧ t.tile = s.tile ∧ t.pkg.mem = s.pkg.mem)
          ∧ (∀ l, s.pkg.windows = [] → saved = some l → s.pkg.launch l.handle = some l →
              let opened := noted.updP (fun p => { p with windows := [window l.handle] })
              ((l.again ≠ [] ∨ noted.choosePlace l.rc e.clmask = none) → exec .ttFiring s = .next opened)
              ∧ (∀ new, l.again = [] → noted.choosePlace l.rc e.clmask = some new → ∃ t x, exec .ttFiring s = .next t ∧ t.pkg.launch l.handle = some x ∧ x.again = new ∧ x.st = .saved
                  ∧ t.pkg.windows = [window l.handle]
                  ∧ (s.tile.disp.slot.length < 4 → (∃ k, (k, s.tile.phys) ∈ new) → ∃ b ∈ t.tile.disp.slot, b.tt = true ∧ b.launch = BitVec.ofNat 16 l.handle)))
          ∧ (s.pkg.windows = [] → saved = none → s.pkg.inUse e.launch.toNat = true → exec .ttFiring s = .next noted)
          ∧ (s.pkg.windows = [] → saved = none → s.pkg.inUse e.launch.toNat = false →
              let l := { noted.launchOf e.launch.toNat e.recPA with mask := e.clmask, tt := true }
              let u := noted.touchLaunch l
              u.pkg.resultOk l = true → (u.recChecks l (u.acornPkg.homeN e.recPA 256)).find? (·.2) = none → l.rc.ttslot = s.arg.ix → l.rc.kind ≠ .tasked →
              (∀ pl, u.choosePlace l.rc e.clmask = some pl → ∃ t x, exec .ttFiring s = .next t ∧ t.pkg.launch e.launch.toNat = some x ∧ x.st = .queued ∧ x.tt = true ∧ x.place = pl
                ∧ t.pkg.windows = [window e.launch.toNat]
                ∧ (∀ v b lt, s.tile.disp.bind = some b → b.tt = false → b.launch.toNat = v.handle → s.pkg.launch v.handle = some v → v.st = .running → (lt, s.tile.phys) ∈ v.place →
                    v.handle ≠ e.launch.toNat → (v.rc.kind = .estimating ∨ v.almond.cancel = false) → (∃ k, (k, s.tile.phys) ∈ pl) → ∃ y, t.pkg.launch v.handle = some y ∧ y.st = .saving))
              ∧ (u.choosePlace l.rc e.clmask = none → ∃ t x, exec .ttFiring s = .next t ∧ t.pkg.launch e.launch.toNat = some x ∧ x.st = .waiting ∧ t.pkg.windows = [window e.launch.toNat] ∧ t.tile.disp = s.tile.disp ∧ t.tile.core = s.tile.core))))
  ∧ (∀ (s : State) (w : TtWindow), s.pkg.windows = [w] → w.entry = BitVec.ofNat 6 s.arg.ix → w.overrun = false → w.ends ≤ s.pkg.time → w.handle ≠ 0 →
      ((∀ l, s.pkg.launch w.handle = some l → l.st ≠ .running) → exec .ttWindowEnd s = .next (s.updP (fun p => { p with windows := [] })))
      ∧ (∀ l, s.pkg.launch w.handle = some l → l.st = .running →
          (s.pkg.tt[w.entry.toFin].rule = false → exec .ttWindowEnd s = .next (s.updP (fun p => { p with windows := [{ w with overrun := true, skipNext := true, clmask := l.clusters }] })))
          ∧ (s.pkg.tt[w.entry.toFin].rule = true → (l.rc.kind = .estimating ∨ l.almond.cancel = false) →
              ∃ t x, exec .ttWindowEnd s = .next t ∧ t.pkg.windows = [] ∧ t.pkg.launch l.handle = some x ∧ x.st = .saving ∧ x.area = s.arg.area)))
  ∧ (∀ (s : State), (∀ w ∈ s.pkg.windows, s.pkg.time < w.ends) → exec .ttWindowEnd s = .next s)
  ∧ (∀ (s : State) (l : Launch) (x : Nat × W64 × W64 × W64), s.pkg.launch s.arg.handle = some l → l.rc.kind = .estimating → l.almond.stop = 0 → l.almond.cancel = false →
      l.almond.held = [x] → x.1 = l.almond.next →
      let a := l.almond
      let n := a.n + x.2.1.toNat
      let d := d64 .sub x.2.2.1 a.mean
      let w := d64Count (d64OfNat x.2.1.toNat) n
      let mean := d64 .add a.mean (d64 .mul d w)
      let m2 := d64 .add (d64 .add a.m2 x.2.2.2) (d64 .mul (d64 .mul d d) (d64 .mul (d64OfNat a.n) w))
      let half := d64 .mul l.rc.z (d64Sqrt (d64Count m2 ((n - 1) * n)))
      let checked := n % l.rc.ek = 0 ∨ n = l.rc.en
      ∃ t y, exec .almondMerge s = .next t ∧ t.pkg.launch l.handle = some y ∧ y.almond.n = n ∧ y.almond.mean = mean ∧ y.almond.m2 = m2 ∧ y.almond.next = a.next + 1 ∧ y.almond.held = []
        ∧ (¬ checked → y.almond.stop = 0 ∧ y.almond.hw = a.hw)
        ∧ (checked → n < l.rc.nmin → y.almond.hw = a.hw ∧ y.almond.stop = if n = l.rc.en then 2 else 0)
        ∧ (checked → l.rc.nmin ≤ n → y.almond.hw = half ∧ y.almond.stop = if d64lt half l.rc.tau then 1 else if n = l.rc.en then 2 else 0)
        ∧ t.tile = s.tile ∧ t.pkg.mem = s.pkg.mem)
  ∧ (∀ (s : State) (l : Launch), s.pkg.launch s.tile.handle = some l → l.rc.kind = .estimating → s.tile.task.index.isSome = true →
      (l.almond.stop ≠ 0 → exec .estimateStopArrival s = .next (s.mapTask (fun k => { k with stop := true })))
      ∧ (l.almond.stop = 0 → exec .estimateStopArrival s = .next s))

end

/-! ### Entries, pre-emption and the debugger -/

section
open Sys2Proof Sys2Proof.Machine

/-- R331, R333 and R335: an engine fault enters the handler while NEST is clear, before a message; a message does so
while IE is set too; a word that is not held is interrupted before it runs. R363 and R461: a message waits in its tile, one at a time, and none is posted in a handover. R341: a
pre-emption begins, but of no launch that a cancel stops; R342 and R344: the areas are written once every tile has stopped and settled, and
the tiles are free; R346: a class P save puts PC, the registers, the capabilities with their tags, the semaphores and every near byte at their
places in the area, and changes no byte outside it; R344: SPLIM turns a class S save into a class P one. R347: a saved launch is placed and
bound again, and a tile that takes it up has the registers, capabilities, semaphores and near bytes that its area holds.
Where the areas of the tiles stand and what dispatch keeps are the model's (logs 64, 65 and 41). -/
def Obligations.EntriesAndSaves : Prop :=
  (∀ (s : State), s.tile.disp.run = .running → s.tile.sys.dbgctl &&& 3 = 0 → s.tile.ord.mon = none → s.tile.ord.nasWait = none → s.tile.ord.hold = none → s.tile.ord.bar = .idle →
      s.tile.sys.kstat.getLsbD 6 = false →
      let entered (t : State) (kind : Nat) : Prop := t.tile.sys.kpc = s.tile.core.pc ∧ t.tile.core.pc = s.tile.sys.kvec &&& ~~~7 ∧ t.tile.core.level = .k
        ∧ t.tile.sys.kstat.toNat = (if s.tile.sys.kstat.getLsbD 7 then 128 else 0) + 64 + 16 * kind + 8 * (s.tile.sys.kstat.getLsbD 2).toNat
            + (match s.tile.core.level with | .u => 0 | .k => 1 | .f => 2)
        ∧ t.tile.core.s = s.tile.core.s ∧ t.tile.core.p = s.tile.core.p ∧ t.tile.core.lc = s.tile.core.lc ∧ t.tile.core.ssp = s.tile.core.ssp
        ∧ t.tile.caps = s.tile.caps ∧ t.tile.near = s.tile.near ∧ t.pkg = s.pkg
      (∀ f, s.tile.eng.faults = [f] → f.eng ≠ .x → s.tile.sys.kvec &&& ~~~7 ≠ 0 → ∃ t, exec .trapEntry s = .next t ∧ entered t 1 ∧ t.tile.core.cause = BitVec.ofNat 64 f.code.num
        ∧ t.tile.core.epc = f.epc ∧ t.tile.core.eval = f.eval ∧ t.tile.sys.efault.extractLsb' 0 32 = f.idx
        ∧ t.tile.sys.efault.extractLsb' 62 2 = (match f.eng with | .v => 1 | .m => 2 | .x => 3)
        ∧ t.tile.eng.faults = [] ∧ t.tile.eng.stop f.eng = s.tile.eng.stop f.eng ∧ t.tile.disp = s.tile.disp)
      ∧ (∀ f, s.tile.eng.faults = [f] → f.eng ≠ .x → s.tile.sys.kvec &&& ~~~7 = 0 → ∃ t, exec .trapEntry s = .next t ∧ t.tile.disp.run = .faulted
          ∧ t.tile.core.cause = BitVec.ofNat 64 f.code.num ∧ t.tile.core.epc = f.epc)
      ∧ (∀ m, s.tile.eng.faults = [] → s.tile.disp.msg = some m → s.tile.sys.kstat.getLsbD 2 = true → s.tile.sys.kvec &&& ~~~7 ≠ 0 → ∃ t, exec .trapEntry s = .next t ∧ entered t 2
          ∧ t.tile.sys.kmsg = m.zeroExtend 64 ∧ t.tile.disp.msg = none ∧ t.tile.core.cause = s.tile.core.cause ∧ t.tile.core.epc = s.tile.core.epc ∧ t.tile.core.eval = s.tile.core.eval)
      ∧ (s.tile.eng.faults = [] → (s.tile.disp.msg = none ∨ s.tile.sys.kstat.getLsbD 2 = false) → exec .trapEntry s = .next s))
  ∧ (∀ (s : State), s.tile.disp.run = .running → s.tile.sys.kstat.getLsbD 6 = true → exec .trapEntry s = .next s)
  ∧ (∀ (s : State), (s.tile.disp.msg = none → s.pkg.fw.state ≠ 3 → exec .messagePost s = .next (s.mapDisp (fun d => { d with msg := some (s.arg.val.extractLsb' 0 32) })))
      ∧ ((∃ m, s.tile.disp.msg = some m) ∨ s.pkg.fw.state = 3 → exec .messagePost s = .next s))
  ∧ (∀ (s : State) (l : Launch), s.pkg.launches = [l] → l.handle = s.arg.handle → l.place = [(0, s.tile.phys)] → s.pkg.tiles = [] →
      (∃ b, s.tile.disp.bind = some b ∧ b.launch.toNat = l.handle) →
      let saved (t : State) : Prop := ∃ x, t.pkg.launch l.handle = some x ∧ x.st = .saved ∧ t.tile.disp.run = .free ∧ t.tile.disp.bind = none
      let parts : List (Nat × Nat × Nat) := [(0, 0x200000, 0x10000), (0x200000, 0x20000, 0x210000), (0x400000, 0x30000, 0x230000), (0x1000000, 0x100000, 0x260000)]
      let kept (t : State) : Prop :=
        let at_ (o n : Nat) : List Byte := t.pkg.homeN (l.area + o) n
        at_ 0 3 = [1, 0, 0] ∧ at_ 8 8 = Spec.bytes 8 s.tile.core.pc ∧ (∀ i : Fin 32, at_ (0x10 + 8 * i.val) 8 = Spec.bytes 8 s.tile.core.s[i])
        ∧ (∀ i : Fin 16, at_ (0x200 + 32 * i.val) 32 = s.tile.caps[i].toBytes ∧ t.pkg.tag (l.area + 0x200 + 32 * i.val) = s.tile.caps[i].tag)
        ∧ (∀ i : Fin 32, at_ (0xA00 + 2 * i.val) 2 = Spec.bytes 2 (s.tile.eng.sems[i].zeroExtend 64))
        ∧ (∀ x ∈ parts, ∀ k < x.2.1, t.pkg.home (l.area + x.2.2 + k) = s.tile.near.read (x.1 + k))
      (l.st ≠ .running → exec .preemptRequest s = .next s)
      ∧ (l.rc.kind ≠ .estimating → l.almond.cancel = true → ∀ i ∈ [Instr.preemptRequest, .classPSave, .classSSave], exec i s = .next s) ∧
      ((l.rc.kind = .estimating ∨ l.almond.cancel = false) →
      (l.st = .running → (l.rc.cls = 1 ∨ l.rc.kind = .single) → ∃ t x, exec .preemptRequest s = .next t ∧ t.pkg.launch l.handle = some x ∧ x.st = .saving ∧ x.area = s.arg.area
          ∧ x.saveAt = some s.pkg.time ∧ t.tile.disp.preempt = (if l.rc.cls = 1 then .classP else .classS) ∧ t.tile.core = s.tile.core ∧ t.tile.near = s.tile.near ∧ t.pkg.mem = s.pkg.mem)
      ∧ (l.st = .running → l.rc.cls = 0 → l.rc.kind ≠ .single → s.tile.handle = l.handle → s.tile.disp.run ≠ .faulted → ∃ t x, exec .preemptRequest s = .next t ∧ t.pkg.launch l.handle = some x ∧ x.st = .saving ∧ t.tile.near = s.tile.near ∧ t.pkg.mem = s.pkg.mem
          ∧ ∀ i r, s.tile.task.index = some i → l.tasks[i]? = some r → s.tile.task.stop = false → x.tasks[i]? = some { r with st := .ready } ∧ t.tile.disp.run = .between ∧ t.tile.task.index = none)
      ∧ (l.st = .saving → s.tile.disp.preempt = .classP → s.tile.disp.run = .ended → s.tile.eng.cmds = [] → s.tile.disp.fenced = [] → s.tile.ord.lq = [] → s.tile.ord.sq = [] →
          s.pkg.chans = [] → s.pkg.poolCh = [] → s.pkg.peerCh = [] → ∃ t, exec .classPSave s = .next t ∧ saved t
            ∧ (∃ x v, t.pkg.launch l.handle = some x ∧ x.saved = [v] ∧ v.lt = 0 ∧ v.area = l.area ∧ v.form = 0 ∧ v.run = .ended ∧ v.kinds = s.tile.near.kinds ∧ v.level = s.tile.core.level)
            ∧ (l.area % 0x40000 = 0 → kept t)
            ∧ (s.tile.ord.l1 = [] → s.pkg.host = [] → ∀ x, (x < l.area ∨ l.area + 0x370000 ≤ x) → t.pkg.home x = s.pkg.home x))
      ∧ (l.st = .saving → s.tile.disp.preempt = .classP → s.tile.disp.run = .running → s.tile.ord.nasWait = none → s.tile.ord.hold = none → s.tile.ord.bar = .idle → s.tile.ord.lq ≠ [] →
          ∃ t, exec .classPSave s = .next t ∧ t.tile.disp.run = .saving ∧ t.tile.eng.heldStreams = true ∧ t.tile.core = s.tile.core ∧ t.pkg = s.pkg)
      ∧ (l.st = .saving → l.rc.cls = 0 → l.rc.kind ≠ .single → s.tile.disp.run = .faulted → exec .classSSave s = .next s)
      ∧ (l.st = .saving → l.rc.cls = 0 → l.rc.kind ≠ .single → s.tile.disp.run ≠ .faulted → s.tile.eng.cmds = [] → s.tile.disp.fenced = [] → s.tile.ord.lq = [] → s.tile.ord.sq = [] →
          s.pkg.chans = [] → s.pkg.poolCh = [] → s.pkg.peerCh = [] → ∃ t, exec .classSSave s = .next t ∧ saved t ∧ ∃ x, t.pkg.launch l.handle = some x ∧ x.saved = [] ∧ x.tasks = l.tasks)
      ∧ (l.st = .saving → l.rc.kind = .single → s.tile.disp.preempt = .classS → s.tile.disp.run = .stopped → s.tile.eng.cmds = [] → s.tile.disp.fenced = [] → s.tile.ord.lq = [] → s.tile.ord.sq = [] →
          s.pkg.chans = [] → s.pkg.poolCh = [] → s.pkg.peerCh = [] → ∀ ix, s.tile.disp.safeIx = some ix → ∃ t, exec .classSSave s = .next t ∧ saved t
            ∧ ∃ x v, t.pkg.launch l.handle = some x ∧ x.saved = [v] ∧ v.lt = 0 ∧ v.area = l.area ∧ v.run = .running)
      ∧ (l.rc.kind = .single → s.tile.disp.run ≠ .stopped → exec .classSSave s = .next s)
      ∧ (∀ t0, l.st = .saving → l.rc.kind = .single → l.saveAt = some t0 →
          (t0 + s.pkg.regs.splim ≤ s.pkg.time → exec .splimExpiry s = .next (s.mapDisp (fun d => { d with preempt := .classP })))
          ∧ (s.pkg.time < t0 + s.pkg.regs.splim → exec .splimExpiry s = .next s))))
  ∧ (∀ (s : State) (l : Launch), s.pkg.launches = [l] → l.handle = s.arg.handle →
      ((l.st ≠ .saved ∨ l.cancelling = true) → exec .launchResume s = .next s)
      ∧ (l.st = .saved → l.cancelling = false → l.tt = false → l.again = [] → s.choosePlace l.rc 0xFFFF = none → exec .launchResume s = .next s)
      ∧ (l.st = .saved → l.cancelling = false → l.tt = false → l.again = [] → l.handle < 65536 → s.choosePlace l.rc 0xFFFF = some [(0, s.tile.phys)] →
          s.tile.disp.run = .free → s.tile.disp.bind = none → s.tile.disp.slot = [] → s.tileQuiet s.tile = true →
          (∀ v, l.saved = [v] → v.lt = 0 →
          ∃ t x b, exec .launchResume s = .next t ∧ t.pkg.launch l.handle = some x ∧ x.st = .running ∧ x.place = [(0, s.tile.phys)] ∧ x.saved = []
            ∧ t.tile.disp.bind = some b ∧ b.launch = BitVec.ofNat 16 l.handle ∧ (t.tile.disp.run = v.run ∨ t.tile.disp.run = .faulted)
            ∧ (let q (o : Nat) : W64 := BitVec.ofNat 64 (Spec.number (s.pkg.homeN (v.area + o) 8))
               v.form = 0 → (∀ g ∈ s.pkg.ecc, 64 * g + 63 < v.area ∨ v.area + 0x370000 ≤ 64 * g) → (∀ n < 16, (q (0x880 + 16 * n)).getLsbD 63 = false) →
               t.tile.disp.run = v.run ∧ t.tile.core.pc = q 8 &&& ~~~7 ∧ t.tile.core.level = v.level ∧ (∀ r : Reg, r ≠ 0 → t.reg r = q (0x10 + 8 * r.toNat)) ∧ t.tile.core.lc = q 0x118
               ∧ (∀ i : Fin 16, t.tile.caps[i] = Cap.ofBytes (s.pkg.homeN (v.area + 0x200 + 32 * i.val) 32) ((q 0x400).getLsbD i.val))
               ∧ (∀ i : Fin 32, Spec.bytes 2 (t.tile.eng.sems[i].zeroExtend 64) = s.pkg.homeN (v.area + 0xA00 + 2 * i.val) 2)
               ∧ ∀ x ∈ [(0, 0x200000, 0x10000), (0x200000, 0x20000, 0x210000), (0x400000, 0x30000, 0x230000), (0x1000000, 0x100000, 0x260000)],
                   ∀ k < x.2.1, t.tile.near.read (x.1 + k) = s.pkg.home (v.area + x.2.2 + k)))
          ∧ (l.saved = [] → l.rc.kind ≠ .single →
          ∃ t x b, exec .launchResume s = .next t ∧ t.pkg.launch l.handle = some x ∧ x.st = .running ∧ x.place = [(0, s.tile.phys)] ∧ x.tasks = l.tasks.map (fun r => match r.st with
            | .running q => { r with st := .running (movedTile l.place [(0, s.tile.phys)] q) }
            | _ => r)
            ∧ t.tile.disp.bind = some b ∧ b.launch = BitVec.ofNat 16 l.handle ∧ t.tile.disp.run = .between)))

/-- R158, R348, R349, R448 and R456: the host and firmware halt a core at its next word boundary, resume it, and step it by one
word; a halted tile's memory is read and written through a capability that passes the checks with D; a request that fails them reads
zero and writes nothing; one that meets sealed data gives no data, and leaves a record of KIND 2 and an Event where it reads, one of
KIND 3 where it writes; a write of measured bytes ends the launch with CODE_WRITE; a request from a tile or a host that is not trusted has no effect on the tile. R340: the count of the
watchdog pauses while the tile is halted.
Where a debugger sees its answer, and the address of a record of sealed data that has no physical one, are the model's (logs 78 and 121). -/
def Obligations.DebugEvents : Prop :=
  (∀ (s : State), s.tile.phys < 256 → s.tile.disp.bind = none → (s.arg.req = .acornF ∨ ∃ n, s.arg.req = .ide n) →
      let y := s.tile.sys
      let ctl (v : W64) : State := s.mapSys (fun y => { y with dbgctl := v })
      (s.tile.disp.run ≠ .running → exec .dbgHalt s = .next (ctl (y.dbgctl ||| 1)))
      ∧ (s.tile.disp.run = .running → s.tile.ord.nasWait = none → s.tile.ord.hold = none →
          exec .dbgHalt s = .next ((ctl (y.dbgctl ||| 1 ||| 2)).mapDisp (fun d => { d with haltAt := some (d.haltAt.getD s.pkg.time) })))
      ∧ exec .dbgResume s = .next ((ctl (y.dbgctl &&& ~~~3)).mapDisp (fun d => { d with haltAt := none }))
      ∧ (y.dbgctl.getLsbD 1 = true → exec .dbgStep s = .next ((ctl ((y.dbgctl ||| 1) &&& ~~~2)).mapDisp (fun d => { d with haltAt := none })))
      ∧ (y.dbgctl.getLsbD 1 = false → exec .dbgStep s = .next s)
      ∧ (let c := s.cap s.arg.cap
         let a := c.cursor + BitVec.ofNat 64 s.arg.off
         let k : AccKind := if s.arg.write then .st else .ld
         let answer (s : State) (v : W64) : State := s.updP (fun p => { p with lastRead := v })
         ((y.dbgctl.getLsbD 1 = false ∨ s.debugCheck c a k = false) → exec .hostDebugRequest s = .next (answer s 0))
         ∧ (y.dbgctl.getLsbD 1 = true → s.debugCheck c a k = true → c.typ = 1 → ∀ x t, s.debugLoc c a k = .ok t (.own x) →
             (s.arg.write = false → exec .hostDebugRequest s = .next (answer t (BitVec.ofNat 64 (Spec.number (t.tile.near.readN x 8)))))
             ∧ (s.arg.write = true → t.tile.MemForm → ∃ u, exec .hostDebugRequest s = .next u ∧ u.tile.near.readN x 8 = Spec.bytes 8 s.arg.val
                 ∧ (∀ z, (z < x ∨ x + 8 ≤ z) → u.tile.near.read z = t.tile.near.read z) ∧ u.tile.core = t.tile.core))
         ∧ (y.dbgctl.getLsbD 1 = true → s.debugCheck c a k = true → (c.typ = 4 ∨ c.typ = 5) → ∃ u, exec .hostDebugRequest s = .next u ∧ u.pkg.lastRead = 0
             ∧ u.tile = s.tile ∧ u.pkg.mem = s.pkg.mem
             ∧ (s.arg.write = false → s.pkg.events.length < 1024 → u.pkg.events = s.pkg.events ++ [.sealedDebug s.tile.phys])
             ∧ (s.arg.write = true → u.pkg.events = s.pkg.events)
             ∧ (∀ x, s.pkg.sessions = [x] → x.tenant.toNat = c.tenant.toNat →
                 u.pkg.sessions = [x.append s.pkg.time (if s.arg.write then 3 else 2) 0 (s.sealedPa c a)]))
         ∧ (y.dbgctl.getLsbD 1 = true → s.debugCheck c a k = true → c.typ ≠ 4 → c.typ ≠ 5 → ∀ fi, s.debugLoc c a k = .fault fi →
             exec .hostDebugRequest s = .next (if fi.code = .codeWrite then s.fatal .codeWrite s.tile.core.pc else answer s 0))))
  ∧ (∀ (s : State) (b : Bind) (t0 : Nat), s.tile.phys < 256 → s.arg.req = .acornF → s.pkg.tiles = [] → s.tile.disp.bind = some b → s.tile.disp.haltAt = some t0 →
      exec .dbgResume s = .next ((s.mapSys (fun y => { y with dbgctl := y.dbgctl &&& ~~~3 })).mapDisp (fun d =>
        { d with haltAt := none, lastDone := d.lastDone + (s.pkg.time - max t0 d.lastDone) })))
  ∧ (∀ (s : State), s.tile.phys < 256 → s.tile.disp.bind = none → (s.arg.req = .untrustedHost ∨ ∃ n k, s.arg.req = .tile n k) →
      exec .dbgHalt s = .next s ∧ exec .dbgResume s = .next s ∧ exec .dbgStep s = .next s ∧ exec .hostDebugRequest s = .next (s.updP (fun p => { p with lastRead := 0 })))

end

/-! ### The pool -/

section
open Sys2Proof Sys2Proof.Machine

/-- R386, R388 to R391: what a gate does with the first entry of a package's channel. A write or an atomic whose token is below
FENCE changes no byte, is counted, and is on its way back to its tile; another write has its bytes; a load and an atomic
deliver the word as it was; an atomic with a key takes effect once, and its record answers every other. R390: a full
gate lets its oldest record go when its age is two lease durations. R388: a rejection that reaches its tile ends the launch
with FENCED where the launch still runs on the tile. R378 and R379: a page whose lease the package holds becomes resident, but
none of an object of DIRECT mode or of one that is not open (R375); R383: one whose lease has run out is dropped. R397: what a failed package has sent
still arrives. That a package reaches no object whose node's
endpoint is unreachable, and that endpoint's number, are the model's (log 116). -/
def Obligations.PoolGate : Prop :=
  (∀ (s : State) (m : PoolMsg) (r : List PoolMsg), (s.poolAway s.arg.obj = false ∨ s.pkg.failed = true) → (s.pool.find? (fun o => o.id == s.arg.obj)).isSome = true →
      s.pkg.poolCh = m :: r → m.obj = s.arg.obj → m.src = s.tile.phys → Memory.wf (s.obj m.obj).data = true →
      let o := s.obj m.obj
      let late := m.token.toNat < o.fence.toNat
      let word (t : State) (off : Nat) : W64 := BitVec.ofNat 64 (Spec.number (Memory.readN (t.obj m.obj).data off 8))
      let kept (t : State) : Prop := (t.obj m.obj).fence = o.fence ∧ (t.obj m.obj).leases = o.leases ∧ t.tile.near = s.tile.near ∧ t.tile.caps = s.tile.caps ∧ t.pkg.mem = s.pkg.mem ∧ t.pkg.poolCh = r
      let rejected (i : Instr) : Prop := ∃ t, exec i s = .next t ∧ kept t ∧ (t.obj m.obj).rejects = o.rejects + 1 ∧ (t.obj m.obj).data = o.data ∧ (t.obj m.obj).keys = o.keys
        ∧ (m.launch = none → t.tile.disp = s.tile.disp ∧ t.pkg.launches = s.pkg.launches)
        ∧ (∀ h, m.launch = some h →
            (∀ l, s.pkg.launch h = some l → ∃ x, t.pkg.launch h = some x ∧ x.rejected = true ∧ x.st = l.st)
            ∧ (s.tile.disp.bind.any (fun b => b.launch.toNat == h) = false → t.tile.disp = s.tile.disp)
            ∧ (s.tile.disp.bind.any (fun b => b.launch.toNat == h) = true →
                if m.byWord = true ∨ m.eng.isSome = true then t.tile.disp.fenced = s.tile.disp.fenced ++ [(m.pc, m.eng)] else t.tile.disp.lineRej = true))
        ∧ t.tile.core = s.tile.core
      let written (i : Instr) (off : Nat) (bs : List Byte) : Prop := ∃ t, exec i s = .next t ∧ kept t ∧ (t.obj m.obj).rejects = o.rejects ∧ Memory.readN (t.obj m.obj).data off bs.length = bs
        ∧ (∀ x, (x < off ∨ off + bs.length ≤ x) → Memory.read (t.obj m.obj).data x = Memory.read o.data x) ∧ t.tile = s.tile
      (∀ off bs, m.op = .put off bs → (late → rejected .put) ∧ (¬ late → written .put off bs))
      ∧ (∀ off v, m.op = .store8 off v → (late → rejected .store8) ∧ (¬ late → written .store8 off (Spec.bytes 8 v)))
      ∧ (∀ off d, m.op = .load8 off d → ∃ t, exec .load8 s = .next t ∧ kept t ∧ t.tile.core = (s.setReg d (word s off)).tile.core ∧ (t.obj m.obj).data = o.data)
      ∧ (∀ off op b x key d, m.op = .atomic off op b x key (some d) none → m.eng = none →
          let answered (i : Instr) (v : W64) : Prop := ∃ t, exec i s = .next t ∧ kept t ∧ t.tile.core = (s.setReg d v).tile.core
            ∧ (∀ e ∈ t.tile.ord.lq, e.op = .amoMark → e.seq ≠ m.seq)
            ∧ (∀ k, key ≠ 0 → o.keys.find? (fun k => k.key == key) = some k → (t.obj m.obj).data = o.data ∧ (t.obj m.obj).keys = o.keys)
            ∧ (key = 0 → (t.obj m.obj).keys = o.keys)
            ∧ ((key = 0 ∨ o.keys.find? (fun k => k.key == key) = none) → ∀ y ∈ Spec.atomics, y.2.1 = op →
                (∀ w, y.2.2 (word s off) b x = some w → word t off = w) ∧ (y.2.2 (word s off) b x = none → (t.obj m.obj).data = o.data))
            ∧ (key ≠ 0 → o.keys.find? (fun k => k.key == key) = none → (t.obj m.obj).keys = (if i = .atomic then o.keys else o.keys.drop 1) ++ [⟨key, word s off, s.pkg.time⟩])
          (late → rejected .atomic)
          ∧ (¬ late → key = 0 → answered .atomic (word s off))
          ∧ (¬ late → key ≠ 0 → ∀ k, o.keys.find? (fun k => k.key == key) = some k → answered .atomic k.result)
          ∧ (¬ late → key ≠ 0 → o.keys.find? (fun k => k.key == key) = none → o.keys.length < 4096 → answered .atomic (word s off))
          ∧ (¬ late → key ≠ 0 → o.keys.find? (fun k => k.key == key) = none → 4096 ≤ o.keys.length → s.pkg.object m.obj = none →
              (∀ k ∈ o.keys, s.pkg.time < k.since + 2000 * o.ldur) → exec .keyRecordAging s = .next s)
          ∧ (¬ late → key ≠ 0 → o.keys.find? (fun k => k.key == key) = none → 4096 ≤ o.keys.length → s.pkg.object m.obj = none →
              (∀ k q, o.keys = k :: q → (∀ y ∈ q, k.since < y.since) → k.since + 2000 * o.ldur ≤ s.pkg.time → answered .keyRecordAging (word s off)))
          ∧ (o.keys.length < 4096 → exec .keyRecordAging s = .next s)))
  ∧ (∀ (s : State), ((s.poolAway s.arg.obj = true ∧ s.pkg.failed = false) ∨ ∀ m ∈ s.pkg.poolCh, m.obj ≠ s.arg.obj) → ∀ i ∈ [Instr.put, .store8, .load8, .atomic, .keyRecordAging], exec i s = .next s)
  ∧ (∀ (s : State), (s.tile.disp.fenced = [] → exec .fencedDelivery s = .next s)
      ∧ (∀ y r, s.tile.disp.fenced = y :: r → s.tile.disp.run ∈ [RunSt.free, .stopped, .faulted, .saved] → exec .fencedDelivery s = .next (s.mapDisp (fun d => { d with fenced := r })))
      ∧ (∀ pc x r, s.tile.disp.fenced = (pc, x) :: r → s.tile.disp.run ∉ [RunSt.free, .stopped, .faulted, .saved] → ∃ t, exec .fencedDelivery s = .next t ∧ t.tile.disp.run = .faulted ∧ t.tile.disp.fenced = r ∧ t.tile.core.cause = 0x34 ∧ t.tile.core.epc = pc
          ∧ (∀ n, x = some n → t.tile.sys.efault.extractLsb' 0 32 = n ∧ t.tile.sys.efault.extractLsb' 62 2 = 3) ∧ (x = none → t.tile.sys.efault.extractLsb' 62 2 = 0)
          ∧ (s.tile.disp.fault = none → t.tile.disp.fault = some ⟨.fenced, pc, s.pkg.time⟩) ∧ t.tile.core.s = s.tile.core.s ∧ t.tile.near = s.tile.near ∧ t.pkg = s.pkg))
  ∧ (∀ (s : State) (l : Lease) (pa : Nat), s.channelBusy s.arg.obj = false → (s.obj s.arg.obj).direct = false → s.pkg.frameOf s.arg.obj s.arg.page = none →
      (s.pkg.object s.arg.obj).isSome = true → (s.obj s.arg.obj).lease s.arg.page s.pkg.num = some l → s.pkg.time + 2000 < l.grant + 1000 * l.ldur → s.pkg.freeFrame = some pa → Memory.wf s.pkg.mem = true → Memory.wf (s.obj s.arg.obj).data = true →
      (∀ x, pa ≤ x → x < pa + 0x40000 → Memory.read s.pkg.mem x = 0) →
      ∃ t f, exec .get s = .next t ∧ t.pkg.frames = s.pkg.frames ++ [f] ∧ f.obj = s.arg.obj ∧ f.page = s.arg.page ∧ f.pa = pa ∧ f.write = l.write ∧ f.grant = l.grant ∧ f.ldur = l.ldur ∧ f.token = l.token
        ∧ (∀ k < 0x40000, Memory.read t.pkg.mem (pa + k) = Memory.read (s.obj s.arg.obj).data (s.arg.page * 0x40000 + k))
        ∧ (∀ x, (x < pa ∨ pa + 0x40000 ≤ x) → Memory.read t.pkg.mem x = Memory.read s.pkg.mem x) ∧ t.tile = s.tile ∧ t.pool = s.pool)
  ∧ (∀ (s : State), (s.pkg.frameOf s.arg.obj s.arg.page = none →
        (s.channelBusy s.arg.obj = true ∨ (s.obj s.arg.obj).direct = true ∨ s.pkg.object s.arg.obj = none
          ∨ ∀ l, (s.obj s.arg.obj).lease s.arg.page s.pkg.num = some l → l.grant + 1000 * l.ldur ≤ s.pkg.time + 2000) → exec .get s = .next s)
      ∧ (∀ f, s.pkg.frameOf s.arg.obj s.arg.page = some f → s.pkg.time + 2000 < f.grant + 1000 * f.ldur → exec .get s = .next s)
      ∧ (∀ f, s.pkg.frameOf s.arg.obj s.arg.page = some f → f.grant + 1000 * f.ldur ≤ s.pkg.time + 2000 → s.channelBusy s.arg.obj = true →
          ∃ t, exec .get s = .next t ∧ t.pkg.frameOf s.arg.obj s.arg.page = none ∧ (s.arg.obj, s.arg.page, f.grant + 1000 * f.ldur - 2000) ∈ t.pkg.lostPages))

/-- R381 to R387: a READ lease is granted unless another package holds WRITE, a WRITE lease unless another package
holds any; conflicting holders are sent a revoke; a page that is lapsed until FENCE passes its token, a token below FENCE and an object of
DIRECT mode are not granted (R378), nor is a page of an object that is not open (R375); a renewal carries the time of its grant and comes before the holder's own expiry, and a refusal
drops the resident page; a release gives the lease up, behind the channel's earlier entries (R391); the fence only rises, in a session whose
chain ends in the node's management root (R457); leases run out at
their holder 2 µs early, and at their node, which leaves the page of a WRITE lease lapsed, whether or not the node has taken note of it before the next request.
R408: nothing is released or revoked while the object's node is out of reach.
That a release is one step, the LDUR that a grant records, how a node's endpoint is numbered and reached, and the
sessions of a node are the model's (logs 46, 47, 89, 116, 120 and 122). -/
def Obligations.Leases : Prop :=
  (∀ (s : State), s.poolAway s.arg.obj = true → exec .leaseRelease s = .next s ∧ exec .leaseRevoke s = .next s)
  ∧ (∀ (s : State), s.poolAway s.arg.obj = false → s.channelBusy s.arg.obj = true →
      ∃ t, exec .leaseRelease s = .next t ∧ t.pool = s.pool ∧ (t.pkg.frames.length < s.pkg.frames.length ∨ s.pkg.frameOf s.arg.obj s.arg.page = none))
  ∧ (∀ (s : State), s.pkg.object s.arg.obj = none → s.pkg.frameOf s.arg.obj s.arg.page = none → (s.obj s.arg.obj).lease s.arg.page s.pkg.num = none →
      ∀ i ∈ [Instr.leaseAcquireRead, .leaseAcquireWrite, .leaseRenew], exec i s = .next s)
  ∧ ∀ (s : State), s.channelBusy s.arg.obj = false → (s.pkg.object s.arg.obj).isSome = true → (s.pool.find? (fun o => o.id == s.arg.obj)).isSome = true →
    let id := s.arg.obj
    let page := s.arg.page
    let me := s.pkg.num
    let o := s.obj id
    let ldur := (s.pkg.object id).elim o.ldur (·.ldur)
    let mine := o.leases.find? (fun l => l.page == page && l.pkg == me)
    let after (i : Instr) (p : State → PoolObj → Prop) : Prop := ∃ t, exec i s = .next t ∧ p t (t.obj id) ∧ t.tile.core = s.tile.core ∧ t.tile.near = s.tile.near ∧ (t.obj id).data = o.data
    let granted (i : Instr) (write : Bool) (tok : W64) : Prop := after i (fun _ q => q.leases.filter (fun l => l.page == page && l.pkg == me) = [{ page := page, pkg := me, write := write, grant := s.pkg.time, token := tok, ldur := ldur }]
      ∧ q.leases.filter (fun l => !(l.page == page && l.pkg == me)) = o.leases.filter (fun l => !(l.page == page && l.pkg == me)) ∧ q.fence = o.fence ∧ q.rejects = o.rejects)
    let others (write : Bool) : Prop := ∃ l ∈ o.leases, l.page = page ∧ l.pkg ≠ me ∧ (write = true ∨ l.write = true)
    let lapsed : Prop := ∃ l ∈ o.lapsed, l.1 = page ∧ o.fence.toNat ≤ l.2.toNat
    let late := s.arg.val.toNat < o.fence.toNat
    let asked (i : Instr) (write : Bool) : Prop := after i (fun _ q => q.leases = o.leases ∧ ∀ l ∈ o.leases, l.page = page → l.pkg ≠ me → (write = true ∨ l.write = true) → (page, l.pkg) ∈ q.revokes)
    let served : Prop := ∀ f, s.pkg.frameOf id page = some f → s.pkg.time + 2000 < f.grant + 1000 * f.ldur
    let running : Prop := ∀ l ∈ o.leases, l.page = page → s.pkg.time < l.grant + 1000 * l.ldur
    (o.direct = false → served → running → (¬ lapsed → ¬ others false → (∀ l, mine = some l → l.write = false) → granted .leaseAcquireRead false s.arg.val)
      ∧ (¬ lapsed → ¬ others false → (∃ l, mine = some l ∧ l.write = true) → after .leaseAcquireRead (fun _ q => q.leases = o.leases))
      ∧ (¬ lapsed → others false → asked .leaseAcquireRead false)
      ∧ (¬ late → ¬ lapsed → ¬ others true → granted .leaseAcquireWrite true s.arg.val)
      ∧ (¬ late → ¬ lapsed → others true → asked .leaseAcquireWrite true)
      ∧ (late → after .leaseAcquireWrite (fun _ q => q.leases = o.leases ∧ q.rejects = o.rejects + 1))
      ∧ (lapsed → after .leaseAcquireRead (fun _ q => q.leases = o.leases)))
    ∧ (o.direct = true → served → running → ∀ i ∈ [Instr.leaseAcquireRead, .leaseAcquireWrite], after i (fun _ q => q.leases = o.leases ∧ q.rejects = o.rejects))
    -- a WRITE lease that has run out at the node leaves its page lapsed, at the latest with the next request
    ∧ (∀ l, o.leases = [l] → l.page = page → l.write = true → l.grant + 1000 * l.ldur ≤ s.pkg.time → o.fence.toNat ≤ l.token.toNat → o.direct = false → served →
        after .leaseAcquireRead (fun _ q => q.leases = [] ∧ (page, l.token) ∈ q.lapsed))
    ∧ (∀ l, mine = some l → s.pkg.time + 2000 < l.grant + 1000 * l.ldur → running →
        ((l.write = false ∨ o.fence.toNat ≤ l.token.toNat) → served → granted .leaseRenew l.write l.token)
        ∧ (l.write = true → l.token.toNat < o.fence.toNat →
            (s.pkg.frameOf id page = none → after .leaseRenew (fun _ q => q.leases = o.leases ∧ q.rejects = o.rejects + 1))
            ∧ (∀ f, s.pkg.frameOf id page = some f → s.pkg.time + 2000 < f.grant + 1000 * f.ldur →
                after .leaseRenew (fun t q => q.leases = o.leases ∧ q.rejects = o.rejects + 1 ∧ t.pkg.frameOf id page = none
                  ∧ (id, page, f.grant + 1000 * f.ldur - 2000) ∈ t.pkg.lostPages))))
    ∧ (∀ l, mine = some l → l.grant + 1000 * l.ldur ≤ s.pkg.time + 2000 →
        (served → exec .leaseRenew s = .next s)
        ∧ (∀ f, s.pkg.frameOf id page = some f → f.grant + 1000 * f.ldur ≤ s.pkg.time + 2000 → ∃ t, exec .leaseRenew s = .next t ∧ t.pkg.frameOf id page = none ∧ t.pool = s.pool))
    ∧ (∀ i ∈ [Instr.leaseRelease, .leaseRevoke], (i = .leaseRevoke → (page, me) ∈ o.revokes) → s.pkg.frameOf id page = none →
        after i (fun _ q => (∀ l ∈ q.leases, ¬ (l.page = page ∧ l.pkg = me)) ∧ (page, me) ∉ q.revokes
          ∧ q.leases = o.leases.filter (fun l => !(l.page == page && l.pkg == me)) ∧ q.lapsed = o.lapsed ∧ q.fence = o.fence))
    ∧ ((page, me) ∉ o.revokes → exec .leaseRevoke s = .next s)
    ∧ (let d := s.node o.node
       let open_ := d.sessions.find? (fun x => x.1 == s.arg.session)
       let raised : Prop := after .fenceRaise (fun _ q => q.fence.toNat = max o.fence.toNat s.arg.val.toNat ∧ (∀ k ∈ q.keys, k.since = s.pkg.time) ∧ q.keys.map (·.key) = o.keys.map (·.key)
        ∧ q.lapsed = o.lapsed.filter (fun l => decide (max o.fence.toNat s.arg.val.toNat ≤ l.2.toNat)) ∧ q.leases = o.leases)
       ((∃ k, open_ = some k ∧ k.2 = d.root) → raised)
       ∧ ((∃ k, open_ = some k ∧ k.2 ≠ d.root) → exec .fenceRaise s = .next s)
       ∧ (open_ = none → s.arg.good = false → exec .fenceRaise s = .next s)
       ∧ (open_ = none → s.arg.good = true → s.arg.kek = d.root → raised)
       ∧ (open_ = none → s.arg.good = true → s.arg.kek ≠ d.root → ∃ t, exec .fenceRaise s = .next t ∧ t.pool = s.pool ∧ t.pkg = s.pkg ∧ t.tile = s.tile))
    ∧ (∀ f, s.pkg.frameOf id page = some f →
        (s.pkg.time + 2000 < f.grant + 1000 * f.ldur → exec .leaseLocalExpiry s = .next s)
        ∧ (f.grant + 1000 * f.ldur ≤ s.pkg.time + 2000 → ∃ t, exec .leaseLocalExpiry s = .next t ∧ t.pkg.frameOf id page = none ∧ (id, page, f.grant + 1000 * f.ldur - 2000) ∈ t.pkg.lostPages ∧ t.tile.core = s.tile.core ∧ t.pool = s.pool))
    ∧ (s.pkg.frameOf id page = none → exec .leaseLocalExpiry s = .next s)
    ∧ (∀ l, o.lease page s.arg.pkg = some l →
        (s.pkg.time + 1000 < l.grant + 1000 * l.ldur → exec .leaseNodeExpiry s = .next s)
        ∧ (l.grant + 1000 * l.ldur ≤ s.pkg.time + 1000 → after .leaseNodeExpiry (fun _ q => q.lease page s.arg.pkg = none ∧ q.lapsed = (if l.write then o.lapsed ++ [(page, l.token)] else o.lapsed))))
    ∧ (o.lease page s.arg.pkg = none → exec .leaseNodeExpiry s = .next s)

end

/-! ### Sprout, the page tables of a pod, and the links -/

section
open Sys2Proof Sys2Proof.Machine

/-- R393 to R396: only firmware publishes; a published record of the window of 16 whose pages are taken is FETCHING: the lease of its page is
taken, with its TOKEN, and the page is resident under it; one with
every page resident under its lease before its DEADLINE becomes READY, and no other; one past its DEADLINE, with a malformed list or with a refused request FAILS and SPDONE passes it in
order, one whose launch has ended is DONE, and its page goes with its lease; half of LDUR after a grant a named page is renewed, and one that
x.pref has asked for never is (R433). R398 and R399: a
record of the table multicast is applied in sequence order and acknowledged; a package that has not acknowledged one for
100 µs is no member; one that is admitted again has every record. The record stands in the local-object region.
The numbering of the records, the base of a replica, and that an admission gives the base of a tenant's tables are the model's (logs 55 and 27). -/
def Obligations.SproutAndPod : Prop :=
  (∀ (s : State), let quiet := s.pkg.fw.state = 2 ∨ s.pkg.fw.state = 3
      (s.arg.req = .acornF → ¬ quiet → exec .sproutPublish s = .next (s.updP (fun p => { p with regs := { p.regs with sppub := s.arg.val.extractLsb' 0 32 } })))
      ∧ ((s.arg.req ≠ .acornF ∨ quiet) → exec .sproutPublish s = .next s))
  ∧ (∀ (s : State), s.MemForm → s.pkg.prefetch = [] → (∀ u ∈ s.allTiles, u.ord.l1 = []) → s.pkg.host = [] →
      let n := s.arg.idx
      let ahead := (n - s.pkg.regs.spdone).toNat < min 16 (s.pkg.regs.sppub - s.pkg.regs.spdone).toNat
      let at_ := s.pkg.regs.spbase.toNat + 64 * (n.toNat % 64)
      let field (o k : Nat) : Nat := Spec.number (s.pkg.homeN (at_ + o) k)
      let state := field 0x1A 1
      let bare := field 0x1C 4 = 0 ∧ field 0x20 8 % 16 = 0
      let becomes (i : Instr) (v : Nat) : Prop := ∃ t, exec i s = .next t ∧ (t.pkg.home (at_ + 0x1A)).toNat = v ∧ (∀ x, x / 64 ≠ at_ / 64 → t.pkg.home x = s.pkg.home x)
        ∧ t.tile.core = s.tile.core ∧ t.tile.near = s.tile.near ∧ (v ≥ 4 → n = s.pkg.regs.spdone → (t.pkg.regs.spdone - n).toNat ≥ 1) ∧ (v < 4 → t.pkg.regs = s.pkg.regs)
      at_ % 64 = 0 → at_ + 64 ≤ s.pkg.bound →
      (¬ ahead → ∀ i ∈ [Instr.sproutFetch, .scheduleReady, .scheduleDeadline, .sproutStepDone], exec i s = .next s)
      ∧ (ahead → bare → state ≤ 1 → becomes .sproutFetch 1)
      ∧ (ahead → bare → state = 1 → (field 0x30 8 = 0 ∨ s.pkg.time < field 0x30 8) → becomes .scheduleReady 2)
      ∧ ((state ≠ 1 ∨ (field 0x30 8 ≠ 0 ∧ field 0x30 8 ≤ s.pkg.time)) → exec .scheduleReady s = .next s)
      ∧ (ahead → bare → state ≤ 1 → field 0x30 8 ≠ 0 → field 0x30 8 ≤ s.pkg.time → becomes .scheduleDeadline 5)
      ∧ ((field 0x30 8 = 0 ∨ s.pkg.time < field 0x30 8) → exec .scheduleDeadline s = .next s)
      ∧ (ahead → 256 < field 0x1C 4 → state ≤ 1 → becomes .sproutFetch 5)
      ∧ (ahead → bare → state = 3 → (∃ l, s.pkg.launch (field 0x18 2) = some l ∧ ∃ k, l.st = .ended k) → becomes .sproutStepDone 4)
      -- a record that names one page
      ∧ (let plist := field 0x20 8
         let entry (o k : Nat) : Nat := Spec.number (s.pkg.homeN (plist + o) k)
         let id := entry 0 6
         let page := entry 8 4
         let write : Bool := entry 6 2 % 4 == 2
         let tok : W64 := BitVec.ofNat 64 (field 0x10 8)
         let o := s.obj id
         let me := s.pkg.num
         let deadline := field 0x30 8
         field 0x1C 4 = 1 → plist % 16 = 0 → (plist + 16 ≤ at_ ∨ at_ + 64 ≤ plist) → entry 12 4 = 1 → (entry 6 2 % 4 = 1 ∨ entry 6 2 % 4 = 2) →
         (∃ d, s.pkg.object id = some d ∧ d.direct = false) → (s.pool.find? (fun o => o.id == id)).isSome = true → o.direct = false → ahead →
         (state ≤ 1 → s.pkg.recTaken = [] → s.pkg.frameOf id page = none → s.channelBusy id = false → (∀ l ∈ o.leases, l.page ≠ page) → (∀ l ∈ o.lapsed, l.1 ≠ page) →
            ((write = true → o.fence.toNat ≤ tok.toNat) → ∀ pa, s.pkg.freeFrame = some pa → ∃ t f l, exec .sproutFetch s = .next t ∧ (t.pkg.home (at_ + 0x1A)).toNat = 1
              ∧ t.pkg.frameOf id page = some f ∧ f.pa = pa ∧ f.write = write ∧ f.token = tok ∧ f.grant = s.pkg.time
              ∧ (t.obj id).lease page me = some l ∧ l.write = write ∧ l.token = tok ∧ l.grant = s.pkg.time ∧ (n, id, page) ∈ t.pkg.recTaken ∧ t.tile.core = s.tile.core ∧ t.tile.near = s.tile.near)
            ∧ (write = true → tok.toNat < o.fence.toNat → ∃ t, exec .sproutFetch s = .next t ∧ (t.pkg.home (at_ + 0x1A)).toNat = 5
                ∧ (t.obj id).rejects = o.rejects + 1 ∧ (t.obj id).leases = o.leases ∧ t.pkg.frames = s.pkg.frames ∧ (n = s.pkg.regs.spdone → (t.pkg.regs.spdone - n).toNat ≥ 1)))
         ∧ (let served : Prop := ∃ f, s.pkg.frameOf id page = some f ∧ (f.write = true ∨ write = false) ∧ s.pkg.time + 2000 < f.grant + 1000 * f.ldur ∧ (o.lease page me).isSome = true
            (state = 1 → (deadline = 0 ∨ s.pkg.time < deadline) → served → (n, id, page) ∈ s.pkg.recTaken → becomes .scheduleReady 2)
            ∧ ((¬ served ∨ (n, id, page) ∉ s.pkg.recTaken) → exec .scheduleReady s = .next s))
         ∧ (∀ l f, state = 3 → (∃ y k, s.pkg.launch (field 0x18 2) = some y ∧ y.st = .ended k) → n = s.pkg.regs.spdone → s.pkg.regs.sppub = n + 1 → s.channelBusy id = false →
            o.lease page me = some l → s.pkg.frameOf id page = some f → s.pkg.bound ≤ f.pa → ∃ t, exec .sproutStepDone s = .next t ∧ (t.pkg.home (at_ + 0x1A)).toNat = 4
              ∧ t.pkg.frameOf id page = none ∧ (t.obj id).lease page me = none ∧ t.pkg.regs.spdone = n + 1 ∧ t.tile.core = s.tile.core ∧ t.tile.near = s.tile.near))
      ∧ (ahead → state ≤ 2 → exec .sproutStepDone s = .next s))
  ∧ (∀ (s : State), (s.pkg.frameOf s.arg.obj s.arg.page = none → exec .sproutRenew s = .next s)
      ∧ (∀ f, s.pkg.frameOf s.arg.obj s.arg.page = some f →
          (s.pkg.time < f.grant + 500 * f.ldur → exec .sproutRenew s = .next s)
          ∧ (s.pkg.namedBy (fun _ => true) s.arg.obj s.arg.page = false → f.forTask = false → exec .sproutRenew s = .next s)
          ∧ (f.grant + 500 * f.ldur ≤ s.pkg.time → s.pkg.time + 2000 < f.grant + 1000 * f.ldur → s.channelBusy s.arg.obj = false → s.pkg.namedBy (fun _ => true) s.arg.obj s.arg.page = true →
              (s.pool.find? (fun o => o.id == s.arg.obj)).isSome = true → (∀ l ∈ (s.obj s.arg.obj).leases, l.page = s.arg.page → s.pkg.time + 2000 < l.grant + 1000 * l.ldur) →
              ∀ l, (s.obj s.arg.obj).lease s.arg.page s.pkg.num = some l → (l.write = false ∨ (s.obj s.arg.obj).fence.toNat ≤ l.token.toNat) →
              ∃ t g, exec .sproutRenew s = .next t ∧ t.pkg.frameOf s.arg.obj s.arg.page = some g ∧ g.grant = s.pkg.time ∧ g.pa = f.pa ∧ g.write = l.write ∧ t.tile = s.tile ∧ t.pkg.mem = s.pkg.mem)))
  ∧ (∀ (s : State), s.pkg.member = true → s.peers = [] → s.pkg.podOut = [] → s.arg.pkg = s.pkg.num → s.arg.seq = s.pkg.podSeq → s.pkg.expects s.pkg.num = s.pkg.podSeq →
      let a := s.arg.area + 8 * s.arg.off
      (a % 8 = 0 → a + 8 ≤ s.pkg.bound → ∃ t, exec .podTableRecord s = .next t ∧ t.pkg.homeN a 8 = Spec.bytes 8 s.arg.val ∧ t.pkg.podSeq = s.pkg.podSeq + 1
        ∧ t.pkg.expects s.pkg.num = s.pkg.podSeq + 1 ∧ t.pkg.podOut = [] ∧ t.tile.core = s.tile.core ∧ t.tile.near = s.tile.near))
  ∧ (∀ (s : State) (p : Package), s.peers.find? (fun p => p.num == s.arg.pkg) = some p → s.pkg.num ≠ s.arg.pkg → s.pkg.member = true →
      (∀ r, p.podOut.find? (fun r => r.seq == s.arg.seq) = some r → s.pkg.expects s.arg.pkg ≠ s.arg.seq → exec .podTableRecord s = .next s)
      ∧ (p.podOut.find? (fun r => r.seq == s.arg.seq) = none → exec .podTableRecord s = .next s))
  ∧ (∀ (s : State), ((∃ r ∈ s.pkg.podOut, r.sent + 100000 ≤ s.pkg.time ∧ s.arg.pkg ∉ r.acked) → ∃ t, exec .podMemberRemove s = .next t
        ∧ (∀ p ∈ t.pkg :: t.peers, p.num = s.arg.pkg → p.member = false) ∧ (t.pkg :: t.peers).map (·.num) = (s.pkg :: s.peers).map (·.num) ∧ t.tile = s.tile ∧ t.pool = s.pool ∧ t.pkg.mem = s.pkg.mem)
      ∧ ((∀ r ∈ s.pkg.podOut, s.pkg.time < r.sent + 100000 ∨ s.arg.pkg ∈ r.acked) → exec .podMemberRemove s = .next s))
  ∧ (∀ (s : State), ∃ t, exec .podMemberAdmit s = .next t ∧ t.pkg.member = true ∧ t.pkg.failed = false ∧ (∀ p ∈ s.pkg :: s.peers, (p.num, p.podSeq) ∈ t.pkg.podNext)
      ∧ (∀ p ∈ t.pkg :: t.peers, ∀ r ∈ p.podOut, s.pkg.num ∈ r.acked) ∧ (s.arg.tenant.toNat, s.arg.val) ∈ t.pkg.podRoots ∧ t.tile = s.tile ∧ t.pkg.mem = s.pkg.mem ∧ t.pool = s.pool)

/-- R404: the stages of a bring-up, their timeouts, the DEST(p, w) and the link identity that IDENT learns (R402), and DOWN after the third failed
attempt; R421: PARAM ends only with buffers that meet the rule. R403: firmware computes the λ0 forwarding table. R401 and R406: a codeword's ten flits
are delivered once and in order, one that does not decode and one after a gap are asked for again, an acknowledgement frees what is
kept, a replay sends it again, and a port with too many codewords that do not decode starts its bring-up again. R420: a receiver
pauses a channel at XOFF and resumes it at XON. R400, R405 and R407: a failed engine's ports move to its sibling with λ0 only and
what is not acknowledged is sent again, or with both failed are DOWN. R408: an endpoint without a path for 1 ms is unreachable.
How attempts are counted and the stage of a port that is DOWN, the order of the ports in a link identity, and the millisecond that is
counted, and that a port whose λ0 the light budget cannot take does not come up (R415), are the model's (logs 74, 114, 115 and 125). -/
def Obligations.Links : Prop :=
  ∀ (s : State),
    let o := s.pkg.optics
    let n := s.arg.port.toNat
    let now := s.pkg.time
    let with_ (i : Instr) (f : Port → Port) : Prop := exec i s = .next (s.updP (fun p => { p with optics := { p.optics with ports := p.optics.ports.modify n f } }))
    let untouched (t : State) : Prop := t.tile = s.tile ∧ t.pkg.mem = s.pkg.mem ∧ t.pool = s.pool
    -- the ports change, and with them the paths to endpoints
    let ports (i : Instr) (f : Port → Port) : Prop := ∃ t, exec i s = .next t ∧ t.pkg.optics.ports = o.ports.modify n f ∧ t.pkg.optics.resvs = o.resvs ∧ untouched t
    (∀ p, o.ports[n]? = some p →
      let late : Prop := p.since + 1000000 * [0, 50, 20, 10, 5, 2, 2, 1].getD p.stage 0 < now
      let seen : Option Nat := if s.arg.amount < o.berlo then none else some (p.lowSince.getD now)
      let fails (i : Instr) : Prop :=
        (p.tries < 2 → with_ i (fun p => { p with retry := min 15 (p.retry + 1), tries := p.tries + 1, stage := 1, since := now }))
        ∧ (2 ≤ p.tries → ∃ t q, exec i s = .next t ∧ t.pkg.optics.ports[n]? = some q ∧ q.state = 0 ∧ q.stage = 0 ∧ q.retry = min 15 (p.retry + 1)
            ∧ (s.pkg.events.length < 1024 → t.pkg.events = s.pkg.events ++ [.linkDown n]) ∧ untouched t)
      ports .bringupStart (fun p => { p with stage := 1, state := 1, tries := 0, lit := [], grants := [], since := now })
      ∧ (p.state ≠ 1 → exec .bringupStageDone s = .next s ∧ exec .bringupStageTimeout s = .next s)
      ∧ (p.state = 1 → late → fails .bringupStageDone ∧ fails .bringupStageTimeout)
      ∧ (p.state = 1 → ¬ late → exec .bringupStageTimeout s = .next s)
      ∧ (p.state = 1 → ¬ late → (p.stage = 1 ∨ p.stage = 2 ∨ p.stage = 3) → ports .bringupStageDone (fun p => { p with stage := p.stage + 1, since := now }))
      ∧ (p.state = 1 → ¬ late → p.stage = 1 → ∀ g, o.engs[p.eng]? = some g → ∃ t, exec .bringupStageDone s = .next t ∧ t.pkg.optics.engs[p.eng]? = some { g with temp := s.arg.temp })
      ∧ (p.state = 1 → ¬ late → p.stage = 4 → o.berhi ≤ s.arg.amount → ports .bringupStageDone (fun p => { p with ber := s.arg.amount, lowSince := seen, stage := 5, since := now }))
      ∧ (p.state = 1 → ¬ late → p.stage = 4 → s.arg.amount < o.berhi → ports .bringupStageDone (fun p => { p with ber := s.arg.amount, lowSince := seen }))
      ∧ (p.state = 1 → ¬ late → p.stage = 5 → ∃ t q, exec .bringupStageDone s = .next t ∧ untouched t ∧ t.pkg.optics.ports[n]? = some q ∧ q.stage = 6 ∧ q.state = 1
          ∧ (∀ w e, (w, e) ∈ q.dest ↔ w < 64 ∧ s.arg.dest.find? (fun x => x.1 == w) = some (w, e))
          ∧ q.linkId.extractLsb' 21 11 = BitVec.ofNat 11 (min s.pkg.num s.arg.pkg) ∧ q.linkId.extractLsb' 10 11 = BitVec.ofNat 11 (max s.pkg.num s.arg.pkg)
          ∧ (s.pkg.num < s.arg.pkg → q.linkId.extractLsb' 5 5 = s.arg.port ∧ q.linkId.extractLsb' 0 5 = BitVec.ofNat 5 s.arg.ix)
          ∧ (s.arg.pkg < s.pkg.num → q.linkId.extractLsb' 0 5 = s.arg.port ∧ q.linkId.extractLsb' 5 5 = BitVec.ofNat 5 s.arg.ix))
      ∧ (p.state = 1 → ¬ late → p.stage = 6 →
          let meets : Prop := s.arg.bufs.length = 4 ∧ ∀ b ∈ s.arg.bufs, b.2.1 + (112 * s.arg.amount + 511) / 512 ≤ b.1 ∧ b.2.2 + 64 ≤ b.2.1
          (meets → ports .bringupStageDone (fun p => { p with stage := 7, since := now, rtt := s.arg.amount, bufs := s.arg.bufs.map (fun b => { size := b.1, xoff := b.2.1, xon := b.2.2 }) }))
          ∧ (¬ meets → fails .bringupStageDone))
      ∧ (p.state = 1 → ¬ late → p.stage = 7 →
          let lights : Nat := (o.ports.mapIdx (fun k p => if k = n ∨ 2 ≤ p.state then 6 + p.lpwr else 0)).sum
          (lights ≤ o.lbudget → ∃ t q, exec .bringupStageDone s = .next t ∧ untouched t ∧ t.pkg.optics.fwd = s.arg.fwd ∧ t.pkg.optics.ports[n]? = some q
            ∧ q.state = (if p.eng = n / 4 then 2 else 3) ∧ q.bufs = p.bufs ∧ q.dest = p.dest ∧ q.linkId = p.linkId)
          ∧ (o.lbudget < lights → fails .bringupStageDone))
      ∧ (let at_ (p : Port) (lam : BitVec 6) : RxPos := (p.rx.find? (fun r => r.lam == lam)).getD { lam := lam, next := 0, delivered := 0 }
         let rx := at_ p s.arg.lam
         let seq := s.arg.cseq
         let gap := (rx.next - seq).toNat ≥ 2 ^ 15
         let bad : Prop := p.winFrom + 1000000 ≤ now ∧ p.winAll < 10000 * p.winBad
         (bad → ∃ t q, exec .codewordReceive s = .next t ∧ untouched t ∧ t.pkg.optics.ports[n]? = some q ∧ q.state = 1 ∧ q.stage = 1 ∧ q.tries = 0 ∧ q.lit = [] ∧ q.grants = []
            ∧ q.since = now ∧ q.uncor = p.uncor + (if s.arg.good = true then 0 else 1))
         ∧ (¬ bad → s.arg.count = 0 → ∃ t q, exec .codewordReceive s = .next t ∧ t.pkg.optics.ports[n]? = some q ∧ untouched t
            ∧ (∀ lam, lam ≠ s.arg.lam → at_ q lam = at_ p lam) ∧ q.replay = p.replay ∧ q.state = p.state
            ∧ (s.arg.good = false → q.uncor = p.uncor + 1 ∧ at_ q s.arg.lam = rx ∧ q.askReplay = p.askReplay ++ [(s.arg.lam, rx.next)])
            ∧ (s.arg.good = true → seq = rx.next → at_ q s.arg.lam = { rx with next := rx.next + 1, delivered := rx.delivered + 1, buf := rx.buf ++ (s.arg.flits.take 10).filter (fun (f : Flit) => f.kind != FlitKind.idle) }
                ∧ (s.arg.lam, seq) ∉ q.askReplay ∧ q.uncor = p.uncor)
            ∧ (s.arg.good = true → seq ≠ rx.next → ¬ gap → at_ q s.arg.lam = rx ∧ q.uncor = p.uncor ∧ q.askReplay = p.askReplay)
            ∧ (s.arg.good = true → seq ≠ rx.next → gap → at_ q s.arg.lam = rx ∧ q.uncor = p.uncor ∧ (s.arg.lam, rx.next) ∈ q.askReplay)
            ∧ (∀ (v : BitVec 2) (b : VcBuf), p.bufs[v.toNat]? = some b →
                let fill := ((at_ q s.arg.lam).buf.filter (fun f => f.vc == v)).length
                ((s.arg.lam, v) ∈ q.pausing ↔ if (s.arg.lam, v) ∈ p.pausing then b.xon < fill else b.xoff ≤ fill))))
      ∧ (let upto (a b : BitVec 16) : Prop := (b - a).toNat < 2 ^ 15
         (∃ t q, exec .replayRequest s = .next t ∧ t.pkg.optics.ports[n]? = some q ∧ untouched t ∧ q.replay.map (fun c => (c.lam, c.seq)) = p.replay.map (fun c => (c.lam, c.seq))
          ∧ (∀ c ∈ q.replay, c.lam = s.arg.lam → upto s.arg.cseq c.seq → c.sent = false) ∧ q.rx = p.rx)
         ∧ (∃ t q, exec .replayAcknowledgement s = .next t ∧ t.pkg.optics.ports[n]? = some q ∧ untouched t
          ∧ (∀ c, c ∈ q.replay ↔ c ∈ p.replay ∧ ¬ (c.lam = s.arg.lam ∧ upto c.seq s.arg.cseq)) ∧ q.rx = p.rx)))
    ∧ (let e := s.arg.ix % 8
       let twin := if e % 2 = 0 then e + 1 else e - 1
       let fails : Prop := s.arg.good = false ∨ 3 ≤ (o.ports.filter (fun p => p.eng == e && p.state == 0)).length
       (∀ g, o.engs[e]? = some g → (g.dead = true ∨ ¬ fails) → exec .engineFailover s = .next s)
       ∧ (∀ g h, o.engs[e]? = some g → o.engs[twin]? = some h → g.dead = false → fails → ∃ t g' h', exec .engineFailover s = .next t ∧ untouched t
           ∧ t.pkg.optics.engs[e]? = some g' ∧ g'.dead = true ∧ g'.failed = !h.dead ∧ g'.carry = false ∧ g'.temp = s.arg.temp ∧ g'.focnt = g.focnt + (if h.dead then 0 else 1)
           ∧ t.pkg.optics.engs[twin]? = some h' ∧ h'.failed = h.failed ∧ h'.dead = h.dead ∧ h'.carry = !h.dead
           ∧ (∀ (k : Nat) (p : Port), o.ports[k]? = some p → p.eng ≠ e → ∃ q : Port, t.pkg.optics.ports[k]? = some q ∧ q = { p with lit := q.lit } ∧ ∀ x ∈ q.lit, x ∈ p.lit)
           ∧ (∀ (k : Nat) (p : Port), o.ports[k]? = some p → p.eng = e → ∃ q : Port, t.pkg.optics.ports[k]? = some q ∧ q.lit = [] ∧ q.grants = []
               ∧ (h.dead = false → q.eng = twin ∧ q.tx = p.tx ∧ q.linkId = p.linkId ∧ (∀ c ∈ q.replay, c.sent = false)
                   ∧ (let fits : Prop := (o.ports.map (fun p => if p.eng = e ∨ 2 ≤ p.state then 6 + p.lpwr else 0)).sum ≤ o.lbudget
                      ((2 ≤ p.state ∨ fits) → q.state = 3) ∧ (p.state < 2 → ¬ fits → q.state = p.state)))
               ∧ (h.dead = true → q.state = 0))
           ∧ t.pkg.life.now.failover.toNat = min (2 ^ 64 - 1) (s.pkg.life.now.failover.toNat + if h.dead then 0 else 1)
           ∧ (s.pkg.events.length < 1024 → t.pkg.events = s.pkg.events ++ [.linkDown (4 * e)])))
    ∧ (let due : Prop := ∃ t0, s.pathless s.arg.pkg = some t0 ∧ t0 + 1000000 ≤ now
       (due → s.arg.pkg ∉ o.unreachable → exec .endpointUnreachable s = .next (s.updP (fun p => { p with optics := { p.optics with unreachable := p.optics.unreachable ++ [s.arg.pkg] } })))
       ∧ ((¬ due ∨ s.arg.pkg ∈ o.unreachable) → exec .endpointUnreachable s = .next s))

end

/-! ### Slots, power, flow control, peers and the time base -/

section
open Sys2Proof Sys2Proof.Machine

/-- R409 to R412, R416 to R418, R420, R422, R423, R435 and R88: at a boundary of 4 µs every port samples its queues, every granted slot lights and every other
goes dark; a receiver grants its 15 slots but those that reservations hold, at most 8; a grant later than 3.8 µs is void, and so is one of a
reservation that its port, its WMAX or its timeout does not take; a bad link takes a step of
launch power, at the cost of slots where the budget does not take it, those with the fewest queued bytes first and reserved ones last, each counted in
WCUT, and gives it back; where λ0 alone cannot take the level it stays; a paused channel resumes; a peer's write is performed at its home or faults
the command that sent it, and one that a failed package has lost is not performed; a collective that is not matched in CTO faults; TIME only moves forward, by at most 100 ppm, within 1 µs
of every other clock. R401 and R406: the codewords of a cycle are those to be sent again, then new ones of ten flits with the next sequence numbers.
R414: a flit goes only on a wavelength that leads to its channel's endpoint, and a channel sends nothing on a path while a codeword of it on another one is not acknowledged.
What a boundary samples, when WCUT counts, the direction of TIME_SYNC, and that a peer's entry waits while there is no path are the model's (logs 75, 76, 85, 88 and 120). -/
def Obligations.SlotsAndPeers : Prop :=
  ∀ (s : State),
    let o := s.pkg.optics
    let n := s.arg.port.toNat
    let now := s.pkg.time
    let with_ (i : Instr) (f : Port → Port) : Prop := exec i s = .next (s.updP (fun p => { p with optics := { p.optics with ports := p.optics.ports.modify n f } }))
    let untouched (t : State) : Prop := t.tile = s.tile ∧ t.pkg.mem = s.pkg.mem ∧ t.pool = s.pool
    (now / 4000 ≤ o.cycle → exec .pecanCycle s = .next s)
    ∧ (o.cycle < now / 4000 → o.ports.length = 32 → ∃ t, exec .pecanCycle s = .next t ∧ t.pkg.optics.cycle = now / 4000 ∧ untouched t
        ∧ (∀ (k : Nat) (p : Port), o.ports[k]? = some p → ∃ q : Port, t.pkg.optics.ports[k]? = some q ∧ q.grants = [] ∧ q.given = [] ∧ (p.state < 2 → q.lit = []) ∧ q.lit.length ≤ 15
            ∧ q.queued = (s.arg.heat.filter (fun x => x.1 == k)).map (·.2)
            ∧ ((∀ x ∈ s.arg.sends, x.port.toNat ≠ k) → q.replay = p.replay ∧ q.tx = p.tx)
            ∧ (∀ x, s.arg.sends = [x] → x.port.toNat = k → (x.lam = 0 ∨ ∃ y ∈ p.lit, y.2 = x.lam.toNat) → 2 ≤ p.state → p.paused = [] → x.count = 1 →
                let sent (f : BitVec 4) (fl : List Flit) : Prop := q.txAt x.lam = p.txAt x.lam + 1
                  ∧ ∃ c, q.replay = [c] ∧ c.lam = x.lam ∧ c.seq = p.txAt x.lam ∧ c.sent = true ∧ c.flags = f ∧ c.flits.toList = fl ++ List.replicate (10 - fl.length) { kind := .idle, bytes := 0 }
                (∀ c, p.replay = [c] → c.lam = x.lam → c.sent = false → q.replay = [{ c with sent := true }] ∧ q.txAt x.lam = p.txAt x.lam)
                ∧ (∀ (f : BitVec 4) (fl : List Flit), p.replay = [] → x.cws = [(f, fl)] → (∀ g ∈ fl, g.chan = none) → sent f (fl.take 10))
                ∧ (∀ (f : BitVec 4) (g : Flit) (ch : Chan), p.replay = [] → x.cws = [(f, [g])] → g.chan = some ch →
                    let waits := ∃ (j : Nat) (r : Port), o.ports[j]? = some r ∧ ∃ c ∈ r.replay, ∃ h ∈ c.flits.toList, h.chan = some ch
                    ((waits ∨ s.pkg.leads k x.lam ch = false) → sent f [])
                    ∧ (¬ waits → s.pkg.leads k x.lam ch = true → sent f [g])))
            ∧ (2 ≤ p.state → (∀ r ∈ o.resvs, r.port ≠ k) → p.grants = [] → q.lit = [])
            ∧ ∀ d c lam, p.grants = [(d, c)] → (∀ r ∈ o.resvs, r.port ≠ k) → 2 ≤ p.state → p.dest.find? (fun x => x.2 == d && x.1 != 0) = some (lam, d) → c ≤ 15 → o.lbudget ≥ 32 * 16 * 13 →
                (∀ p ∈ o.ports, p.lit.length ≤ 15 ∧ p.lpwr ≤ 7) → q.lit = (List.range c).map (fun i => (i + 1, lam))))
    ∧ (∀ p, o.ports[n]? = some p →
        let sum (xs : List (Nat × Nat)) : Nat := (xs.map (·.2)).sum
        let others := p.rxResv.filter (fun x => x.1 != s.arg.pkg)
        (s.arg.write = true → s.arg.dest = [] → with_ .pecanRequest (fun _ => { p with
            rxResv := if sum others + s.arg.count ≤ 8 ∧ sum others + s.arg.count + sum p.given ≤ 15 then others ++ (if s.arg.count = 0 then [] else [(s.arg.pkg, s.arg.count)]) else p.rxResv }))
        ∧ (∀ d c, s.arg.write = false → p.given = [] → sum p.rxResv ≤ 8 → s.arg.dest = [(d, c)] → 0 < c →
            with_ .pecanRequest (fun _ => { p with given := [(d, min c (15 - sum p.rxResv))], lastServed := d }))
        ∧ (∀ a b, s.arg.write = false → p.given = [] → p.rxResv = [] → s.arg.dest = [(a, 15), (b, 15)] → a < 65536 → b < 65536 → a ≠ b → ∃ t q, exec .pecanRequest s = .next t ∧ t.pkg.optics.ports[n]? = some q
            ∧ q.given = [(if (b + 65535 - p.lastServed) % 65536 < (a + 65535 - p.lastServed) % 65536 then b else a, 15)]))
    ∧ (3800 < now % 4000 → exec .pecanGrant s = .next s)
    ∧ (now % 4000 ≤ 3800 → s.arg.write = false → ∀ c, (o.requests n ((o.ports[n]?).getD {})).find? (fun r => r.1 == s.arg.ix) = some (s.arg.ix, c) → 0 < min s.arg.count c →
        with_ .pecanGrant (fun p => { p with grants := p.grants.filter (fun g => g.1 != s.arg.ix) ++ [(s.arg.ix, min s.arg.count c)] }))
    ∧ (now % 4000 ≤ 3800 → s.arg.write = true → ∀ r, o.resvs = [r] → r.id = s.arg.obj → r.granted = false → r.port < 32 →
        (r.slots ≤ min 8 (o.wmax r.port - 1) → now < r.since + r.cto →
          exec .pecanGrant s = .next (s.updP (fun p => { p with optics := { p.optics with resvs := [{ r with granted := true }] } })))
        ∧ ((min 8 (o.wmax r.port - 1) < r.slots ∨ r.since + r.cto ≤ now) → exec .pecanGrant s = .next s))
    ∧ (∀ p, o.ports[n]? = some p →
        let seen : Port := { p with ber := s.arg.amount, lowSince := if s.arg.amount < o.berlo then none else some (p.lowSince.getD now) }
        let lv : Nat := min 7 (p.lpwr + 1 + match p.lastCut with
          | some t0 => if now < t0 + 1000000 then 1 else 0
          | none => 0)
        let others : Nat := o.used - p.width * (6 + p.lpwr)
        (s.arg.amount < o.berhi → p.lpwr < 7 → (∀ t0, p.lastRaise = some t0 → t0 + 1000000 ≤ now) →
          (others + p.width * (6 + lv) ≤ o.lbudget → with_ .lpwrRaise (fun _ => { seen with lpwr := lv, lastRaise := some now, lowSince := none, lastCut := none }))
          ∧ (2 ≤ p.state → p.lit.length ≤ 15 → (p.lit.map (·.1)).Nodup → o.lbudget < others + p.width * (6 + lv) → others + (6 + lv) ≤ o.lbudget →
              ∃ t q k, exec .lpwrRaise s = .next t ∧ untouched t ∧ t.pkg.optics.ports[n]? = some q ∧ q.lpwr = lv ∧ q.lastRaise = some now ∧ 0 < k
                ∧ q.lit.length + k = p.lit.length ∧ (∀ x ∈ q.lit, x ∈ p.lit) ∧ t.pkg.optics.wcut = o.wcut + k ∧ (∀ j, j ≠ n → t.pkg.optics.ports[j]? = o.ports[j]?)
                ∧ others + q.width * (6 + lv) ≤ o.lbudget ∧ o.lbudget < others + (q.width + 1) * (6 + lv)
                ∧ ((∀ r ∈ o.resvs, r.port ≠ n) → t.pkg.optics.resvs = o.resvs ∧ ∀ x ∈ p.lit, x ∉ q.lit → ∀ y ∈ q.lit,
                    ((p.destOf x.2).map p.queuedFor).getD 0 ≤ ((p.destOf y.2).map p.queuedFor).getD 0)
                ∧ (t.pkg.optics.resvs = o.resvs ∨ ∀ y ∈ q.lit, ∃ z ∈ o.reservedSlots n p, z.1 = y.1))
          ∧ (2 ≤ p.state → p.lit.length ≤ 15 → (p.lit.map (·.1)).Nodup → o.lbudget < others + (6 + lv) → with_ .lpwrRaise (fun _ => seen)))
        ∧ ((o.berhi ≤ s.arg.amount ∨ 7 ≤ p.lpwr ∨ ∃ t0, p.lastRaise = some t0 ∧ now < t0 + 1000000) → with_ .lpwrRaise (fun _ => seen))
        ∧ (o.berlo ≤ s.arg.amount → p.lastRaise = none → 0 < p.lpwr → ∀ t0, p.lowSince = some t0 → t0 + 1000000 * o.berhold ≤ now →
            with_ .lpwrReclaim (fun _ => { seen with lpwr := p.lpwr - 1, lowSince := some now, lastCut := some now }))
        ∧ ((s.arg.amount < o.berlo ∨ p.lpwr = 0) → with_ .lpwrReclaim (fun _ => seen)))
    ∧ (∃ t, exec .pauseFlit s = .next t ∧ untouched t ∧ ∀ p, o.ports[n]? = some p → ∃ q : Port, t.pkg.optics.ports[n]? = some q ∧ (s.arg.lam, s.arg.vc) ∈ q.paused ∧ ∀ x ∈ p.paused, x ∈ q.paused)
    ∧ (∃ t, exec .resumeFlit s = .next t ∧ untouched t ∧ ∀ p, o.ports[n]? = some p → ∃ q : Port, t.pkg.optics.ports[n]? = some q ∧ ∀ x, x ∈ q.paused ↔ x ∈ p.paused ∧ x ≠ (s.arg.lam, s.arg.vc))
    ∧ (∀ m r, s.arg.pkg = s.pkg.num → s.pkg.peerCh = m :: r → m.src = s.arg.ix → m.target = s.pkg.num → s.arg.count = 0 → m.lost = true → exec .peerAccess s = .next s)
    ∧ (∀ m r, s.arg.pkg = s.pkg.num → s.pkg.peerCh = m :: r → m.src = s.arg.ix → m.target = s.pkg.num → s.arg.count = 0 → m.lost = false → s.pkg.failed = false →
        (∀ l pa, s.pkg.peerPa m.tenant m.addr true = .ok (l, pa) → pteScrub l.pte = false → pa % 8 = 0 → m.bytes.length = 8 → pa + 8 ≤ s.pkg.bound →
          ∃ t, exec .peerAccess s = .next t ∧ t.pkg.homeN pa 8 = m.bytes ∧ (∀ x ∈ t.pkg.peerCh, x ∈ r) ∧ t.tile.core = s.tile.core ∧ t.tile.near = s.tile.near)
        ∧ (∀ fi, s.pkg.peerPa m.tenant m.addr true = .error fi → fi.code.kind = .trap → fi.eval.isSome = true → m.src = s.tile.phys → s.tile.disp.run = .running → s.tile.eng.stopX = none →
          ∃ t, exec .peerAccess s = .next t ∧ t.tile.eng.stopX = some m.eng ∧ t.pkg.mem = s.pkg.mem ∧ t.tile.core = s.tile.core))
    ∧ ((s.pkg.failed = true ∨ (s.arg.pkg ≠ s.pkg.num ∧ s.pkg.member = false)) → exec .peerAccess s = .next s)
    ∧ (∀ p, s.package s.arg.pkg = some p → s.arg.pkg ≠ s.pkg.num → s.hasPath p s.pkg.num = false → exec .peerAccess s = .next s)
    ∧ (∀ x, s.pkg.colls = [x] → x.group = s.arg.obj → x.count = s.arg.count → x.finished = false → x.phys = s.tile.phys → s.peers = [] → x.first = s.pkg.num → 2 ≤ x.n → x.n ≤ 1024 → s.pkg.num < 1024 →
        (now < x.started + s.tile.sys.cto.toNat → exec .collTimeout s = .next s)
        ∧ (x.started + s.tile.sys.cto.toNat ≤ now → ∃ t, exec .collTimeout s = .next t ∧ t.pkg.colls = [{ x with faulted := true }] ∧ untouched t))
    ∧ (let to_ := now + min s.arg.amount ((now - s.pkg.synced) / 10000)
       ((∀ p ∈ s.peers, p.time ≤ to_ + 1000 ∧ to_ ≤ p.time + 1000) → exec .timeSync s = .next (s.updP (fun p => { p with time := to_, synced := to_ })))
       ∧ (¬ (∀ p ∈ s.peers, p.time ≤ to_ + 1000 ∧ to_ ≤ p.time + 1000) → exec .timeSync s = .next s))

end

/-! ### The host, sessions, firmware and service life -/

section
open Sys2Proof Sys2Proof.Machine

/-- R141, R339, R353, R375, R444 to R450, R455 and R458: the host reads and writes the coherent window and the aperture in aligned
dwords, and nothing else of package memory; an access to its own memory snoops what the package's caches hold of it (R445); an
uncorrectable error that the host meets is an
Event; a write or a read of a sealed frame has no effect but a record, and a write of measured bytes ends their launch with CODE_WRITE
once it has stopped; a register access that is not an
aligned dword reads zero and writes nothing, a reserved page too; another session's page is refused with a record of KIND 1 in that
session; a directory entry is written by a half; a doorbell moves
TAIL, and firmware takes the entry at HEAD: one whose ROOT does not carry the session's TENANT completes with address 0, one without
a writable record too, another that is rejected completes with its record's address; one that is accepted is pending under its cookie
and has its binds, with PRIO capped at the session's limit (R458); firmware reads no mailbox while an update quiesces or hands over
(R460); a heartbeat is counted and timed; a sealed object's capability is tagged and its frames marked.
That the first directory entry which names an object creates it with its LEN, in a management session of its node, is the model's
choice (logs 28 and 122). Page layouts without offsets, the place of an answer, the record of a host's CODE_WRITE, the Event of a host's access to a line in error and the snoops of host memory are the model's (logs 50, 77, 78, 95 and 123). -/
def Obligations.HostEvents : Prop :=
  (∀ (s : State), let pa := s.arg.area
      let frozen (l : Launch) : Prop := s.pkg.lockedBy pa = some l
      let open_ (w : W64) : Prop := w.getLsbD 63 = true ∧ (w.extractLsb' 30 9).toNat * 2 ^ 30 ≤ pa ∧ pa < ((w.extractLsb' 30 9).toNat + (w.extractLsb' 40 6).toNat + 1) * 2 ^ 30 ∧ pa % 8 = 0
      let quiet : Prop := (∀ u ∈ s.allTiles, u.ord.line (pa / 64) = none) ∧ ∀ l ∈ s.pkg.host, l.line ≠ pa / 64
      let own : Prop := pa % 8 = 0 ∧ 2 ^ 51 ≤ pa ∧ pa < 2 ^ 52
      (¬ open_ s.pkg.regs.hcwin → ¬ own → exec .hostCxlMemRead s = .next s ∧ exec .hostCxlMemWrite s = .next s)
      ∧ (own → s.pkg.scrub = [] → s.pkg.l2 = [] → s.pkg.l2kept = [] → ∀ bs : List Byte,
          (s.dirtyOf (pa / 64) = none ∧ bs = s.pkg.homeN pa 8) ∨ (bs.length = 8 ∧ ∃ src l, s.dirtyOf (pa / 64) = some (src, l) ∧ l.line = pa / 64 ∧ l.dirty = Overlay.setN [] pa bs) →
          ∃ t, exec .hostCxlMemRead s = .next t ∧ t.pkg.lastEnd = .data ∧ t.pkg.lastRead = BitVec.ofNat 64 (Spec.number bs) ∧ t.tile.core = s.tile.core ∧ t.tile.near = s.tile.near
            ∧ (∀ u ∈ t.allTiles, ∀ l, u.ord.line (pa / 64) = some l → l.st = .s ∧ l.dirty = []))
      ∧ (own → Memory.wf s.pkg.mem = true → ∃ t, exec .hostCxlMemWrite s = .next t ∧ t.pkg.homeN pa 8 = Spec.bytes 8 s.arg.val ∧ t.tile.core = s.tile.core ∧ t.tile.near = s.tile.near
            ∧ ∀ u ∈ t.allTiles, u.ord.line (pa / 64) = none)
      ∧ (¬ open_ s.pkg.regs.haper → exec .hostCxlIoAccess s = .next s)
      ∧ (open_ s.pkg.regs.hcwin → (∀ f ∈ s.pkg.sealedFrames, f.1 ≠ pa / 0x40000) → pa / 64 ∉ s.pkg.ecc →
          (∃ t, exec .hostCxlMemRead s = .next t ∧ t.pkg.lastEnd = .data ∧ t.pkg.lastRead = BitVec.ofNat 64 (Spec.number (s.coherentBy s.pkg.host pa 8)) ∧ t.pkg.mem = s.pkg.mem ∧ t.pkg.l2 = s.pkg.l2 ∧ t.tile.core = s.tile.core
            ∧ (quiet → t.pkg.host = s.pkg.host ++ [{ line := pa / 64, st := .e, dirty := [], tok := 0 }] ∧ s.coherentBy s.pkg.host pa 8 = s.pkg.homeN pa 8))
          ∧ (s.pkg.lockedBy pa = none → ∃ t, exec .hostCxlMemWrite s = .next t ∧ t.tile.core = s.tile.core ∧ (∀ u ∈ t.allTiles, u.ord.line (pa / 64) = none)
            ∧ (quiet → t.coherentN pa 8 = Spec.bytes 8 s.arg.val ∧ ∃ l ∈ t.pkg.host, l.line = pa / 64 ∧ l.st = .m))
          ∧ (∀ l, frozen l → ∃ t x, exec .hostCxlMemWrite s = .next t ∧ t.pkg.launch l.handle = some x ∧ x.hostFault = true
              ∧ (s.poolOpen l = true → t.pkg.mem = s.pkg.mem ∧ t.pkg.l2 = s.pkg.l2)
              ∧ (s.pkg.resultOk l = false → s.tilesOf l = [] → s.poolOpen l = false → x.st = .ended 1 ∧ x.code = 0x38 ∧ t.pkg.mem = s.pkg.mem ∧ t.pkg.l2 = s.pkg.l2)))
      ∧ (open_ s.pkg.regs.haper → (∀ f ∈ s.pkg.sealedFrames, f.1 ≠ pa / 0x40000) → pa / 64 ∉ s.pkg.ecc →
          (s.arg.write = false → exec .hostCxlIoAccess s = .next (s.updP (fun p => { p with lastRead := BitVec.ofNat 64 (Spec.number (s.pkg.homeN pa 8)), lastEnd := .data })))
          ∧ (s.arg.write = true → s.pkg.lockedBy pa = none → pa + 8 ≤ s.pkg.bound → ∃ t, exec .hostCxlIoAccess s = .next t ∧ t.pkg.homeN pa 8 = Spec.bytes 8 s.arg.val ∧ t.tile.core = s.tile.core ∧ t.tile.near = s.tile.near))
      ∧ (pa / 64 ∈ s.pkg.ecc → s.pkg.events = [] → (∀ f ∈ s.pkg.sealedFrames, f.1 ≠ pa / 0x40000) → s.pkg.lockedBy pa = none →
          ∀ i, (open_ s.pkg.regs.hcwin ∧ (i = .hostCxlMemRead ∨ i = .hostCxlMemWrite)) ∨ (open_ s.pkg.regs.haper ∧ i = .hostCxlIoAccess) →
            ∃ t, exec i s = .next t ∧ t.pkg.events = [.memError (pa / 64)] ∧ t.tile.core = s.tile.core)
      ∧ (∀ tn, s.pkg.sealedFrames = [(pa / 0x40000, tn)] → ∀ x, s.pkg.sessions = [x] → x.tenant.toNat = tn →
          ∀ i, (open_ s.pkg.regs.hcwin ∧ (i = .hostCxlMemRead ∨ i = .hostCxlMemWrite)) ∨ (open_ s.pkg.regs.haper ∧ i = .hostCxlIoAccess) →
            exec i s = .next (s.updP (fun p => { p with sessions := [x.append s.pkg.time 3 0 pa],
                                                        lastEnd := if i = .hostCxlMemRead then .poison else if i = .hostCxlIoAccess ∧ s.arg.write = false then .abort else p.lastEnd }))))
  ∧ (∀ (s : State), let off := s.arg.off
      let answered (v : W64) : State := s.updP (fun p => { p with lastRead := v })
      let page := off / 0x10000
      ((off % 8 ≠ 0 ∨ s.arg.count ≠ 8 ∨ 2 ^ 30 ≤ off) → exec .registerRead s = .next (answered 0) ∧ exec .registerWrite s = .next s)
      ∧ (off % 8 = 0 → s.arg.count = 8 → 0x302 ≤ page → off < 2 ^ 30 → exec .registerRead s = .next (answered 0) ∧ exec .registerWrite s = .next s)
      ∧ (s.arg.count = 8 → ∀ x, 0x200 ≤ page → page < 0x300 → off % 8 = 0 → s.pkg.sessions = [x] → x.num = page - 0x200 →
          (∀ m, s.arg.req = .ide m → m ≠ x.num → exec .registerRead s = .next ((s.updP (fun p => { p with sessions := [x.append s.pkg.time 1 0 off] })).updP (fun p => { p with lastRead := 0 }))
            ∧ exec .registerWrite s = .next (s.updP (fun p => { p with sessions := [x.append s.pkg.time 1 0 off] })))
          ∧ (s.arg.req = .ide x.num → off % 0x10000 = 0x08 → exec .registerRead s = .next (answered x.hbseq))
          ∧ (s.arg.req = .ide x.num → off % 0x10000 = 0x10 → exec .registerRead s = .next (answered x.hbtime))
          ∧ (s.arg.req = .ide x.num → off % 0x10000 < 0x8000 → exec .registerWrite s = .next s))
      ∧ (s.arg.count = 8 → s.arg.req = .acornF →
          let wrote (a : Nat) (f : SchedRegs → SchedRegs) : Prop := off = 0x410000 + a → exec .registerWrite s = .next (s.updP (fun p => { p with regs := f p.regs }))
          let field (k : Nat) : Nat := (s.arg.val.extractLsb' 0 k).toNat
          wrote 0x40 (fun r => { r with ttbase := s.arg.val }) ∧ wrote 0x48 (fun r => { r with ttlen := BitVec.ofNat 32 (max 10000 (min 100000000 (field 32))) })
          ∧ wrote 0x50 (fun r => { r with ageint := field 16 }) ∧ wrote 0x58 (fun r => { r with agecap := field 3 }) ∧ wrote 0x78 (fun r => { r with splim := max 10000 (min 10000000 (field 24)) })
          ∧ wrote 0x80 (fun r => { r with hbint := max 100 (min 10000 (field 14)) }) ∧ (off = 0x410048 → exec .registerRead s = .next (answered (s.pkg.regs.ttlen.zeroExtend 64))))
      ∧ ((s.arg.req = .untrustedHost ∨ ∃ k b, s.arg.req = .tile k b) → off % 8 = 0 → s.arg.count = 8 → page = 0x41 → exec .registerWrite s = .next s
          ∧ exec .registerRead s = .next (answered (s.pkg.readSched (off % 0x10000))))
      ∧ (0x50 ≤ page → page < 0x60 → s.arg.count = 8 → off % 8 = 0 → (s.arg.req = .acornF ∨ s.arg.req = .acornK) →
          let i := (off - 0x500000) / 16
          let d := s.pkg.dirAt i
          ∃ t e, exec .directoryWrite s = .next t ∧ t.pkg.dirAt i = e ∧ (∀ j, j ≠ i → t.pkg.dirAt j = s.pkg.dirAt j)
            ∧ (off % 16 = 0 → e.objid = (s.arg.val.extractLsb' 0 48).toNat ∧ e.valid = d.valid ∧ e.direct = d.direct)
            ∧ (off % 16 ≠ 0 → e.valid = s.arg.val.getLsbD 63 ∧ e.direct = s.arg.val.getLsbD 62 ∧ e.ldur = max 100 (min 1000000 (s.arg.val.extractLsb' 32 20).toNat) ∧ e.node = (s.arg.val.extractLsb' 16 16).toNat)
            ∧ (∀ k r, e.valid = true → s.pool = [] → s.nodes = [k] → k.num = e.node → k.sessions = [(s.arg.session, r)] →
                (r = k.root → t.pool = [{ id := e.objid, node := e.node, direct := e.direct, pages := max 1 (min s.arg.amount 0x400000), ldur := e.ldur, fence := 0, rejects := 0 }])
                ∧ (r ≠ k.root → t.pool = []))
            ∧ (e.valid = true → s.pool = [] → s.nodes = [] → s.arg.good = false → t.pool = [])
            ∧ (∀ o, e.valid = true → s.pool = [o] → o.id = e.objid → t.pool = [{ o with ldur := e.ldur }])
            ∧ (e.valid = false → t.pool = s.pool) ∧ t.tile = s.tile ∧ t.pkg.mem = s.pkg.mem)
      ∧ ((page < 0x50 ∨ 0x60 ≤ page) → exec .directoryWrite s = .next s))
  ∧ (∀ (s : State) (b : Mailbox) (x : Session), s.arg.ix < 64 → s.pkg.boxes = [b] → b.ch.toNat = s.arg.ix → b.session = x.num → s.arg.req = .ide x.num → (s.pkg.fw.state = 2 ∨ s.pkg.fw.state = 3) →
      exec .mailboxDoorbell s = .next (s.updP (fun p => { p with boxes := [if (s.arg.val - b.head).toNat ≤ 256 ∧ (b.tail - b.head).toNat ≤ (s.arg.val - b.head).toNat then { b with tail := s.arg.val } else b] })))
  ∧ (∀ (s : State) (b : Mailbox) (x : Session), s.arg.ix < 64 → s.pkg.boxes = [b] → b.ch.toNat = s.arg.ix → b.session = x.num → s.pkg.sessions = [x] → s.arg.req = .ide x.num → s.pkg.fw.quiet = false →
      s.pkg.inUse s.arg.handle = false → (∀ y ∈ b.pending, y.1 ≠ s.arg.handle) → (s.arg.val - b.head).toNat ≤ 256 → (b.tail - b.head).toNat ≤ (s.arg.val - b.head).toNat → b.head ≠ s.arg.val →
      let e := Memory.readN b.page (0x1000 + 32 * (b.head.toNat % 256)) 32
      let cookie := dword e 8
      let taken : Mailbox := { b with tail := s.arg.val, head := b.head + 1 }
      let waits : Mailbox := { taken with pending := b.pending ++ [(s.arg.handle, cookie)] }
      let done (r : W64) : Mailbox := if (b.ctail - b.chead).toNat < 256 then
          { taken with page := Memory.writeN b.page (0x3000 + 16 * (b.ctail.toNat % 256)) (Spec.bytes 8 cookie ++ Spec.bytes 8 r), ctail := b.ctail + 1 }
        else { taken with waiting := b.waiting ++ [(cookie, r)] }
      let l := { s.launchOf s.arg.handle (dword e 0).toNat with session := x.num, prioCap := some x.prioLimit, mask := 0xFFFF, tt := false }
      let u := (s.updP (fun p => { p with boxes := [{ b with tail := s.arg.val, pending := waits.pending }] })).touchLaunch l
      let checks := u.recChecks l (u.acornPkg.homeN l.recPA 256)
      let ends (r : W64) (st : LaunchSt) : Prop := ∃ t y, exec .mailboxDoorbell s = .next t ∧ t.pkg.boxes = [done r] ∧ t.pkg.launch s.arg.handle = some y ∧ y.st = st
      (l.rc.root.tenant ≠ x.tenant → exec .mailboxDoorbell s = .next (s.updP (fun p => { p with boxes := [done 0] })))
      ∧ (l.rc.root.tenant = x.tenant →
          (u.pkg.resultOk l = false → ends 0 (.ended 2))
          ∧ (u.pkg.resultOk l = true → (checks.find? (·.2)).isSome = true → ends l.rc.result (.ended 2))
          ∧ (u.pkg.resultOk l = true → checks.find? (·.2) = none → l.rc.kind ≠ .tasked →
              (u.choosePlace l.rc 0xFFFF = none → ∃ t y, exec .mailboxDoorbell s = .next t ∧ t.pkg.boxes = [waits] ∧ t.pkg.launch s.arg.handle = some y ∧ y.st = .waiting ∧ y.prioCap = some x.prioLimit)
              ∧ (u.choosePlace l.rc 0xFFFF = some [(0, s.tile.phys)] → s.tile.disp.slot.length < 4 → s.arg.handle < 65536 → l.rc.prio ≤ 7 →
                  ∃ t y k, exec .mailboxDoorbell s = .next t ∧ t.pkg.boxes = [waits] ∧ t.pkg.launch s.arg.handle = some y ∧ y.st = .queued ∧ t.tile.disp.slot = s.tile.disp.slot ++ [k]
                    ∧ k.launch.toNat = s.arg.handle ∧ k.tt = false ∧ k.prio.toNat = min l.rc.prio (min 7 x.prioLimit)))))
  ∧ (∀ (s : State), (s.pkg.fw.state = 3 → exec .heartbeat s = .next s)
      ∧ (s.pkg.fw.state ≠ 3 → ∃ t, exec .heartbeat s = .next t ∧ t.tile = s.tile ∧ t.pkg.mem = s.pkg.mem ∧ t.pkg.sessions.length = s.pkg.sessions.length
          ∧ ∀ (i : Nat) (x : Session), s.pkg.sessions[i]? = some x → ∃ y : Session, t.pkg.sessions[i]? = some y ∧ y.num = x.num ∧ y.recs = x.recs ∧ y.policies = x.policies
              ∧ (if x.established = true ∧ x.hbtime.toNat + 1000000 * s.pkg.regs.hbint ≤ s.pkg.time then
                  y.hbseq = x.hbseq + 1 ∧ y.hbtime = BitVec.ofNat 64 s.pkg.time ∧ y.verhb = s.pkg.fw.veract.zeroExtend 64 else y = x)))
  ∧ (∀ (s : State), let pa := s.arg.area / 32 * 32
      let c := Cap.ofBytes (s.coherentN pa 32) true
      ((s.arg.req ≠ .acornF ∧ s.arg.req ≠ .acornK) → exec .sealTagService s = .next s)
      ∧ (∀ fs, (s.arg.req = .acornF ∨ s.arg.req = .acornK) → (∃ x ∈ s.pkg.sessions, ∃ e ∈ x.policies, e.valid = true ∧ e.tenant = c.tenant ∧ e.pol = c.pol) → s.pkg.tagged pa = true →
          s.pkg.sealFrames s.arg.ptb c = some fs → s.pkg.regs.hcwin.getLsbD 63 = false → s.pkg.regs.haper.getLsbD 63 = false → inRanges s.pkg.scrub pa = false → s.pkg.host = [] → (∀ u ∈ s.allTiles, u.ord.l1 = []) →
          ∃ t, exec .sealTagService s = .next t ∧ t.pkg.tag pa = true ∧ (∀ f ∈ fs, ∃ n, t.pkg.sealedFrames.find? (fun x => x.1 == f) = some (f, n) ∧ n = c.tenant.toNat) ∧ t.pkg.mem = s.pkg.mem ∧ t.pkg.l2 = s.pkg.l2 ∧ t.tile.core = s.tile.core))

end

section
open Sys2Proof Sys2Proof.Machine

/-- R452: the SPDM responder serves, on each of its two connections by itself, its requests in their order, and answers any other
with an error and no other effect; NEGOTIATE_ALGORITHMS keeps the algorithms that the requester offers, and a request that needs one
of the others is an error; a measurement is signed, and its index 0x10 gives the MEAS of the session that asks alone;
KEY_EXCHANGE and FINISH open a session under a key that both shares give, and END_SESSION ends it. Inside a session a request counts
only as a secured message whose tag verifies, and its reply is one too.
The bytes of a reply are the model's framing (log 51), its signatures and keys free values (log 1). That FINISH gives the session its
mailbox channel is the model's choice (log 79), and so is that END_SESSION removes its channels and all that it holds (log 80). -/
def Obligations.SpdmEvents : Prop :=
  ∀ (s : State),
    let x := s.arg
    let of (q : Package) (m : Bool) : Spdm := if m then q.spdmMgmt else q.spdm
    let c := of s.pkg x.mgmt
    let reply (code : Nat) (body : List Byte) : List Byte := [0x13, BitVec.ofNat 8 code, 0, 0] ++ body
    let kept (t : State) : Prop := of t.pkg (!x.mgmt) = of s.pkg (!x.mgmt) ∧ t.tile = s.tile ∧ t.pkg.mem = s.pkg.mem
    let answers (i : Instr) (d : Spdm) (ys : List Session) (bs : List Mailbox) : Prop :=
      ∃ t, exec i s = .next t ∧ of t.pkg x.mgmt = d ∧ t.pkg.sessions = ys ∧ t.pkg.boxes = bs ∧ kept t
    let served (i : Instr) (d : Spdm) : Prop := answers i d s.pkg.sessions s.pkg.boxes
    let refused (i : Instr) : Prop := served i { c with reply := [0x13, 0x7F, 4, 0] }
    let cert : List Byte := match s.pkg.life.aliasCert with
      | none => []
      | some k => beBytes 96 k.toNat
    -- ECDSA, ephemeral Diffie-Hellman, SHA-384 and AES-256-GCM: bits 0 to 3
    let has (bits : List Nat) : Prop := c.algs = true ∧ ∀ k ∈ bits, c.sel.getLsbD k = true
    let inside (y : Session) (r : List Byte) : Spdm := { c with reply := y.secure r }
    served .getVersion { version := true, reply := reply 0x04 [0, 1, 0, 0x13] }
    ∧ (c.version = false → refused .getCapabilities) ∧ (c.version = true → served .getCapabilities { c with caps := true, reply := reply 0x61 (Spec.bytes 4 0x2D6) })
    ∧ (c.caps = false → refused .negotiateAlgorithms) ∧ (c.caps = true → served .negotiateAlgorithms { c with algs := true, sel := x.flags, reply := reply 0x63 [x.flags.zeroExtend 8] })
    ∧ (c.algs = false → refused .getCertificate) ∧ (c.algs = true → served .getCertificate { c with cert := true, reply := reply 0x02 cert })
    ∧ (¬ has [2] → refused .getDigests) ∧ (has [2] → served .getDigests { c with digests := true, reply := reply 0x01 (sha384 cert) })
    ∧ (¬ has [0, 2] → refused .challenge) ∧ (has [0, 2] → served .challenge { c with challenged := true, reply := reply 0x03 (s.signed (Spec.bytes 8 x.val)) })
    ∧ (x.good = false → (¬ has [0, 2] → refused .getMeasurements) ∧ (has [0, 2] → served .getMeasurements { c with reply := reply 0x60 (s.signed (s.measurementBlock x.ix 256)) })
        ∧ (∀ i ∈ [Instr.finish, .endSession], refused i))
    ∧ (∀ k : Nat, s.measurementBlock 5 k = Spec.bytes 2 (s.pkg.fw.minver.zeroExtend 64) ++ Spec.bytes 2 (s.pkg.fw.handover.zeroExtend 64)
        ∧ (∀ y, s.pkg.session k = some y → s.measurementBlock 0x10 k = y.meas.flatten) ∧ (s.pkg.session k = none → s.measurementBlock 0x10 k = []))
    ∧ (¬ has [0, 1, 2, 3] ∨ 256 ≤ x.session ∨ (∃ y ∈ s.pkg.sessions, y.num = x.session) → refused .keyExchange)
    ∧ (has [0, 1, 2, 3] → x.session < 256 → (∀ y ∈ s.pkg.sessions, y.num ≠ x.session) → ∃ kek key share,
        answers .keyExchange { c with reply := reply 0x64 (s.signed share) } (s.pkg.sessions ++ [{ num := x.session, tenant := x.tenant, kek := kek, msgKey := key, prioLimit := min 7 x.amount, established := false, msgSeq := 0 }]) s.pkg.boxes)
    ∧ (∀ y, s.pkg.sessions = [y] → y.num = x.session → x.good = true →
        (y.established = true ∨ ¬ has [0, 1, 2, 3] → refused .finish)
        ∧ (y.established = false → refused .endSession)
        ∧ (y.established = false → has [0, 1, 2, 3] → s.pkg.boxes = [] →
            answers .finish (inside y (reply 0x65 [])) [{ y with established := true, msgSeq := y.msgSeq + 1 }] [{ ch := BitVec.ofNat 6 x.ix, session := x.session }])
        ∧ (y.established = true → answers .getMeasurements (inside y (reply 0x60 (s.signed (s.measurementBlock x.ix y.num)))) [{ y with msgSeq := y.msgSeq + 1 }] s.pkg.boxes))
    ∧ ((∀ y ∈ s.pkg.sessions, y.num ≠ x.session) → refused .endSession)
    ∧ (∀ y, s.pkg.session x.session = some y → y.established = true → x.good = true → ∃ t, exec .endSession s = .next t ∧ kept t ∧ of t.pkg x.mgmt = inside y (reply 0x6C [])
        ∧ (∀ z, z ∈ t.pkg.sessions ↔ z ∈ s.pkg.sessions ∧ z.num ≠ x.session) ∧ (∀ b, b ∈ t.pkg.boxes ↔ b ∈ s.pkg.boxes ∧ b.session ≠ x.session))

/-- R397, R451, R459, R460, R462, R463 and R466: the commands of a live update with their errors, its two timeouts, a boot,
the counters, the ageing and the power and thermal limits, and what a package loses that fails, writes under way to it among them
(R408). R136: the boundary of the HBM
regions does not move while a launch runs. R464: what a boot retires, and a tile with three SRAM errors within 24 h is disabled.
The second FWCMD_UPDATE, the nominal supply, the operands of BOOT, what a failed package keeps and the delay monitors' readings are the model's (logs 52, 82, 84, 86 and 124). -/
def Obligations.FirmwareAndLife : Prop :=
  (∀ (s : State),
    let f := s.pkg.fw
    let now := s.pkg.time
    let fw (i : Instr) (g : Firmware) : Prop := exec i s = .next (s.updP (fun p => { p with fw := g }))
    let trusted := s.arg.req = .acornF ∨ ∃ n, s.arg.req = .ide n
    let v := s.arg.val.extractLsb' 0 16
    (¬ trusted → ∀ i ∈ [Instr.fwcmdCheck, .fwcmdUpdate, .fwcmdAbort, .fwcmdCommit], exec i s = .next s)
    ∧ (trusted →
        ((f.state = 2 ∨ f.state = 3) → fw .fwcmdCheck f)
        ∧ (f.state ≠ 2 → f.state ≠ 3 →
            (s.arg.good = false → fw .fwcmdCheck { f with verstg := v, sigOk := false, err := 1, state := 0 })
            ∧ (s.arg.good = true → v.toNat < f.minver.toNat → fw .fwcmdCheck { f with verstg := v, sigOk := true, err := 2, state := 0 })
            ∧ (s.arg.good = true → f.minver.toNat ≤ v.toNat → fw .fwcmdCheck { f with verstg := v, sigOk := true, err := 0, state := 1 }))
        ∧ (f.state = 1 → fw .fwcmdUpdate { f with state := 2, since := now })
        ∧ (f.state = 2 → now < f.since + 10000000 → fw .fwcmdUpdate { f with state := 3, since := now, handover := v })
        ∧ (f.state ≠ 1 → f.state ≠ 2 → fw .fwcmdUpdate f ∧ fw .fwcmdAbort f)
        ∧ ((f.state = 1 ∨ f.state = 2) → fw .fwcmdAbort { f with state := 0 })
        ∧ fw .fwcmdCommit { f with minver := if f.minver.toNat < f.veract.toNat then f.veract else f.minver })
    ∧ (f.state ≠ 3 → fw .fwReady f ∧ fw .fwReadyTimeout f)
    ∧ (f.state = 3 → now < f.since + 500000000 → s.arg.good = true → fw .fwReady { f with active := !f.active, veract := f.verstg, state := 0, err := 0 })
    ∧ (f.state = 3 → now < f.since + 500000000 → s.arg.good = false → fw .fwReady { f with state := 4, err := 4 })
    ∧ (f.state = 3 → f.since + 500000000 ≤ now → fw .fwReady { f with state := 4, err := 5 })
    ∧ (f.state = 3 → f.since + 500000000 ≤ now → fw .fwReadyTimeout { f with state := 4, err := 5 })
    ∧ (f.state = 3 → now < f.since + 500000000 → fw .fwReadyTimeout f)
    ∧ (f.state = 2 → f.since + 10000000 ≤ now → fw .fwQuiesceTimeout { f with state := 0, err := 3 })
    ∧ ((f.state ≠ 2 ∨ now < f.since + 10000000) → fw .fwQuiesceTimeout f))
  ∧ (∀ (s : State),
    let l := s.pkg.life
    let life (i : Instr) (m : Life) : Prop := exec i s = .next (s.updP (fun p => { p with life := m }))
    let retires (g : Nat) : Prop := g ∈ l.retired ∨ ∃ x ∈ s.pkg.ecc, x / 4096 = g ∧ (s.pkg.paKind (64 * x) = .hbmLocal ∨ s.pkg.paKind (64 * x) = .hbmPool)
    let amount := s.arg.amount
    (l.powered = true → l.aliasCert.isSome = true → exec .boot s = .next s)
    ∧ ((s.arg.val.extractLsb' 0 16).toNat < s.pkg.fw.minver.toNat → exec .boot s = .next s)
    ∧ (∀ k, l.powered = false → s.pkg.fw.minver.toNat ≤ (s.arg.val.extractLsb' 0 16).toNat → s.arg.dest = [(k, 0)] → k < 256 → k ∉ s.pkg.disabled → ∃ t, exec .boot s = .next t ∧ t.pkg.failed = false ∧ t.pkg.life.powered = true ∧ t.pkg.life.throttled = false
        ∧ t.pkg.life.stretched = false ∧ t.pkg.life.aliasCert.isSome = true ∧ t.pkg.fw.veract = s.arg.val.extractLsb' 0 16 ∧ t.pkg.fw.active = s.arg.write ∧ t.pkg.fw.state = 0 ∧ t.pkg.fw.err = 0 ∧ t.pkg.fw.minver = s.pkg.fw.minver ∧ (∀ j, j ∈ t.pkg.disabled ↔ j = k ∨ j ∈ s.pkg.disabled)
        ∧ t.pkg.bound = (if amount % 0x200000000 = 0 ∧ 0 < amount ∧ amount ≤ 0x8000000000 ∧ (∀ m ∈ s.pkg.launches, s.pkg.inUse m.handle = false) then amount else s.pkg.bound)
        ∧ t.pkg.fused = s.pkg.fused ∧ (∀ g, g ∈ t.pkg.life.retired ↔ retires g)
        ∧ (∀ i, i ∈ t.pkg.life.gone ↔ i < 8 ∧ 65536 ≤ (t.pkg.life.retired.filter (fun g => g / 262144 == i)).length)
        ∧ t.pkg.life.now.tiledis.toNat = min (2 ^ 64 - 1) (l.flash.tiledis.toNat + 1) ∧ t.pkg.life.flushed = s.pkg.time ∧ (∀ c ∈ t.pkg.life.clusters, c.checked = none) ∧ t.tile = s.tile)
    ∧ ((s.pkg.time < l.flushed + 600000000000 ∨ l.powered = false) → exec .counterFlush s = .next s)
    ∧ (l.powered = true → l.flushed + 600000000000 ≤ s.pkg.time → ∃ t, exec .counterFlush s = .next t
        ∧ (let errs := l.sramErr ++ s.arg.fwd
           (∀ k, k ∈ t.pkg.disabled ↔ k ∈ s.pkg.disabled
              ∨ (k < 256 ∧ ∃ e ∈ errs, e.1 = k ∧ 3 ≤ (errs.filter (fun x => x.1 == k && decide (e.2 ≤ x.2) && decide (x.2 < e.2 + 86400000000000))).length))
           ∧ ∀ e, e ∈ t.pkg.life.sramErr ↔ e ∈ errs ∧ s.pkg.time < e.2 + 86400000000000))
    ∧ (l.powered = true → l.flushed + 600000000000 ≤ s.pkg.time → s.arg.dest = [] → ∃ t, exec .counterFlush s = .next t ∧ t.tile = s.tile ∧ t.pkg.mem = s.pkg.mem ∧ t.pkg.life.flash = t.pkg.life.now
        ∧ t.pkg.life.flushed = l.flushed + (s.pkg.time - l.flushed) / 1000000000 * 1000000000
        ∧ t.pkg.life.now.poweron.toNat = min (2 ^ 64 - 1) (l.now.poweron.toNat + (s.pkg.time - l.flushed) / 1000000000)
        ∧ t.pkg.life.now.failover = l.now.failover ∧ t.pkg.life.now.uncorHbm = l.now.uncorHbm
        ∧ (∀ (i c m n : Nat) (k : ClusterLife), l.clusters[i]? = some k → k.tempHist.length = 8 → k.suppHist.length = 8 → s.arg.heat = [(i, c, n)] → s.arg.volt = [(i, m, n)] →
            ∃ j : ClusterLife, t.pkg.life.clusters[i]? = some j ∧ (∀ i', i' ≠ i → t.pkg.life.clusters[i']? = l.clusters[i']?)
              ∧ (∀ b, j.tempHist[b]? = (k.tempHist[b]?).map (fun w => if b = min 7 ((c - 40) / 10) then BitVec.ofNat 64 (min (2 ^ 64 - 1) (w.toNat + n)) else w))
              ∧ (∀ b, j.suppHist[b]? = (k.suppHist[b]?).map (fun w => if b = min 7 ((m - 550) / 20) then BitVec.ofNat 64 (min (2 ^ 64 - 1) (w.toNat + n)) else w))))
    ∧ (let held := ∃ u ∈ s.allTiles, u.phys / 16 = s.arg.clus ∧ u.disp.bind.isSome = true
       let due (k : ClusterLife) : Prop := ∀ t0, k.checked = some t0 → t0 + 86400000000000 ≤ s.pkg.time
       let reads (k : ClusterLife) (i : Fin 4) : Nat := ((s.arg.dest.find? (fun r => r.1 == i.val)).map (·.2)).getD k.monitors[i]
       let slow (k : ClusterLife) : Prop := ∃ i : Fin 4, 102 * k.baseline[i] < 100 * reads k i
       (held → exec .ageingCheck s = .next s)
       ∧ (∀ k, l.clusters[s.arg.clus]? = some k → ¬ due k → exec .ageingCheck s = .next s)
       ∧ (∀ k, ¬ held → l.clusters[s.arg.clus]? = some k → due k → ∃ t j, exec .ageingCheck s = .next t ∧ t.pkg.life.clusters[s.arg.clus]? = some j ∧ t.tile = s.tile ∧ j.checked = some s.pkg.time
           ∧ j.baseline = k.baseline ∧ (∀ i : Fin 4, j.monitors[i] = reads k i)
           ∧ (¬ slow k → j.offset = k.offset ∧ j.clock = k.clock)
           ∧ (slow k → (600 + k.offset < 700 → j.offset = k.offset + 5 ∧ j.clock = k.clock) ∧ (700 ≤ 600 + k.offset → j.offset = k.offset ∧ j.clock = k.clock - 50))))
    ∧ (amount ≤ s.pkg.regs.pkgpl → exec .powerLimitStep s = .next s)
    ∧ (s.pkg.regs.pkgpl < amount → life .powerLimitStep { l with clusters := l.clusters.map (fun c => { c with clock := c.clock - 50 }) })
    ∧ life .clockStretch { l with stretched := decide (12 * s.pkg.regs.pkgpl < 10 * amount) }
    ∧ life .thermalThrottle { l with throttled := decide (105 ≤ amount) }
    ∧ (amount < 115 → exec .thermalShutdown s = .next s)
    ∧ (∀ i, i = .packageFailure ∨ (i = .thermalShutdown ∧ 115 ≤ amount) → ∃ t, exec i s = .next t ∧ t.pkg.failed = true ∧ t.pkg.life.powered = false ∧ t.pkg.mem = [] ∧ t.pkg.l2 = [] ∧ t.pkg.frames = [] ∧ t.pkg.launches = []
        ∧ t.pkg.num = s.pkg.num ∧ t.pkg.time = s.pkg.time ∧ t.pkg.synced = s.pkg.synced ∧ t.pkg.failedAt = s.pkg.time ∧ t.pkg.fused = s.pkg.fused ∧ t.pkg.poolCh = s.pkg.poolCh.map (fun m => { m with src := 256 })
        ∧ t.pkg.life.now = l.flash ∧ (∀ g, g ∈ t.pkg.life.retired ↔ retires g)
        ∧ (∀ u ∈ t.allTiles, u.near.mem = [] ∧ u.disp.run = .free ∧ u.disp.bind = none) ∧ t.pool = s.pool ∧ t.nodes = s.nodes ∧ t.peers.length = s.peers.length
        ∧ ∀ (k : Nat) (p : Package), s.peers[k]? = some p → ∃ q : Package, t.peers[k]? = some q
            ∧ q = { p with peerCh := p.peerCh.map (fun m => if m.target = s.pkg.num then { m with lost := true } else m), optics := q.optics }))

end

/-! ### Decoding, a step, reset and the machine as a whole -/

namespace Sys2Proof.Machine

/-- What the next step moves, and the state that it moves from: with no agenda the control core in focus, else the act at
the agenda's head with its tile in focus; time has passed (R24). -/
def State.Moves (s : State) (a : Act) (u : State) : Prop :=
  (s.agenda = [] ∧ a = .core ∧ u = s.advance)
  ∨ ∃ t r, s.agenda = t :: r ∧ t.act = a ∧ ({ s with agenda := r } : State).advance.focus t.pkg t.phys = some u

/-- The core in focus fetches its next word: its tile runs, no debugger halts it, no NAS waits and no entry comes first. -/
def State.Fetches (u : State) : Prop :=
  u.tile.disp.run = .running ∧ u.tile.sys.dbgctl.getLsbD 1 = false ∧ u.tile.ord.nasWait = none ∧ u.boundaryEntry = none

end Sys2Proof.Machine

section
open Sys2Proof Sys2Proof.Machine

/-- R45 to R53, R206 and the command layouts of 10: every well-formed instruction that has words decodes from its own
words, with every operand at every value that the encoding holds. -/
def Obligations.RoundTrip : Prop :=
  ∀ i : Instr, i.wf = true → encode i ≠ .none → decodeWords (encode i) = .ok i

/-- R12, R47 and R52: a control word that the decoder accepts is the one encoding of a well-formed instruction: no bit of a
word is ignored. -/
def Obligations.EncodingsAreUnique : Prop :=
  ∀ (w : W64) (i : Instr), decode w = .ok i → i.wf = true ∧ encode i = .control w

/-- Words written out field by field from R45 to R49, R53 and the command layouts of 10: one of each class, each engine,
reserved bits and unassigned codes. -/
def Obligations.DecodeSamples : Prop :=
  -- class A: jmp −1, complement of p1; add s3, s4, s5
  decode (0b0001#4 ++ 0b1001#4 ++ 0b000#3 ++ 0b0000000#7 ++ 0b00011#5 ++ 0b00100#5 ++ 0b00101#5 ++ 0b000000000#9 ++ 0b1111111111111111111111#22)
      = .ok (.add ⟨.jmp, 0b1001, 0xFFFFFF⟩ 3 4 5)
  -- fadd.s.rd s1, −s2, |s3|, clamp 0b10, exponent 0b101
  ∧ decode (0b0000#4 ++ 0b0000#4 ++ 0b000#3 ++ 0b1000001#7 ++ 0b00001#5 ++ 0b00010#5 ++ 0b00011#5 ++ 0b100110101#9 ++ 0b0000000000000000000000#22)
      = .ok (.faddS ⟨.seq, 0, 0⟩ .rd 1 2 3 ⟨true, false, false, true, 0b10, 0b101⟩)
  -- fcmp.s, condition un, p7
  ∧ decode (0b0000#4 ++ 0b0000#4 ++ 0b000#3 ++ 0b0110100#7 ++ 0b11111#5 ++ 0b00010#5 ++ 0b00011#5 ++ 0b000000000#9 ++ 0b0000000000000000000000#22)
      = .ok (.fcmpS ⟨.seq, 0, 0⟩ 0b11 7 2 3)
  -- class I: ins s1, s2, length 8 at bit 40; class L: li s31, −2^40 with ret
  ∧ decode (0b0000#4 ++ 0b0000#4 ++ 0b001#3 ++ 0b0001001#7 ++ 0b00001#5 ++ 0b00010#5 ++ 0b00000000000111101000#20 ++ 0b0000000000000000#16)
      = .ok (.ins ⟨.seq, 0, 0⟩ 1 2 7 40)
  ∧ decode (0b0111#4 ++ 0b0000#4 ++ 0b010#3 ++ 0b0000000#7 ++ 0b11111#5 ++ 0b10000000000000000000000000000000000000000#41)
      = .ok (.li ⟨.ret, 0, 0⟩ 31 0x10000000000)
  -- class M: ld.ws s6, c9[s7 << 2 − 1], loop +5; amo.xor.p; class E: enq x, s8, s9; sem.sig 31
  ∧ decode (0b1000#4 ++ 0b0000#4 ++ 0b011#3 ++ 0b0000100#7 ++ 0b00110#5 ++ 0b00111#5 ++ 0b1001#4 ++ 0b10#2 ++ 0b11111111111111#14 ++ 0b0000000000000101#16)
      = .ok (.ldWs ⟨.loop, 0, 5⟩ 6 ⟨7, 9, 2, 0x3FFF⟩)
  ∧ decode (0b0000#4 ++ 0b0000#4 ++ 0b011#3 ++ 0b0011110#7 ++ 0b00110#5 ++ 0b00111#5 ++ 0b0001#4 ++ 0b00#2 ++ 0b00000000000001#14 ++ 0b0000000000000000#16)
      = .ok (.amoXor ⟨.seq, 0, 0⟩ 2 6 7 1 1)
  ∧ decode (0b0000#4 ++ 0b0000#4 ++ 0b100#3 ++ 0b0000000#7 ++ 0b11#2 ++ 0b01000#5 ++ 0b01001#5 ++ 0b000000#6 ++ 0b000000#6 ++ 0b0000000000000000000000#22)
      = .ok (.enq ⟨.seq, 0, 0⟩ .x 8 9)
  ∧ decode (0b0000#4 ++ 0b0000#4 ++ 0b100#3 ++ 0b0000011#7 ++ 0b00#2 ++ 0b00000#5 ++ 0b00000#5 ++ 0b000000#6 ++ 0b011111#6 ++ 0b0000000000000000000000#22)
      = .ok (.semSig ⟨.seq, 0, 0⟩ 31)
  -- class S: kcall 0xABC; item.next s4, p2
  ∧ decode (0b0000#4 ++ 0b0000#4 ++ 0b101#3 ++ 0b0100010#7 ++ 0b00000#5 ++ 0b00000#5 ++ 0b101010111100#12 ++ 0b000000000000000000000000#24)
      = .ok (.kcall ⟨.seq, 0, 0⟩ 0xABC)
  ∧ decode (0b0000#4 ++ 0b0000#4 ++ 0b101#3 ++ 0b0010011#7 ++ 0b00100#5 ++ 0b00000#5 ++ 0b000000000010#12 ++ 0b000000000000000000000000#24)
      = .ok (.itemNext ⟨.seq, 0, 0⟩ 4 2)
  -- NAS 0xA, a reserved MODS bit of add, a target under SEQ, the unassigned class A function 0x23
  ∧ decode 0xA000000000000000 = .error .illegalNas
  ∧ decode (0b0000#4 ++ 0b0000#4 ++ 0b000#3 ++ 0b0000000#7 ++ 0b00011#5 ++ 0b00100#5 ++ 0b00101#5 ++ 0b000000001#9 ++ 0b0000000000000000000000#22) = .error .reservedField
  ∧ decode (0b0000#4 ++ 0b0000#4 ++ 0b000#3 ++ 0b0000000#7 ++ 0b00011#5 ++ 0b00100#5 ++ 0b00101#5 ++ 0b000000000#9 ++ 0b0000000000000000000001#22) = .error .reservedField
  ∧ decode 0x0008C00000000000 = .ok (.unassignedControlOpcode 0x0008C00000000000)
  -- V: v.add with one region; M: mma; X: copy of 64 bytes; x.pput in two words
  ∧ decodeV [0b00000001#8 ++ 0b111111#6 ++ 0b000010#6 ++ 0b0000#4 ++ 0b01#2 ++ 0b000101#6 ++ 0x00000040#32,
      0x0000100#25 ++ 0x0004#16 ++ 0x0010#16 ++ 0b1#1 ++ 0b0#1 ++ 0b01#2 ++ 0b111#3]
      = .ok (.vAdd ⟨63, 2, 0, 5, 0x40, [⟨0x100, 4, 16, true, false, 1, 7⟩]⟩)
  ∧ decodeMx (0b000001#6 ++ 0b111111#6 ++ 0b111111#6 ++ 0b0000#4 ++ 0b0001#4 ++ 0b0010#4 ++ 0b1#1 ++ 0b0#1 ++ 0b0000011#7 ++ 0b0#1 ++ 0b1#1 ++ 0b0#1
      ++ 0b0#1 ++ 0b0000#4 ++ 0b0#1 ++ 0b0000000#7 ++ 0b000000000#9)
      = .ok (.mma ⟨63, 63, 0, 1, 2, true, false, 3, false, true, false, 0, false, 0, 0⟩)
  ∧ decodeX [0x01#8 ++ 0b111111#6 ++ 0b000001#6 ++ 0b0000#4 ++ 0b0010#4 ++ 0x0000000100#40 ++ 0b0011#4 ++ 0x0000000200#40 ++ 0x0040#16]
      = .ok (.xCopy ⟨63, 1, 0, 2, 0x100, 3, 0x200, 0x40, 0, 0, 0⟩)
  ∧ decodeX [0x82#8 ++ 0b111111#6 ++ 0b111111#6 ++ 0b0000#4 ++ 0b0010#4 ++ 0x0000000100#40 ++ 0b0011#4 ++ 0x0000000200#40 ++ 0x0040#16,
      0x0123456789ABCDEF#64 ++ 0x0000000008#40 ++ 0x000001#24]
      = .ok (.xPput ⟨63, 63, 0, 2, 0x100, 3, 0x200, 0x40, 0x0123456789ABCDEF, 8, 1⟩)

/-- R25, R30, R207, R214 and 95: the step of a core that fetches is its decoded word's meaning, on the state that the fetch leaves;
the word is the eight bytes at the translation of PC, least significant first. The step of an engine whose stream runs is
the meaning of its next command, and an event's step is its meaning with its operands. R26, R31, R365: tlbi of FORM 0b11 faults only
where it is performed. R339: an error in a command's words. A turn of a tile that the machine does not have
is the machine's one fault.
The agenda and the time that passes are the model's (logs 93 and 60). -/
def Obligations.StepRunsInstruction : Prop :=
  (∀ (s u t : State) (w : W64) (i : Instr), s.Moves .core u → u.Fetches → u.fetch = .ok (t, w) → decode w = .ok i → step s = exec i t)
  ∧ (∀ (u t : State) (pa : Nat) (ca : Bool), let pc := u.tile.core.pc; let c := u.tile.fetch
      c.tag = true → c.typ = 7 → c.perm.getLsbD 9 = true → c.base.toNat ≤ pc.toNat → pc.toNat + 8 ≤ c.base.toNat + c.len.toNat →
      u.translate pc .ex = .ok (t, pa, ca) → t.pkg.ecc.contains (pa / 64) = false → u.fetch = .ok (t, leWord (t.pkg.homeN pa 8)))
  ∧ (∀ (s u : State) (fi : FaultInfo), s.Moves .core u → u.Fetches → u.fetch = .error fi → step s = .next (u.takeFault fi u.tile.core.pc))
  ∧ (∀ (s u t : State) (w : W64) (e : DecodeError), s.Moves .core u → u.Fetches → u.fetch = .ok (t, w) → decode w = .error e → (∀ h, e ≠ .tlbiForm h) →
      step s = .next (t.takeFault { code := if e = .illegalNas then .illegalNas else .illegalOpcode } t.tile.core.pc))
  -- tlbi with FORM 0b11: its level is checked, then its operation faults where the word is performed
  ∧ (∀ (s u t : State) (w : W64) (h : Hdr), s.Moves .core u → u.Fetches → u.fetch = .ok (t, w) → decode w = .error (.tlbiForm h) →
      (t.tile.core.level.atLeastK = false → step s = .next (t.takeFault { code := .privilege } t.tile.core.pc))
      ∧ (t.tile.core.level.atLeastK = true → (h.nas = .calli ∨ h.nas = .jmpi → t.pendingReg (nasReg h) = false) →
          (t.performs h = true → step s = .next (t.takeFault { code := .illegalOpcode } t.tile.core.pc))
          ∧ (t.performs h = false → step s = .next (t.nasAfter t h (t.predField h.pred)))))
  ∧ (∀ (s u : State) (e : Eng) (a : W64), s.Moves (.engine e) u → u.streamRuns e = true → u.wordsBad e = some a →
      step s = .next (u.engFault e (u.tile.eng.ring e).rp { code := .memUncorrectable, eval := some a }))
  ∧ (∀ (s u : State) (e : Eng) (i : Instr), s.Moves (.engine e) u → u.streamRuns e = true → u.wordsBad e = none → decodeEng e (u.nextWords e) = .ok i → step s = exec i u)
  ∧ (∀ (s u : State) (i : Instr) (x : EvArg), s.Moves (.event i x) u → encode i = .none → step s = exec i { u with arg := x })
  ∧ (∀ (s : State) (t : Turn) (r : List Turn), s.agenda = t :: r → ({ s with agenda := r } : State).advance.focus t.pkg t.phys = none →
      step s = .fault (.noSuchTile t.pkg t.phys))

/-- Every instruction of the table, in every state, answers a next state (R25, R31, R328: what ends a program is itself a state). -/
def Obligations.EveryInstructionAnswersNext : Prop :=
  ∀ (i : Instr) (s : State), ∃ t, exec i s = .next t

/-- R18, R85, R143, R207, R211, R216 and R348: what reset leaves. The values of PC, SSP, SSBASE, SSLIM, TIME and the registers that a
loader writes are the model's choice (assumption log 3). -/
def Obligations.ResetState : Prop :=
  (∀ r, State.reset.reg r = 0) ∧ State.reset.pred 0 = true ∧ (∀ p : PReg, p ≠ 0 → State.reset.pred p = false)
  ∧ State.reset.tile.core.lc = 0 ∧ State.reset.tile.core.exh = 0 ∧ State.reset.tile.core.fcsr = 0
  ∧ State.reset.tile.core.cause = 0 ∧ State.reset.tile.core.epc = 0 ∧ State.reset.tile.core.eval = 0
  ∧ State.reset.tile.sys.kstat = 0 ∧ State.reset.tile.sys.wdlim = 100000000 ∧ State.reset.tile.sys.dbgctl = 0 ∧ State.reset.tile.sys.cto = 10000000
  ∧ State.reset.tile.sys.midle = 1024 ∧ State.reset.tile.sys.msat = 0
  ∧ (∀ c, State.reset.cap c = {}) ∧ (∀ b ∈ State.reset.tile.bufs.toList, b = {})
  ∧ (∀ e : Eng, (State.reset.tile.eng.ring e).rp = 0 ∧ (State.reset.tile.eng.ring e).wp = 0 ∧ State.reset.tile.eng.stop e = none)
  ∧ State.reset.tile.eng.cmds = [] ∧ State.reset.tile.eng.faults = [] ∧ State.reset.tile.disp.run = .free ∧ State.reset.tile.disp.slot = []
  ∧ State.reset.pkg.launches = [] ∧ State.reset.pkg.mem = [] ∧ State.reset.tile.near.mem = [] ∧ State.reset.peers = [] ∧ State.reset.pool = []
  ∧ State.reset.pkg.tiles.map (·.phys) = (List.range 255).map (· + 1) ∧ (∀ t ∈ State.reset.pkg.tiles, t = { phys := t.phys })
  ∧ State.reset.MemForm

/-- Every memory of the machine (near spaces, homes, L2, mailbox pages, pool objects) keeps its one canonical form through every step, so
that equal memories are equal data. The form is the model's own invariant.
What an unlisted byte reads as is the model's choice (log 2). -/
def Obligations.StepKeepsMemoryForm : Prop :=
  ∀ s t : State, s.MemForm → step s = .next t → t.MemForm

end
end

