-- ==== Sys2Proof/Laws/State.lean ====
section
/-! SUPPORT. What each update of the state does to each field, true by unfolding: no later proof opens a record
update. -/

namespace Sys2Proof.Machine

/-! ### The tile and the package in focus -/

@[simp] theorem updT_tile (s : State) (f : Tile → Tile) : (s.updT f).tile = f s.tile := rfl
@[simp] theorem updT_pkg (s : State) (f : Tile → Tile) : (s.updT f).pkg = s.pkg := rfl
@[simp] theorem updT_peers (s : State) (f : Tile → Tile) : (s.updT f).peers = s.peers := rfl
@[simp] theorem updT_pool (s : State) (f : Tile → Tile) : (s.updT f).pool = s.pool := rfl
@[simp] theorem updT_nodes (s : State) (f : Tile → Tile) : (s.updT f).nodes = s.nodes := rfl
@[simp] theorem updT_agenda (s : State) (f : Tile → Tile) : (s.updT f).agenda = s.agenda := rfl
@[simp] theorem updT_arg (s : State) (f : Tile → Tile) : (s.updT f).arg = s.arg := rfl
@[simp] theorem updT_fresh (s : State) (f : Tile → Tile) : (s.updT f).fresh = s.fresh := rfl
@[simp] theorem updP_pkg (s : State) (f : Package → Package) : (s.updP f).pkg = f s.pkg := rfl
@[simp] theorem updP_tile (s : State) (f : Package → Package) : (s.updP f).tile = s.tile := rfl
@[simp] theorem updP_peers (s : State) (f : Package → Package) : (s.updP f).peers = s.peers := rfl
@[simp] theorem updP_pool (s : State) (f : Package → Package) : (s.updP f).pool = s.pool := rfl
@[simp] theorem updP_nodes (s : State) (f : Package → Package) : (s.updP f).nodes = s.nodes := rfl
@[simp] theorem updP_agenda (s : State) (f : Package → Package) : (s.updP f).agenda = s.agenda := rfl
@[simp] theorem updP_arg (s : State) (f : Package → Package) : (s.updP f).arg = s.arg := rfl
@[simp] theorem updP_fresh (s : State) (f : Package → Package) : (s.updP f).fresh = s.fresh := rfl
@[simp] theorem draw_fresh (s : State) : s.draw.fresh = s.fresh + 1 := rfl
@[simp] theorem draw_tile (s : State) : s.draw.tile = s.tile := rfl
@[simp] theorem draw_pkg (s : State) : s.draw.pkg = s.pkg := rfl
@[simp] theorem draw_peers (s : State) : s.draw.peers = s.peers := rfl
@[simp] theorem draw_pool (s : State) : s.draw.pool = s.pool := rfl
@[simp] theorem draw_nodes (s : State) : s.draw.nodes = s.nodes := rfl
@[simp] theorem draw_agenda (s : State) : s.draw.agenda = s.agenda := rfl
@[simp] theorem draw_arg (s : State) : s.draw.arg = s.arg := rfl

/-! ### mapCore -/

@[simp] theorem mapCore_phys (s : State) (f : Core → Core) : (s.mapCore f).tile.phys = s.tile.phys := rfl
@[simp] theorem mapCore_core (s : State) (f : Core → Core) : (s.mapCore f).tile.core = f s.tile.core := rfl
@[simp] theorem mapCore_par (s : State) (f : Core → Core) : (s.mapCore f).tile.par = s.tile.par := rfl
@[simp] theorem mapCore_sys (s : State) (f : Core → Core) : (s.mapCore f).tile.sys = s.tile.sys := rfl
@[simp] theorem mapCore_caps (s : State) (f : Core → Core) : (s.mapCore f).tile.caps = s.tile.caps := rfl
@[simp] theorem mapCore_fetch (s : State) (f : Core → Core) : (s.mapCore f).tile.fetch = s.tile.fetch := rfl
@[simp] theorem mapCore_tenant (s : State) (f : Core → Core) : (s.mapCore f).tile.tenant = s.tile.tenant := rfl
@[simp] theorem mapCore_near (s : State) (f : Core → Core) : (s.mapCore f).tile.near = s.tile.near := rfl
@[simp] theorem mapCore_ord (s : State) (f : Core → Core) : (s.mapCore f).tile.ord = s.tile.ord := rfl
@[simp] theorem mapCore_bufs (s : State) (f : Core → Core) : (s.mapCore f).tile.bufs = s.tile.bufs := rfl
@[simp] theorem mapCore_eng (s : State) (f : Core → Core) : (s.mapCore f).tile.eng = s.tile.eng := rfl
@[simp] theorem mapCore_task (s : State) (f : Core → Core) : (s.mapCore f).tile.task = s.tile.task := rfl
@[simp] theorem mapCore_disp (s : State) (f : Core → Core) : (s.mapCore f).tile.disp = s.tile.disp := rfl
@[simp] theorem mapCore_pkg (s : State) (f : Core → Core) : (s.mapCore f).pkg = s.pkg := rfl
@[simp] theorem mapCore_peers (s : State) (f : Core → Core) : (s.mapCore f).peers = s.peers := rfl
@[simp] theorem mapCore_pool (s : State) (f : Core → Core) : (s.mapCore f).pool = s.pool := rfl
@[simp] theorem mapCore_nodes (s : State) (f : Core → Core) : (s.mapCore f).nodes = s.nodes := rfl
@[simp] theorem mapCore_agenda (s : State) (f : Core → Core) : (s.mapCore f).agenda = s.agenda := rfl
@[simp] theorem mapCore_arg (s : State) (f : Core → Core) : (s.mapCore f).arg = s.arg := rfl
@[simp] theorem mapCore_fresh (s : State) (f : Core → Core) : (s.mapCore f).fresh = s.fresh := rfl

/-! ### mapSys -/

@[simp] theorem mapSys_phys (s : State) (f : Sys → Sys) : (s.mapSys f).tile.phys = s.tile.phys := rfl
@[simp] theorem mapSys_core (s : State) (f : Sys → Sys) : (s.mapSys f).tile.core = s.tile.core := rfl
@[simp] theorem mapSys_par (s : State) (f : Sys → Sys) : (s.mapSys f).tile.par = s.tile.par := rfl
@[simp] theorem mapSys_sys (s : State) (f : Sys → Sys) : (s.mapSys f).tile.sys = f s.tile.sys := rfl
@[simp] theorem mapSys_caps (s : State) (f : Sys → Sys) : (s.mapSys f).tile.caps = s.tile.caps := rfl
@[simp] theorem mapSys_fetch (s : State) (f : Sys → Sys) : (s.mapSys f).tile.fetch = s.tile.fetch := rfl
@[simp] theorem mapSys_tenant (s : State) (f : Sys → Sys) : (s.mapSys f).tile.tenant = s.tile.tenant := rfl
@[simp] theorem mapSys_near (s : State) (f : Sys → Sys) : (s.mapSys f).tile.near = s.tile.near := rfl
@[simp] theorem mapSys_ord (s : State) (f : Sys → Sys) : (s.mapSys f).tile.ord = s.tile.ord := rfl
@[simp] theorem mapSys_bufs (s : State) (f : Sys → Sys) : (s.mapSys f).tile.bufs = s.tile.bufs := rfl
@[simp] theorem mapSys_eng (s : State) (f : Sys → Sys) : (s.mapSys f).tile.eng = s.tile.eng := rfl
@[simp] theorem mapSys_task (s : State) (f : Sys → Sys) : (s.mapSys f).tile.task = s.tile.task := rfl
@[simp] theorem mapSys_disp (s : State) (f : Sys → Sys) : (s.mapSys f).tile.disp = s.tile.disp := rfl
@[simp] theorem mapSys_pkg (s : State) (f : Sys → Sys) : (s.mapSys f).pkg = s.pkg := rfl
@[simp] theorem mapSys_peers (s : State) (f : Sys → Sys) : (s.mapSys f).peers = s.peers := rfl
@[simp] theorem mapSys_pool (s : State) (f : Sys → Sys) : (s.mapSys f).pool = s.pool := rfl
@[simp] theorem mapSys_nodes (s : State) (f : Sys → Sys) : (s.mapSys f).nodes = s.nodes := rfl
@[simp] theorem mapSys_agenda (s : State) (f : Sys → Sys) : (s.mapSys f).agenda = s.agenda := rfl
@[simp] theorem mapSys_arg (s : State) (f : Sys → Sys) : (s.mapSys f).arg = s.arg := rfl
@[simp] theorem mapSys_fresh (s : State) (f : Sys → Sys) : (s.mapSys f).fresh = s.fresh := rfl

/-! ### mapPar -/

@[simp] theorem mapPar_phys (s : State) (f : Par → Par) : (s.mapPar f).tile.phys = s.tile.phys := rfl
@[simp] theorem mapPar_core (s : State) (f : Par → Par) : (s.mapPar f).tile.core = s.tile.core := rfl
@[simp] theorem mapPar_par (s : State) (f : Par → Par) : (s.mapPar f).tile.par = f s.tile.par := rfl
@[simp] theorem mapPar_sys (s : State) (f : Par → Par) : (s.mapPar f).tile.sys = s.tile.sys := rfl
@[simp] theorem mapPar_caps (s : State) (f : Par → Par) : (s.mapPar f).tile.caps = s.tile.caps := rfl
@[simp] theorem mapPar_fetch (s : State) (f : Par → Par) : (s.mapPar f).tile.fetch = s.tile.fetch := rfl
@[simp] theorem mapPar_tenant (s : State) (f : Par → Par) : (s.mapPar f).tile.tenant = s.tile.tenant := rfl
@[simp] theorem mapPar_near (s : State) (f : Par → Par) : (s.mapPar f).tile.near = s.tile.near := rfl
@[simp] theorem mapPar_ord (s : State) (f : Par → Par) : (s.mapPar f).tile.ord = s.tile.ord := rfl
@[simp] theorem mapPar_bufs (s : State) (f : Par → Par) : (s.mapPar f).tile.bufs = s.tile.bufs := rfl
@[simp] theorem mapPar_eng (s : State) (f : Par → Par) : (s.mapPar f).tile.eng = s.tile.eng := rfl
@[simp] theorem mapPar_task (s : State) (f : Par → Par) : (s.mapPar f).tile.task = s.tile.task := rfl
@[simp] theorem mapPar_disp (s : State) (f : Par → Par) : (s.mapPar f).tile.disp = s.tile.disp := rfl
@[simp] theorem mapPar_pkg (s : State) (f : Par → Par) : (s.mapPar f).pkg = s.pkg := rfl
@[simp] theorem mapPar_peers (s : State) (f : Par → Par) : (s.mapPar f).peers = s.peers := rfl
@[simp] theorem mapPar_pool (s : State) (f : Par → Par) : (s.mapPar f).pool = s.pool := rfl
@[simp] theorem mapPar_nodes (s : State) (f : Par → Par) : (s.mapPar f).nodes = s.nodes := rfl
@[simp] theorem mapPar_agenda (s : State) (f : Par → Par) : (s.mapPar f).agenda = s.agenda := rfl
@[simp] theorem mapPar_arg (s : State) (f : Par → Par) : (s.mapPar f).arg = s.arg := rfl
@[simp] theorem mapPar_fresh (s : State) (f : Par → Par) : (s.mapPar f).fresh = s.fresh := rfl

/-! ### mapOrd -/

@[simp] theorem mapOrd_phys (s : State) (f : OrdSt → OrdSt) : (s.mapOrd f).tile.phys = s.tile.phys := rfl
@[simp] theorem mapOrd_core (s : State) (f : OrdSt → OrdSt) : (s.mapOrd f).tile.core = s.tile.core := rfl
@[simp] theorem mapOrd_par (s : State) (f : OrdSt → OrdSt) : (s.mapOrd f).tile.par = s.tile.par := rfl
@[simp] theorem mapOrd_sys (s : State) (f : OrdSt → OrdSt) : (s.mapOrd f).tile.sys = s.tile.sys := rfl
@[simp] theorem mapOrd_caps (s : State) (f : OrdSt → OrdSt) : (s.mapOrd f).tile.caps = s.tile.caps := rfl
@[simp] theorem mapOrd_fetch (s : State) (f : OrdSt → OrdSt) : (s.mapOrd f).tile.fetch = s.tile.fetch := rfl
@[simp] theorem mapOrd_tenant (s : State) (f : OrdSt → OrdSt) : (s.mapOrd f).tile.tenant = s.tile.tenant := rfl
@[simp] theorem mapOrd_near (s : State) (f : OrdSt → OrdSt) : (s.mapOrd f).tile.near = s.tile.near := rfl
@[simp] theorem mapOrd_ord (s : State) (f : OrdSt → OrdSt) : (s.mapOrd f).tile.ord = f s.tile.ord := rfl
@[simp] theorem mapOrd_bufs (s : State) (f : OrdSt → OrdSt) : (s.mapOrd f).tile.bufs = s.tile.bufs := rfl
@[simp] theorem mapOrd_eng (s : State) (f : OrdSt → OrdSt) : (s.mapOrd f).tile.eng = s.tile.eng := rfl
@[simp] theorem mapOrd_task (s : State) (f : OrdSt → OrdSt) : (s.mapOrd f).tile.task = s.tile.task := rfl
@[simp] theorem mapOrd_disp (s : State) (f : OrdSt → OrdSt) : (s.mapOrd f).tile.disp = s.tile.disp := rfl
@[simp] theorem mapOrd_pkg (s : State) (f : OrdSt → OrdSt) : (s.mapOrd f).pkg = s.pkg := rfl
@[simp] theorem mapOrd_peers (s : State) (f : OrdSt → OrdSt) : (s.mapOrd f).peers = s.peers := rfl
@[simp] theorem mapOrd_pool (s : State) (f : OrdSt → OrdSt) : (s.mapOrd f).pool = s.pool := rfl
@[simp] theorem mapOrd_nodes (s : State) (f : OrdSt → OrdSt) : (s.mapOrd f).nodes = s.nodes := rfl
@[simp] theorem mapOrd_agenda (s : State) (f : OrdSt → OrdSt) : (s.mapOrd f).agenda = s.agenda := rfl
@[simp] theorem mapOrd_arg (s : State) (f : OrdSt → OrdSt) : (s.mapOrd f).arg = s.arg := rfl
@[simp] theorem mapOrd_fresh (s : State) (f : OrdSt → OrdSt) : (s.mapOrd f).fresh = s.fresh := rfl

/-! ### mapEng -/

@[simp] theorem mapEng_phys (s : State) (f : Engs → Engs) : (s.mapEng f).tile.phys = s.tile.phys := rfl
@[simp] theorem mapEng_core (s : State) (f : Engs → Engs) : (s.mapEng f).tile.core = s.tile.core := rfl
@[simp] theorem mapEng_par (s : State) (f : Engs → Engs) : (s.mapEng f).tile.par = s.tile.par := rfl
@[simp] theorem mapEng_sys (s : State) (f : Engs → Engs) : (s.mapEng f).tile.sys = s.tile.sys := rfl
@[simp] theorem mapEng_caps (s : State) (f : Engs → Engs) : (s.mapEng f).tile.caps = s.tile.caps := rfl
@[simp] theorem mapEng_fetch (s : State) (f : Engs → Engs) : (s.mapEng f).tile.fetch = s.tile.fetch := rfl
@[simp] theorem mapEng_tenant (s : State) (f : Engs → Engs) : (s.mapEng f).tile.tenant = s.tile.tenant := rfl
@[simp] theorem mapEng_near (s : State) (f : Engs → Engs) : (s.mapEng f).tile.near = s.tile.near := rfl
@[simp] theorem mapEng_ord (s : State) (f : Engs → Engs) : (s.mapEng f).tile.ord = s.tile.ord := rfl
@[simp] theorem mapEng_bufs (s : State) (f : Engs → Engs) : (s.mapEng f).tile.bufs = s.tile.bufs := rfl
@[simp] theorem mapEng_eng (s : State) (f : Engs → Engs) : (s.mapEng f).tile.eng = f s.tile.eng := rfl
@[simp] theorem mapEng_task (s : State) (f : Engs → Engs) : (s.mapEng f).tile.task = s.tile.task := rfl
@[simp] theorem mapEng_disp (s : State) (f : Engs → Engs) : (s.mapEng f).tile.disp = s.tile.disp := rfl
@[simp] theorem mapEng_pkg (s : State) (f : Engs → Engs) : (s.mapEng f).pkg = s.pkg := rfl
@[simp] theorem mapEng_peers (s : State) (f : Engs → Engs) : (s.mapEng f).peers = s.peers := rfl
@[simp] theorem mapEng_pool (s : State) (f : Engs → Engs) : (s.mapEng f).pool = s.pool := rfl
@[simp] theorem mapEng_nodes (s : State) (f : Engs → Engs) : (s.mapEng f).nodes = s.nodes := rfl
@[simp] theorem mapEng_agenda (s : State) (f : Engs → Engs) : (s.mapEng f).agenda = s.agenda := rfl
@[simp] theorem mapEng_arg (s : State) (f : Engs → Engs) : (s.mapEng f).arg = s.arg := rfl
@[simp] theorem mapEng_fresh (s : State) (f : Engs → Engs) : (s.mapEng f).fresh = s.fresh := rfl

/-! ### mapNear -/

@[simp] theorem mapNear_phys (s : State) (f : Near → Near) : (s.mapNear f).tile.phys = s.tile.phys := rfl
@[simp] theorem mapNear_core (s : State) (f : Near → Near) : (s.mapNear f).tile.core = s.tile.core := rfl
@[simp] theorem mapNear_par (s : State) (f : Near → Near) : (s.mapNear f).tile.par = s.tile.par := rfl
@[simp] theorem mapNear_sys (s : State) (f : Near → Near) : (s.mapNear f).tile.sys = s.tile.sys := rfl
@[simp] theorem mapNear_caps (s : State) (f : Near → Near) : (s.mapNear f).tile.caps = s.tile.caps := rfl
@[simp] theorem mapNear_fetch (s : State) (f : Near → Near) : (s.mapNear f).tile.fetch = s.tile.fetch := rfl
@[simp] theorem mapNear_tenant (s : State) (f : Near → Near) : (s.mapNear f).tile.tenant = s.tile.tenant := rfl
@[simp] theorem mapNear_near (s : State) (f : Near → Near) : (s.mapNear f).tile.near = f s.tile.near := rfl
@[simp] theorem mapNear_ord (s : State) (f : Near → Near) : (s.mapNear f).tile.ord = s.tile.ord := rfl
@[simp] theorem mapNear_bufs (s : State) (f : Near → Near) : (s.mapNear f).tile.bufs = s.tile.bufs := rfl
@[simp] theorem mapNear_eng (s : State) (f : Near → Near) : (s.mapNear f).tile.eng = s.tile.eng := rfl
@[simp] theorem mapNear_task (s : State) (f : Near → Near) : (s.mapNear f).tile.task = s.tile.task := rfl
@[simp] theorem mapNear_disp (s : State) (f : Near → Near) : (s.mapNear f).tile.disp = s.tile.disp := rfl
@[simp] theorem mapNear_pkg (s : State) (f : Near → Near) : (s.mapNear f).pkg = s.pkg := rfl
@[simp] theorem mapNear_peers (s : State) (f : Near → Near) : (s.mapNear f).peers = s.peers := rfl
@[simp] theorem mapNear_pool (s : State) (f : Near → Near) : (s.mapNear f).pool = s.pool := rfl
@[simp] theorem mapNear_nodes (s : State) (f : Near → Near) : (s.mapNear f).nodes = s.nodes := rfl
@[simp] theorem mapNear_agenda (s : State) (f : Near → Near) : (s.mapNear f).agenda = s.agenda := rfl
@[simp] theorem mapNear_arg (s : State) (f : Near → Near) : (s.mapNear f).arg = s.arg := rfl
@[simp] theorem mapNear_fresh (s : State) (f : Near → Near) : (s.mapNear f).fresh = s.fresh := rfl

/-! ### mapTask -/

@[simp] theorem mapTask_phys (s : State) (f : TaskCtx → TaskCtx) : (s.mapTask f).tile.phys = s.tile.phys := rfl
@[simp] theorem mapTask_core (s : State) (f : TaskCtx → TaskCtx) : (s.mapTask f).tile.core = s.tile.core := rfl
@[simp] theorem mapTask_par (s : State) (f : TaskCtx → TaskCtx) : (s.mapTask f).tile.par = s.tile.par := rfl
@[simp] theorem mapTask_sys (s : State) (f : TaskCtx → TaskCtx) : (s.mapTask f).tile.sys = s.tile.sys := rfl
@[simp] theorem mapTask_caps (s : State) (f : TaskCtx → TaskCtx) : (s.mapTask f).tile.caps = s.tile.caps := rfl
@[simp] theorem mapTask_fetch (s : State) (f : TaskCtx → TaskCtx) : (s.mapTask f).tile.fetch = s.tile.fetch := rfl
@[simp] theorem mapTask_tenant (s : State) (f : TaskCtx → TaskCtx) : (s.mapTask f).tile.tenant = s.tile.tenant := rfl
@[simp] theorem mapTask_near (s : State) (f : TaskCtx → TaskCtx) : (s.mapTask f).tile.near = s.tile.near := rfl
@[simp] theorem mapTask_ord (s : State) (f : TaskCtx → TaskCtx) : (s.mapTask f).tile.ord = s.tile.ord := rfl
@[simp] theorem mapTask_bufs (s : State) (f : TaskCtx → TaskCtx) : (s.mapTask f).tile.bufs = s.tile.bufs := rfl
@[simp] theorem mapTask_eng (s : State) (f : TaskCtx → TaskCtx) : (s.mapTask f).tile.eng = s.tile.eng := rfl
@[simp] theorem mapTask_task (s : State) (f : TaskCtx → TaskCtx) : (s.mapTask f).tile.task = f s.tile.task := rfl
@[simp] theorem mapTask_disp (s : State) (f : TaskCtx → TaskCtx) : (s.mapTask f).tile.disp = s.tile.disp := rfl
@[simp] theorem mapTask_pkg (s : State) (f : TaskCtx → TaskCtx) : (s.mapTask f).pkg = s.pkg := rfl
@[simp] theorem mapTask_peers (s : State) (f : TaskCtx → TaskCtx) : (s.mapTask f).peers = s.peers := rfl
@[simp] theorem mapTask_pool (s : State) (f : TaskCtx → TaskCtx) : (s.mapTask f).pool = s.pool := rfl
@[simp] theorem mapTask_nodes (s : State) (f : TaskCtx → TaskCtx) : (s.mapTask f).nodes = s.nodes := rfl
@[simp] theorem mapTask_agenda (s : State) (f : TaskCtx → TaskCtx) : (s.mapTask f).agenda = s.agenda := rfl
@[simp] theorem mapTask_arg (s : State) (f : TaskCtx → TaskCtx) : (s.mapTask f).arg = s.arg := rfl
@[simp] theorem mapTask_fresh (s : State) (f : TaskCtx → TaskCtx) : (s.mapTask f).fresh = s.fresh := rfl

/-! ### mapDisp -/

@[simp] theorem mapDisp_phys (s : State) (f : Disp → Disp) : (s.mapDisp f).tile.phys = s.tile.phys := rfl
@[simp] theorem mapDisp_core (s : State) (f : Disp → Disp) : (s.mapDisp f).tile.core = s.tile.core := rfl
@[simp] theorem mapDisp_par (s : State) (f : Disp → Disp) : (s.mapDisp f).tile.par = s.tile.par := rfl
@[simp] theorem mapDisp_sys (s : State) (f : Disp → Disp) : (s.mapDisp f).tile.sys = s.tile.sys := rfl
@[simp] theorem mapDisp_caps (s : State) (f : Disp → Disp) : (s.mapDisp f).tile.caps = s.tile.caps := rfl
@[simp] theorem mapDisp_fetch (s : State) (f : Disp → Disp) : (s.mapDisp f).tile.fetch = s.tile.fetch := rfl
@[simp] theorem mapDisp_tenant (s : State) (f : Disp → Disp) : (s.mapDisp f).tile.tenant = s.tile.tenant := rfl
@[simp] theorem mapDisp_near (s : State) (f : Disp → Disp) : (s.mapDisp f).tile.near = s.tile.near := rfl
@[simp] theorem mapDisp_ord (s : State) (f : Disp → Disp) : (s.mapDisp f).tile.ord = s.tile.ord := rfl
@[simp] theorem mapDisp_bufs (s : State) (f : Disp → Disp) : (s.mapDisp f).tile.bufs = s.tile.bufs := rfl
@[simp] theorem mapDisp_eng (s : State) (f : Disp → Disp) : (s.mapDisp f).tile.eng = s.tile.eng := rfl
@[simp] theorem mapDisp_task (s : State) (f : Disp → Disp) : (s.mapDisp f).tile.task = s.tile.task := rfl
@[simp] theorem mapDisp_disp (s : State) (f : Disp → Disp) : (s.mapDisp f).tile.disp = f s.tile.disp := rfl
@[simp] theorem mapDisp_pkg (s : State) (f : Disp → Disp) : (s.mapDisp f).pkg = s.pkg := rfl
@[simp] theorem mapDisp_peers (s : State) (f : Disp → Disp) : (s.mapDisp f).peers = s.peers := rfl
@[simp] theorem mapDisp_pool (s : State) (f : Disp → Disp) : (s.mapDisp f).pool = s.pool := rfl
@[simp] theorem mapDisp_nodes (s : State) (f : Disp → Disp) : (s.mapDisp f).nodes = s.nodes := rfl
@[simp] theorem mapDisp_agenda (s : State) (f : Disp → Disp) : (s.mapDisp f).agenda = s.agenda := rfl
@[simp] theorem mapDisp_arg (s : State) (f : Disp → Disp) : (s.mapDisp f).arg = s.arg := rfl
@[simp] theorem mapDisp_fresh (s : State) (f : Disp → Disp) : (s.mapDisp f).fresh = s.fresh := rfl

end Sys2Proof.Machine
end

