-- ==== Sys2Proof/Laws/Core.lean ====
section
/-! SUPPORT. What one control word can do, said once: its completion, its fault, its hold, a skipped word, and NAS. -/

namespace Sys2Proof.Machine

/-! ### NAS -/

theorem nasAfter_seq (s t : State) (h : Hdr) (p : Bool) (hn : h.nas = .seq) : s.nasAfter t h p = s.sequel t := by
  unfold State.nasAfter State.applyNas
  rw [hn]
  rfl

/-! ### A control word -/

/-- The issue conditions as `coreWord` tests them. -/
theorem Issues.ready {s : State} {h : Hdr} {rs : List Reg} {cs : List CReg} (hi : s.Issues h rs cs) :
    (rs.any s.pendingReg || cs.any s.pendingCap || s.nasPending h) = false := by
  obtain ⟨-, hr, hc, hn, -⟩ := hi
  unfold State.nasPending
  simp only [Bool.or_eq_false_iff, List.any_eq_false, Bool.and_eq_false_iff, beq_eq_false_iff_ne, Bool.not_eq_true]
  refine ⟨⟨hr, hc⟩, ?_⟩
  by_cases hh : h.nas = .calli ∨ h.nas = .jmpi
  · exact Or.inr (hn hh)
  · exact Or.inl ⟨fun e => hh (Or.inl e), fun e => hh (Or.inr e)⟩

section
variable {s : State} {h : Hdr} {rs : List Reg} {cs : List CReg} {k : Bool} {op : State → OpRes}

/-- A word that issues, at a level that may run it, is its operation. -/
theorem coreWord_issues (hi : s.Issues h rs cs) (hk : (k && !s.tile.core.level.atLeastK) = false) :
    s.coreWord h rs cs k op =
      match op s with
      | .done t => .next (s.nasAfter t h (s.predField h.pred))
      | .goto t => .next t.finish.boundary
      | .hold t => .next t.held
      | .await t late => .next (s.awaits t h (s.predField h.pred) late)
      | .fault fi => .next (s.takeFault fi s.tile.core.pc)
      | .stop => .next s.stopTask
      | .wait t r old =>
        if h.nas == .calli && !t.canPush 1 then .next (s.takeFault { code := .stackLimit, eval := some 0 } s.tile.core.pc)
        else .next (t.mapOrd (fun o => { o with nasWait := some ⟨h, r, old, s.tile.sys.pkseq⟩ })).held := by
  unfold State.coreWord
  rw [hi.1, hk, Issues.ready hi, hi.2.2.2.2]
  cases op s <;> rfl

theorem coreWord_done {t : State} (hi : s.Issues h rs cs) (hk : (k && !s.tile.core.level.atLeastK) = false) (ho : op s = .done t) :
    s.coreWord h rs cs k op = .next (s.nasAfter t h (s.predField h.pred)) := by
  rw [coreWord_issues hi hk, ho]

theorem coreWord_goto {t : State} (hi : s.Issues h rs cs) (hk : (k && !s.tile.core.level.atLeastK) = false) (ho : op s = .goto t) :
    s.coreWord h rs cs k op = .next t.finish.boundary := by
  rw [coreWord_issues hi hk, ho]

theorem coreWord_hold {t : State} (hi : s.Issues h rs cs) (hk : (k && !s.tile.core.level.atLeastK) = false) (ho : op s = .hold t) :
    s.coreWord h rs cs k op = .next t.held := by
  rw [coreWord_issues hi hk, ho]

/-- A word that waits with its access issued is held, unless NAS faults or stops the batch (R29, R129). -/
theorem coreWord_await {t : State} {late : Bool} (hi : s.Issues h rs cs) (hk : (k && !s.tile.core.level.atLeastK) = false) (ho : op s = .await t late) :
    s.coreWord h rs cs k op = .next (s.awaits t h (s.predField h.pred) late) := by
  rw [coreWord_issues hi hk, ho]

theorem coreWord_fault {fi : FaultInfo} (hi : s.Issues h rs cs) (hk : (k && !s.tile.core.level.atLeastK) = false) (ho : op s = .fault fi) :
    s.coreWord h rs cs k op = .next (s.takeFault fi s.tile.core.pc) := by
  rw [coreWord_issues hi hk, ho]

/-- A word below its level takes PRIVILEGE (R360). -/
theorem coreWord_privilege (hw : s.tile.ord.nasWait = none) (hl : s.tile.core.level.atLeastK = false) :
    s.coreWord h rs cs true op = .next (s.takeFault { code := .privilege } s.tile.core.pc) := by
  unfold State.coreWord
  simp only [hw, hl, Bool.not_false, Bool.and_self, if_true]

/-- A word that its predicate skips has no effect but NAS (R26). -/
theorem coreWord_skip (hw : s.tile.ord.nasWait = none) (hr : ∀ r ∈ rs, s.pendingReg r = false) (hc : ∀ c ∈ cs, s.pendingCap c = false)
    (hn : h.nas = .calli ∨ h.nas = .jmpi → s.pendingReg (nasReg h) = false) (hp : s.performs h = false)
    (hk : (k && !s.tile.core.level.atLeastK) = false) :
    s.coreWord h rs cs k op = .next (s.nasAfter s h (s.predField h.pred)) := by
  have hready : (rs.any s.pendingReg || cs.any s.pendingCap || s.nasPending h) = false := by
    unfold State.nasPending
    simp only [Bool.or_eq_false_iff, List.any_eq_false, Bool.and_eq_false_iff, beq_eq_false_iff_ne, Bool.not_eq_true]
    refine ⟨⟨hr, hc⟩, ?_⟩
    by_cases hh : h.nas = .calli ∨ h.nas = .jmpi
    · exact Or.inr (hn hh)
    · exact Or.inl ⟨fun e => hh (Or.inl e), fun e => hh (Or.inr e)⟩
  unfold State.coreWord
  simp only [hw, hk, hready, hp, Bool.false_eq_true, if_false]

/-- Every control word answers a next state. -/
theorem coreWord_next : ∃ t, s.coreWord h rs cs k op = .next t := by
  unfold State.coreWord
  split
  · exact ⟨_, rfl⟩
  · repeat' split
    all_goals exact ⟨_, rfl⟩

/-- A word whose meaning is one `coreWord` completes as its operation does. -/
theorem completes_of {i : Instr} {t : State} (he : exec i s = s.coreWord h rs cs k op) (hi : s.Issues h rs cs)
    (hk : (k && !s.tile.core.level.atLeastK) = false) (ho : op s = .done t) : Completes i h s t := by
  have hc : exec i s = .next (s.nasAfter t h (s.predField h.pred)) := by rw [he, coreWord_done hi hk ho]
  exact ⟨hc, fun hn => by rw [hc, nasAfter_seq _ _ _ _ hn]⟩

/-- A word whose operation faults takes the fault. -/
theorem faults_of {i : Instr} {fi : FaultInfo} (he : exec i s = s.coreWord h rs cs k op) (hi : s.Issues h rs cs)
    (hk : (k && !s.tile.core.level.atLeastK) = false) (ho : op s = .fault fi) : Faults i s fi := by
  show exec i s = _
  rw [he, coreWord_fault hi hk ho]

/-- A word whose operation holds holds. -/
theorem holds_of {i : Instr} {t : State} (he : exec i s = s.coreWord h rs cs k op) (hi : s.Issues h rs cs)
    (hk : (k && !s.tile.core.level.atLeastK) = false) (ho : op s = .hold t) : Holds i s t := by
  show exec i s = _
  rw [he, coreWord_hold hi hk ho]

end

/-- Fewer registers issue too. -/
theorem Issues.mono {s : State} {h : Hdr} {rs rs' : List Reg} {cs cs' : List CReg} (hi : s.Issues h rs cs)
    (hr : ∀ r ∈ rs', r ∈ rs) (hc : ∀ c ∈ cs', c ∈ cs) : s.Issues h rs' cs' :=
  ⟨hi.1, fun r m => hi.2.1 r (hr r m), fun c m => hi.2.2.1 c (hc c m), hi.2.2.2⟩

end Sys2Proof.Machine
end

