-- ==== Sys2Proof/Laws/Exec.lean ====
section
/-! SUPPORT. One equation per arm of `exec`, so that no proof opens its match. -/

namespace Sys2Proof.Machine

theorem exec_add (s : State) (h : Hdr) (d a b : Reg) : exec (.add h d a b) s = execAdd h d a b s := rfl
theorem exec_sub (s : State) (h : Hdr) (d a b : Reg) : exec (.sub h d a b) s = execSub h d a b s := rfl
theorem exec_mul (s : State) (h : Hdr) (d a b : Reg) : exec (.mul h d a b) s = execMul h d a b s := rfl
theorem exec_mulhS (s : State) (h : Hdr) (d a b : Reg) : exec (.mulhS h d a b) s = execMulhS h d a b s := rfl
theorem exec_mulhZ (s : State) (h : Hdr) (d a b : Reg) : exec (.mulhZ h d a b) s = execMulhZ h d a b s := rfl
theorem exec_divS (s : State) (h : Hdr) (d a b : Reg) : exec (.divS h d a b) s = execDivS h d a b s := rfl
theorem exec_divZ (s : State) (h : Hdr) (d a b : Reg) : exec (.divZ h d a b) s = execDivZ h d a b s := rfl
theorem exec_remS (s : State) (h : Hdr) (d a b : Reg) : exec (.remS h d a b) s = execRemS h d a b s := rfl
theorem exec_remZ (s : State) (h : Hdr) (d a b : Reg) : exec (.remZ h d a b) s = execRemZ h d a b s := rfl
theorem exec_and (s : State) (h : Hdr) (d a b : Reg) : exec (.and h d a b) s = execAnd h d a b s := rfl
theorem exec_or (s : State) (h : Hdr) (d a b : Reg) : exec (.or h d a b) s = execOr h d a b s := rfl
theorem exec_xor (s : State) (h : Hdr) (d a b : Reg) : exec (.xor h d a b) s = execXor h d a b s := rfl
theorem exec_andn (s : State) (h : Hdr) (d a b : Reg) : exec (.andn h d a b) s = execAndn h d a b s := rfl
theorem exec_shl (s : State) (h : Hdr) (d a b : Reg) : exec (.shl h d a b) s = execShl h d a b s := rfl
theorem exec_shr (s : State) (h : Hdr) (d a b : Reg) : exec (.shr h d a b) s = execShr h d a b s := rfl
theorem exec_sra (s : State) (h : Hdr) (d a b : Reg) : exec (.sra h d a b) s = execSra h d a b s := rfl
theorem exec_rol (s : State) (h : Hdr) (d a b : Reg) : exec (.rol h d a b) s = execRol h d a b s := rfl
theorem exec_minS (s : State) (h : Hdr) (d a b : Reg) : exec (.minS h d a b) s = execMinS h d a b s := rfl
theorem exec_minZ (s : State) (h : Hdr) (d a b : Reg) : exec (.minZ h d a b) s = execMinZ h d a b s := rfl
theorem exec_maxS (s : State) (h : Hdr) (d a b : Reg) : exec (.maxS h d a b) s = execMaxS h d a b s := rfl
theorem exec_maxZ (s : State) (h : Hdr) (d a b : Reg) : exec (.maxZ h d a b) s = execMaxZ h d a b s := rfl
theorem exec_sel (s : State) (h : Hdr) (d a b : Reg) (inv : Bool) (n : PReg) : exec (.sel h d a b inv n) s = execSel h d a b inv n s := rfl
theorem exec_pand (s : State) (h : Hdr) (d a b : PReg) : exec (.pand h d a b) s = execPand h d a b s := rfl
theorem exec_por (s : State) (h : Hdr) (d a b : PReg) : exec (.por h d a b) s = execPor h d a b s := rfl
theorem exec_pnot (s : State) (h : Hdr) (d a : PReg) : exec (.pnot h d a) s = execPnot h d a s := rfl
theorem exec_bswapH (s : State) (h : Hdr) (d a : Reg) : exec (.bswapH h d a) s = execBswapH h d a s := rfl
theorem exec_bswapW (s : State) (h : Hdr) (d a : Reg) : exec (.bswapW h d a) s = execBswapW h d a s := rfl
theorem exec_bswapD (s : State) (h : Hdr) (d a : Reg) : exec (.bswapD h d a) s = execBswapD h d a s := rfl
theorem exec_cmpEq (s : State) (h : Hdr) (d : PReg) (a b : Reg) : exec (.cmpEq h d a b) s = execCmpEq h d a b s := rfl
theorem exec_cmpNe (s : State) (h : Hdr) (d : PReg) (a b : Reg) : exec (.cmpNe h d a b) s = execCmpNe h d a b s := rfl
theorem exec_cmpLt (s : State) (h : Hdr) (d : PReg) (a b : Reg) : exec (.cmpLt h d a b) s = execCmpLt h d a b s := rfl
theorem exec_cmpGe (s : State) (h : Hdr) (d : PReg) (a b : Reg) : exec (.cmpGe h d a b) s = execCmpGe h d a b s := rfl
theorem exec_cmpLtz (s : State) (h : Hdr) (d : PReg) (a b : Reg) : exec (.cmpLtz h d a b) s = execCmpLtz h d a b s := rfl
theorem exec_cmpGez (s : State) (h : Hdr) (d : PReg) (a b : Reg) : exec (.cmpGez h d a b) s = execCmpGez h d a b s := rfl
theorem exec_lea (s : State) (h : Hdr) (d a b : Reg) (sh : BitVec 2) : exec (.lea h d a b sh) s = execLea h d a b sh s := rfl
theorem exec_clzB (s : State) (h : Hdr) (d a : Reg) : exec (.clzB h d a) s = execClzB h d a s := rfl
theorem exec_clzH (s : State) (h : Hdr) (d a : Reg) : exec (.clzH h d a) s = execClzH h d a s := rfl
theorem exec_clzW (s : State) (h : Hdr) (d a : Reg) : exec (.clzW h d a) s = execClzW h d a s := rfl
theorem exec_clzD (s : State) (h : Hdr) (d a : Reg) : exec (.clzD h d a) s = execClzD h d a s := rfl
theorem exec_ffsB (s : State) (h : Hdr) (d a : Reg) : exec (.ffsB h d a) s = execFfsB h d a s := rfl
theorem exec_ffsH (s : State) (h : Hdr) (d a : Reg) : exec (.ffsH h d a) s = execFfsH h d a s := rfl
theorem exec_ffsW (s : State) (h : Hdr) (d a : Reg) : exec (.ffsW h d a) s = execFfsW h d a s := rfl
theorem exec_ffsD (s : State) (h : Hdr) (d a : Reg) : exec (.ffsD h d a) s = execFfsD h d a s := rfl
theorem exec_popB (s : State) (h : Hdr) (d a : Reg) : exec (.popB h d a) s = execPopB h d a s := rfl
theorem exec_popH (s : State) (h : Hdr) (d a : Reg) : exec (.popH h d a) s = execPopH h d a s := rfl
theorem exec_popW (s : State) (h : Hdr) (d a : Reg) : exec (.popW h d a) s = execPopW h d a s := rfl
theorem exec_popD (s : State) (h : Hdr) (d a : Reg) : exec (.popD h d a) s = execPopD h d a s := rfl
theorem exec_fminS (s : State) (h : Hdr) (d a b : Reg) (m : FMods) : exec (.fminS h d a b m) s = execFminS h d a b m s := rfl
theorem exec_fminD (s : State) (h : Hdr) (d a b : Reg) (m : FMods) : exec (.fminD h d a b m) s = execFminD h d a b m s := rfl
theorem exec_fmaxS (s : State) (h : Hdr) (d a b : Reg) (m : FMods) : exec (.fmaxS h d a b m) s = execFmaxS h d a b m s := rfl
theorem exec_fmaxD (s : State) (h : Hdr) (d a b : Reg) (m : FMods) : exec (.fmaxD h d a b m) s = execFmaxD h d a b m s := rfl
theorem exec_fcmpS (s : State) (h : Hdr) (cc : BitVec 2) (d : PReg) (a b : Reg) : exec (.fcmpS h cc d a b) s = execFcmpS h cc d a b s := rfl
theorem exec_fcmpD (s : State) (h : Hdr) (cc : BitVec 2) (d : PReg) (a b : Reg) : exec (.fcmpD h cc d a b) s = execFcmpD h cc d a b s := rfl
theorem exec_fclassS (s : State) (h : Hdr) (d a : Reg) : exec (.fclassS h d a) s = execFclassS h d a s := rfl
theorem exec_fclassD (s : State) (h : Hdr) (d a : Reg) : exec (.fclassD h d a) s = execFclassD h d a s := rfl
theorem exec_fcvt (s : State) (h : Hdr) (rm : RmSel) (d a : Reg) (kind : BitVec 5) : exec (.fcvt h rm d a kind) s = execFcvt h rm d a kind s := rfl
theorem exec_faddS (s : State) (h : Hdr) (rm : RmSel) (d a b : Reg) (m : FMods) : exec (.faddS h rm d a b m) s = execFaddS h rm d a b m s := rfl
theorem exec_faddD (s : State) (h : Hdr) (rm : RmSel) (d a b : Reg) (m : FMods) : exec (.faddD h rm d a b m) s = execFaddD h rm d a b m s := rfl
theorem exec_fsubS (s : State) (h : Hdr) (rm : RmSel) (d a b : Reg) (m : FMods) : exec (.fsubS h rm d a b m) s = execFsubS h rm d a b m s := rfl
theorem exec_fsubD (s : State) (h : Hdr) (rm : RmSel) (d a b : Reg) (m : FMods) : exec (.fsubD h rm d a b m) s = execFsubD h rm d a b m s := rfl
theorem exec_fmulS (s : State) (h : Hdr) (rm : RmSel) (d a b : Reg) (m : FMods) : exec (.fmulS h rm d a b m) s = execFmulS h rm d a b m s := rfl
theorem exec_fmulD (s : State) (h : Hdr) (rm : RmSel) (d a b : Reg) (m : FMods) : exec (.fmulD h rm d a b m) s = execFmulD h rm d a b m s := rfl
theorem exec_fdivS (s : State) (h : Hdr) (rm : RmSel) (d a b : Reg) (m : FMods) : exec (.fdivS h rm d a b m) s = execFdivS h rm d a b m s := rfl
theorem exec_fdivD (s : State) (h : Hdr) (rm : RmSel) (d a b : Reg) (m : FMods) : exec (.fdivD h rm d a b m) s = execFdivD h rm d a b m s := rfl
theorem exec_ffmaS (s : State) (h : Hdr) (rm : RmSel) (d a b : Reg) (m : FMods) : exec (.ffmaS h rm d a b m) s = execFfmaS h rm d a b m s := rfl
theorem exec_ffmaD (s : State) (h : Hdr) (rm : RmSel) (d a b : Reg) (m : FMods) : exec (.ffmaD h rm d a b m) s = execFfmaD h rm d a b m s := rfl
theorem exec_fsqrtS (s : State) (h : Hdr) (rm : RmSel) (d a : Reg) (m : FMods) : exec (.fsqrtS h rm d a m) s = execFsqrtS h rm d a m s := rfl
theorem exec_fsqrtD (s : State) (h : Hdr) (rm : RmSel) (d a : Reg) (m : FMods) : exec (.fsqrtD h rm d a m) s = execFsqrtD h rm d a m s := rfl
theorem exec_addi (s : State) (h : Hdr) (d a : Reg) (imm : BitVec 20) : exec (.addi h d a imm) s = execAddi h d a imm s := rfl
theorem exec_andi (s : State) (h : Hdr) (d a : Reg) (imm : BitVec 20) : exec (.andi h d a imm) s = execAndi h d a imm s := rfl
theorem exec_ori (s : State) (h : Hdr) (d a : Reg) (imm : BitVec 20) : exec (.ori h d a imm) s = execOri h d a imm s := rfl
theorem exec_xori (s : State) (h : Hdr) (d a : Reg) (imm : BitVec 20) : exec (.xori h d a imm) s = execXori h d a imm s := rfl
theorem exec_shli (s : State) (h : Hdr) (d a : Reg) (n : BitVec 6) : exec (.shli h d a n) s = execShli h d a n s := rfl
theorem exec_shri (s : State) (h : Hdr) (d a : Reg) (n : BitVec 6) : exec (.shri h d a n) s = execShri h d a n s := rfl
theorem exec_srai (s : State) (h : Hdr) (d a : Reg) (n : BitVec 6) : exec (.srai h d a n) s = execSrai h d a n s := rfl
theorem exec_extS (s : State) (h : Hdr) (d a : Reg) (lm1 pos : BitVec 6) : exec (.extS h d a lm1 pos) s = execExtS h d a lm1 pos s := rfl
theorem exec_extZ (s : State) (h : Hdr) (d a : Reg) (lm1 pos : BitVec 6) : exec (.extZ h d a lm1 pos) s = execExtZ h d a lm1 pos s := rfl
theorem exec_ins (s : State) (h : Hdr) (d a : Reg) (lm1 pos : BitVec 6) : exec (.ins h d a lm1 pos) s = execIns h d a lm1 pos s := rfl
theorem exec_li (s : State) (h : Hdr) (d : Reg) (imm : BitVec 41) : exec (.li h d imm) s = execLi h d imm s := rfl
theorem exec_nop (s : State) (h : Hdr) : exec (.nop h) s = execNop h s := rfl
theorem exec_gsr (s : State) (h : Hdr) (d : Reg) (spec : BitVec 12) : exec (.gsr h d spec) s = execGsr h d spec s := rfl
theorem exec_ssr (s : State) (h : Hdr) (a : Reg) (spec : BitVec 12) : exec (.ssr h a spec) s = execSsr h a spec s := rfl
theorem exec_raise (s : State) (h : Hdr) (a : Reg) : exec (.raise h a) s = execRaise h a s := rfl
theorem exec_barC (s : State) (h : Hdr) (n : BitVec 4) : exec (.barC h n) s = execBarC h n s := rfl
theorem exec_barL (s : State) (h : Hdr) : exec (.barL h) s = execBarL h s := rfl
theorem exec_step (s : State) (h : Hdr) : exec (.step h) s = execStep h s := rfl
theorem exec_itemNext (s : State) (h : Hdr) (d : Reg) (p : PReg) : exec (.itemNext h d p) s = execItemNext h d p s := rfl
theorem exec_estAdd (s : State) (h : Hdr) (a : Reg) : exec (.estAdd h a) s = execEstAdd h a s := rfl
theorem exec_estFlush (s : State) (h : Hdr) : exec (.estFlush h) s = execEstFlush h s := rfl
theorem exec_estState (s : State) (h : Hdr) (d : Reg) (sel : BitVec 12) : exec (.estState h d sel) s = execEstState h d sel s := rfl
theorem exec_yield (s : State) (h : Hdr) : exec (.yield h) s = execYield h s := rfl
theorem exec_ldBs (s : State) (h : Hdr) (d : Reg) (o : MemOp) : exec (.ldBs h d o) s = execLdBs h d o s := rfl
theorem exec_ldBz (s : State) (h : Hdr) (d : Reg) (o : MemOp) : exec (.ldBz h d o) s = execLdBz h d o s := rfl
theorem exec_ldHs (s : State) (h : Hdr) (d : Reg) (o : MemOp) : exec (.ldHs h d o) s = execLdHs h d o s := rfl
theorem exec_ldHz (s : State) (h : Hdr) (d : Reg) (o : MemOp) : exec (.ldHz h d o) s = execLdHz h d o s := rfl
theorem exec_ldWs (s : State) (h : Hdr) (d : Reg) (o : MemOp) : exec (.ldWs h d o) s = execLdWs h d o s := rfl
theorem exec_ldWz (s : State) (h : Hdr) (d : Reg) (o : MemOp) : exec (.ldWz h d o) s = execLdWz h d o s := rfl
theorem exec_ldD (s : State) (h : Hdr) (d : Reg) (o : MemOp) : exec (.ldD h d o) s = execLdD h d o s := rfl
theorem exec_ldc (s : State) (h : Hdr) (d : CReg) (o : MemOp) : exec (.ldc h d o) s = execLdc h d o s := rfl
theorem exec_stB (s : State) (h : Hdr) (d : Reg) (o : MemOp) : exec (.stB h d o) s = execStB h d o s := rfl
theorem exec_stH (s : State) (h : Hdr) (d : Reg) (o : MemOp) : exec (.stH h d o) s = execStH h d o s := rfl
theorem exec_stW (s : State) (h : Hdr) (d : Reg) (o : MemOp) : exec (.stW h d o) s = execStW h d o s := rfl
theorem exec_stD (s : State) (h : Hdr) (d : Reg) (o : MemOp) : exec (.stD h d o) s = execStD h d o s := rfl
theorem exec_stc (s : State) (h : Hdr) (d : CReg) (o : MemOp) : exec (.stc h d o) s = execStc h d o s := rfl
theorem exec_mark (s : State) (h : Hdr) (o : MemOp) : exec (.mark h o) s = execMark h o s := rfl
theorem exec_amoAdd (s : State) (h : Hdr) (sc : BitVec 2) (d a : Reg) (c : CReg) (off : BitVec 14) : exec (.amoAdd h sc d a c off) s = execAmoAdd h sc d a c off s := rfl
theorem exec_amoAnd (s : State) (h : Hdr) (sc : BitVec 2) (d a : Reg) (c : CReg) (off : BitVec 14) : exec (.amoAnd h sc d a c off) s = execAmoAnd h sc d a c off s := rfl
theorem exec_amoOr (s : State) (h : Hdr) (sc : BitVec 2) (d a : Reg) (c : CReg) (off : BitVec 14) : exec (.amoOr h sc d a c off) s = execAmoOr h sc d a c off s := rfl
theorem exec_amoXor (s : State) (h : Hdr) (sc : BitVec 2) (d a : Reg) (c : CReg) (off : BitVec 14) : exec (.amoXor h sc d a c off) s = execAmoXor h sc d a c off s := rfl
theorem exec_amoMin (s : State) (h : Hdr) (sc : BitVec 2) (d a : Reg) (c : CReg) (off : BitVec 14) : exec (.amoMin h sc d a c off) s = execAmoMin h sc d a c off s := rfl
theorem exec_amoMax (s : State) (h : Hdr) (sc : BitVec 2) (d a : Reg) (c : CReg) (off : BitVec 14) : exec (.amoMax h sc d a c off) s = execAmoMax h sc d a c off s := rfl
theorem exec_amoSwap (s : State) (h : Hdr) (sc : BitVec 2) (d a : Reg) (c : CReg) (off : BitVec 14) : exec (.amoSwap h sc d a c off) s = execAmoSwap h sc d a c off s := rfl
theorem exec_cas (s : State) (h : Hdr) (sc : BitVec 2) (d a : Reg) (c : CReg) (off : BitVec 14) : exec (.cas h sc d a c off) s = execCas h sc d a c off s := rfl
theorem exec_fence (s : State) (h : Hdr) (sc : BitVec 2) : exec (.fence h sc) s = execFence h sc s := rfl
theorem exec_acq (s : State) (h : Hdr) (sc : BitVec 2) : exec (.acq h sc) s = execAcq h sc s := rfl
theorem exec_rel (s : State) (h : Hdr) (sc : BitVec 2) : exec (.rel h sc) s = execRel h sc s := rfl
theorem exec_mwait (s : State) (h : Hdr) (d a : Reg) (c : CReg) (off : BitVec 14) : exec (.mwait h d a c off) s = execMwait h d a c off s := rfl
theorem exec_cfl (s : State) (h : Hdr) (o : MemOp) : exec (.cfl h o) s = execCfl h o s := rfl
theorem exec_cinv (s : State) (h : Hdr) (o : MemOp) : exec (.cinv h o) s = execCinv h o s := rfl
theorem exec_capBnd (s : State) (h : Hdr) (d : CReg) (a : Reg) (c : CReg) : exec (.capBnd h d a c) s = execCapBnd h d a c s := rfl
theorem exec_capPrm (s : State) (h : Hdr) (d : CReg) (a : Reg) (c : CReg) : exec (.capPrm h d a c) s = execCapPrm h d a c s := rfl
theorem exec_capOff (s : State) (h : Hdr) (d : CReg) (o : MemOp) : exec (.capOff h d o) s = execCapOff h d o s := rfl
theorem exec_capGet (s : State) (h : Hdr) (d : Reg) (c : CReg) (sel : BitVec 3) : exec (.capGet h d c sel) s = execCapGet h d c sel s := rfl
theorem exec_capTst (s : State) (h : Hdr) (d : PReg) (a : Reg) (c : CReg) : exec (.capTst h d a c) s = execCapTst h d a c s := rfl
theorem exec_capClr (s : State) (h : Hdr) (d c : CReg) : exec (.capClr h d c) s = execCapClr h d c s := rfl
theorem exec_bufDecl (s : State) (h : Hdr) (d a : Reg) (id : BitVec 6) : exec (.bufDecl h d a id) s = execBufDecl h d a id s := rfl
theorem exec_bufSet (s : State) (h : Hdr) (id : BitVec 6) (st : BitVec 2) : exec (.bufSet h id st) s = execBufSet h id st s := rfl
theorem exec_bufGet (s : State) (h : Hdr) (d : Reg) (id : BitVec 6) : exec (.bufGet h d id) s = execBufGet h d id s := rfl
theorem exec_enq (s : State) (h : Hdr) (e : Eng) (a b : Reg) : exec (.enq h e a b) s = execEnq h e a b s := rfl
theorem exec_sdSet (s : State) (h : Hdr) (k : BitVec 3) (n : BitVec 4) (b : Reg) : exec (.sdSet h k n b) s = execSdSet h k n b s := rfl
theorem exec_sdGet (s : State) (h : Hdr) (k : BitVec 3) (n : BitVec 4) (b : Reg) : exec (.sdGet h k n b) s = execSdGet h k n b s := rfl
theorem exec_semSig (s : State) (h : Hdr) (n : BitVec 5) : exec (.semSig h n) s = execSemSig h n s := rfl
theorem exec_semWait (s : State) (h : Hdr) (n : BitVec 5) : exec (.semWait h n) s = execSemWait h n s := rfl
theorem exec_semGet (s : State) (h : Hdr) (a : Reg) (n : BitVec 5) : exec (.semGet h a n) s = execSemGet h a n s := rfl
theorem exec_seqWait (s : State) (h : Hdr) (e : Eng) (a : Reg) : exec (.seqWait h e a) s = execSeqWait h e a s := rfl
theorem exec_seqGet (s : State) (h : Hdr) (e : Eng) (a : Reg) : exec (.seqGet h e a) s = execSeqGet h e a s := rfl
theorem exec_condPop (s : State) (h : Hdr) (a : Reg) : exec (.condPop h a) s = execCondPop h a s := rfl
theorem exec_xfence (s : State) (h : Hdr) (e : Eng) : exec (.xfence h e) s = execXfence h e s := rfl
theorem exec_mcfg (s : State) (h : Hdr) (lvl : BitVec 3) (b : Reg) : exec (.mcfg h lvl b) s = execMcfg h lvl b s := rfl
theorem exec_mgo (s : State) (h : Hdr) : exec (.mgo h) s = execMgo h s := rfl
theorem exec_mkey (s : State) (h : Hdr) (n : BitVec 4) : exec (.mkey h n) s = execMkey h n s := rfl
theorem exec_mstat (s : State) (h : Hdr) (a : Reg) (sel : BitVec 5) : exec (.mstat h a sel) s = execMstat h a sel s := rfl
theorem exec_trap (s : State) (h : Hdr) (a : Reg) (code : BitVec 8) : exec (.trap h a code) s = execTrap h a code s := rfl
theorem exec_tret (s : State) (h : Hdr) : exec (.tret h) s = execTret h s := rfl
theorem exec_kcall (s : State) (h : Hdr) (svc : BitVec 12) : exec (.kcall h svc) s = execKcall h svc s := rfl
theorem exec_tlbiPage (s : State) (h : Hdr) (d a : Reg) (pod : Bool) : exec (.tlbiPage h d a pod) s = execTlbiPage h d a pod s := rfl
theorem exec_tlbiAsid (s : State) (h : Hdr) (d : Reg) (pod : Bool) : exec (.tlbiAsid h d pod) s = execTlbiAsid h d pod s := rfl
theorem exec_tlbiAll (s : State) (h : Hdr) (pod : Bool) : exec (.tlbiAll h pod) s = execTlbiAll h pod s := rfl
theorem exec_tlbsync (s : State) (h : Hdr) : exec (.tlbsync h) s = execTlbsync h s := rfl
theorem exec_ctxSave (s : State) (h : Hdr) (a : Reg) : exec (.ctxSave h a) s = execCtxSave h a s := rfl
theorem exec_ctxLoad (s : State) (h : Hdr) (a : Reg) : exec (.ctxLoad h a) s = execCtxLoad h a s := rfl
theorem exec_safe (s : State) (h : Hdr) : exec (.safe h) s = execSafe h s := rfl
theorem exec_brk (s : State) (h : Hdr) (tag : BitVec 12) : exec (.brk h tag) s = execBrk h tag s := rfl
theorem exec_idle (s : State) (h : Hdr) : exec (.idle h) s = execIdle h s := rfl
theorem exec_vAdd (s : State) (c : VCmd) : exec (.vAdd c) s = execVAdd c s := rfl
theorem exec_vSub (s : State) (c : VCmd) : exec (.vSub c) s = execVSub c s := rfl
theorem exec_vMul (s : State) (c : VCmd) : exec (.vMul c) s = execVMul c s := rfl
theorem exec_vFma (s : State) (c : VCmd) : exec (.vFma c) s = execVFma c s := rfl
theorem exec_vMin (s : State) (c : VCmd) : exec (.vMin c) s = execVMin c s := rfl
theorem exec_vMax (s : State) (c : VCmd) : exec (.vMax c) s = execVMax c s := rfl
theorem exec_vDiv (s : State) (c : VCmd) : exec (.vDiv c) s = execVDiv c s := rfl
theorem exec_vSqrt (s : State) (c : VCmd) : exec (.vSqrt c) s = execVSqrt c s := rfl
theorem exec_vRsq (s : State) (c : VCmd) : exec (.vRsq c) s = execVRsq c s := rfl
theorem exec_vCmp (s : State) (c : VCmd) : exec (.vCmp c) s = execVCmp c s := rfl
theorem exec_vSel (s : State) (c : VCmd) : exec (.vSel c) s = execVSel c s := rfl
theorem exec_vAnd (s : State) (c : VCmd) : exec (.vAnd c) s = execVAnd c s := rfl
theorem exec_vOr (s : State) (c : VCmd) : exec (.vOr c) s = execVOr c s := rfl
theorem exec_vXor (s : State) (c : VCmd) : exec (.vXor c) s = execVXor c s := rfl
theorem exec_vNot (s : State) (c : VCmd) : exec (.vNot c) s = execVNot c s := rfl
theorem exec_vShl (s : State) (c : VCmd) : exec (.vShl c) s = execVShl c s := rfl
theorem exec_vShr (s : State) (c : VCmd) : exec (.vShr c) s = execVShr c s := rfl
theorem exec_vSra (s : State) (c : VCmd) : exec (.vSra c) s = execVSra c s := rfl
theorem exec_vClz (s : State) (c : VCmd) : exec (.vClz c) s = execVClz c s := rfl
theorem exec_vFfs (s : State) (c : VCmd) : exec (.vFfs c) s = execVFfs c s := rfl
theorem exec_vPop (s : State) (c : VCmd) : exec (.vPop c) s = execVPop c s := rfl
theorem exec_vCvt (s : State) (c : VCmd) : exec (.vCvt c) s = execVCvt c s := rfl
theorem exec_vQblk (s : State) (c : VCmd) : exec (.vQblk c) s = execVQblk c s := rfl
theorem exec_vDq (s : State) (c : VCmd) : exec (.vDq c) s = execVDq c s := rfl
theorem exec_vTolog (s : State) (c : VCmd) : exec (.vTolog c) s = execVTolog c s := rfl
theorem exec_vFromlog (s : State) (c : VCmd) : exec (.vFromlog c) s = execVFromlog c s := rfl
theorem exec_vLmul (s : State) (c : VCmd) : exec (.vLmul c) s = execVLmul c s := rfl
theorem exec_vLdiv (s : State) (c : VCmd) : exec (.vLdiv c) s = execVLdiv c s := rfl
theorem exec_vLpow (s : State) (c : VCmd) : exec (.vLpow c) s = execVLpow c s := rfl
theorem exec_vLsqrt (s : State) (c : VCmd) : exec (.vLsqrt c) s = execVLsqrt c s := rfl
theorem exec_vLadd (s : State) (c : VCmd) : exec (.vLadd c) s = execVLadd c s := rfl
theorem exec_vAct (s : State) (c : VCmd) : exec (.vAct c) s = execVAct c s := rfl
theorem exec_vRed (s : State) (c : VCmd) : exec (.vRed c) s = execVRed c s := rfl
theorem exec_vScan (s : State) (c : VCmd) : exec (.vScan c) s = execVScan c s := rfl
theorem exec_vFill (s : State) (c : VCmd) : exec (.vFill c) s = execVFill c s := rfl
theorem exec_vIdx (s : State) (c : VCmd) : exec (.vIdx c) s = execVIdx c s := rfl
theorem exec_vPerm (s : State) (c : VCmd) : exec (.vPerm c) s = execVPerm c s := rfl
theorem exec_vMov (s : State) (c : VCmd) : exec (.vMov c) s = execVMov c s := rfl
theorem exec_vSpush (s : State) (c : VCmd) : exec (.vSpush c) s = execVSpush c s := rfl
theorem exec_vSpop (s : State) (c : VCmd) : exec (.vSpop c) s = execVSpop c s := rfl
theorem exec_vEst (s : State) (c : VCmd) : exec (.vEst c) s = execVEst c s := rfl
theorem exec_vRnd (s : State) (c : VCmd) : exec (.vRnd c) s = execVRnd c s := rfl
theorem exec_mma (s : State) (c : MCmd) : exec (.mma c) s = execMma c s := rfl
theorem exec_mmaDc (s : State) (c : MCmd) : exec (.mmaDc c) s = execMmaDc c s := rfl
theorem exec_accZero (s : State) (c : MCmd) : exec (.accZero c) s = execAccZero c s := rfl
theorem exec_accLd (s : State) (c : MCmd) : exec (.accLd c) s = execAccLd c s := rfl
theorem exec_accOut (s : State) (c : MCmd) : exec (.accOut c) s = execAccOut c s := rfl
theorem exec_xCopy (s : State) (c : XCmd) : exec (.xCopy c) s = execXCopy c s := rfl
theorem exec_xFill (s : State) (c : XCmd) : exec (.xFill c) s = execXFill c s := rfl
theorem exec_xGather (s : State) (c : XCmd) : exec (.xGather c) s = execXGather c s := rfl
theorem exec_xScatter (s : State) (c : XCmd) : exec (.xScatter c) s = execXScatter c s := rfl
theorem exec_xSend (s : State) (c : XCmd) : exec (.xSend c) s = execXSend c s := rfl
theorem exec_xFence (s : State) (c : XCmd) : exec (.xFence c) s = execXFence c s := rfl
theorem exec_xWait (s : State) (c : XCmd) : exec (.xWait c) s = execXWait c s := rfl
theorem exec_xPget (s : State) (c : XCmd) : exec (.xPget c) s = execXPget c s := rfl
theorem exec_xPput (s : State) (c : XCmd) : exec (.xPput c) s = execXPput c s := rfl
theorem exec_xPatom (s : State) (c : XCmd) : exec (.xPatom c) s = execXPatom c s := rfl
theorem exec_xLeaseRd (s : State) (c : XCmd) : exec (.xLeaseRd c) s = execXLeaseRd c s := rfl
theorem exec_xLeaseWr (s : State) (c : XCmd) : exec (.xLeaseWr c) s = execXLeaseWr c s := rfl
theorem exec_xLeaseRenew (s : State) (c : XCmd) : exec (.xLeaseRenew c) s = execXLeaseRenew c s := rfl
theorem exec_xLeaseRel (s : State) (c : XCmd) : exec (.xLeaseRel c) s = execXLeaseRel c s := rfl
theorem exec_xPref (s : State) (c : XCmd) : exec (.xPref c) s = execXPref c s := rfl
theorem exec_xRcopy (s : State) (c : XCmd) : exec (.xRcopy c) s = execXRcopy c s := rfl
theorem exec_xRst (s : State) (c : XCmd) : exec (.xRst c) s = execXRst c s := rfl
theorem exec_xCollBcast (s : State) (c : XCmd) : exec (.xCollBcast c) s = execXCollBcast c s := rfl
theorem exec_xCollGather (s : State) (c : XCmd) : exec (.xCollGather c) s = execXCollGather c s := rfl
theorem exec_xCollRscat (s : State) (c : XCmd) : exec (.xCollRscat c) s = execXCollRscat c s := rfl
theorem exec_xCollAllred (s : State) (c : XCmd) : exec (.xCollAllred c) s = execXCollAllred c s := rfl
theorem exec_xCircRes (s : State) (c : XCmd) : exec (.xCircRes c) s = execXCircRes c s := rfl
theorem exec_xCircRel (s : State) (c : XCmd) : exec (.xCircRel c) s = execXCircRel c s := rfl
theorem exec_xSfence (s : State) (c : XCmd) : exec (.xSfence c) s = execXSfence c s := rfl
theorem exec_unassignedControlOpcode (s : State) (w : W64) : exec (.unassignedControlOpcode w) s = execUnassignedControlOpcode w s := rfl
theorem exec_unassignedEngineOpcode (s : State) (e : Eng) (w : BitVec 128) : exec (.unassignedEngineOpcode e w) s = execUnassignedEngineOpcode e w s := rfl
theorem exec_trapEntry (s : State) : exec .trapEntry s = execTrapEntry s := rfl
theorem exec_engineStreamRestart (s : State) : exec .engineStreamRestart s = execEngineStreamRestart s := rfl
theorem exec_engineCommandComplete (s : State) : exec .engineCommandComplete s = execEngineCommandComplete s := rfl
theorem exec_subarrayPowerGate (s : State) : exec .subarrayPowerGate s = execSubarrayPowerGate s := rfl
theorem exec_launchLoad (s : State) : exec .launchLoad s = execLaunchLoad s := rfl
theorem exec_launchComplete (s : State) : exec .launchComplete s = execLaunchComplete s := rfl
theorem exec_launchFaultStop (s : State) : exec .launchFaultStop s = execLaunchFaultStop s := rfl
theorem exec_launchCancel (s : State) : exec .launchCancel s = execLaunchCancel s := rfl
theorem exec_bindWrite (s : State) : exec .bindWrite s = execBindWrite s := rfl
theorem exec_bindAgeTick (s : State) : exec .bindAgeTick s = execBindAgeTick s := rfl
theorem exec_bindDispatch (s : State) : exec .bindDispatch s = execBindDispatch s := rfl
theorem exec_taskDispatch (s : State) : exec .taskDispatch s = execTaskDispatch s := rfl
theorem exec_taskCommit (s : State) : exec .taskCommit s = execTaskCommit s := rfl
theorem exec_ttFiring (s : State) : exec .ttFiring s = execTtFiring s := rfl
theorem exec_ttWindowEnd (s : State) : exec .ttWindowEnd s = execTtWindowEnd s := rfl
theorem exec_almondMerge (s : State) : exec .almondMerge s = execAlmondMerge s := rfl
theorem exec_estimateStopArrival (s : State) : exec .estimateStopArrival s = execEstimateStopArrival s := rfl
theorem exec_loadRead (s : State) : exec .loadRead s = execLoadRead s := rfl
theorem exec_storePerform (s : State) : exec .storePerform s = execStorePerform s := rfl
theorem exec_portArrival (s : State) : exec .portArrival s = execPortArrival s := rfl
theorem exec_markerComplete (s : State) : exec .markerComplete s = execMarkerComplete s := rfl
theorem exec_lineEviction (s : State) : exec .lineEviction s = execLineEviction s := rfl
theorem exec_mwaitWake (s : State) : exec .mwaitWake s = execMwaitWake s := rfl
theorem exec_mwaitTimeout (s : State) : exec .mwaitTimeout s = execMwaitTimeout s := rfl
theorem exec_backgroundScrub (s : State) : exec .backgroundScrub s = execBackgroundScrub s := rfl
theorem exec_watchdog (s : State) : exec .watchdog s = execWatchdog s := rfl
theorem exec_preemptRequest (s : State) : exec .preemptRequest s = execPreemptRequest s := rfl
theorem exec_classPSave (s : State) : exec .classPSave s = execClassPSave s := rfl
theorem exec_classSSave (s : State) : exec .classSSave s = execClassSSave s := rfl
theorem exec_splimExpiry (s : State) : exec .splimExpiry s = execSplimExpiry s := rfl
theorem exec_launchResume (s : State) : exec .launchResume s = execLaunchResume s := rfl
theorem exec_dbgHalt (s : State) : exec .dbgHalt s = execDbgHalt s := rfl
theorem exec_dbgResume (s : State) : exec .dbgResume s = execDbgResume s := rfl
theorem exec_dbgStep (s : State) : exec .dbgStep s = execDbgStep s := rfl
theorem exec_hostDebugRequest (s : State) : exec .hostDebugRequest s = execHostDebugRequest s := rfl
theorem exec_messagePost (s : State) : exec .messagePost s = execMessagePost s := rfl
theorem exec_fencedDelivery (s : State) : exec .fencedDelivery s = execFencedDelivery s := rfl
theorem exec_get (s : State) : exec .get s = execGet s := rfl
theorem exec_put (s : State) : exec .put s = execPut s := rfl
theorem exec_load8 (s : State) : exec .load8 s = execLoad8 s := rfl
theorem exec_store8 (s : State) : exec .store8 s = execStore8 s := rfl
theorem exec_atomic (s : State) : exec .atomic s = execAtomic s := rfl
theorem exec_leaseAcquireRead (s : State) : exec .leaseAcquireRead s = execLeaseAcquireRead s := rfl
theorem exec_leaseAcquireWrite (s : State) : exec .leaseAcquireWrite s = execLeaseAcquireWrite s := rfl
theorem exec_leaseRenew (s : State) : exec .leaseRenew s = execLeaseRenew s := rfl
theorem exec_leaseRelease (s : State) : exec .leaseRelease s = execLeaseRelease s := rfl
theorem exec_fenceRaise (s : State) : exec .fenceRaise s = execFenceRaise s := rfl
theorem exec_leaseRevoke (s : State) : exec .leaseRevoke s = execLeaseRevoke s := rfl
theorem exec_leaseLocalExpiry (s : State) : exec .leaseLocalExpiry s = execLeaseLocalExpiry s := rfl
theorem exec_leaseNodeExpiry (s : State) : exec .leaseNodeExpiry s = execLeaseNodeExpiry s := rfl
theorem exec_sproutPublish (s : State) : exec .sproutPublish s = execSproutPublish s := rfl
theorem exec_sproutFetch (s : State) : exec .sproutFetch s = execSproutFetch s := rfl
theorem exec_scheduleReady (s : State) : exec .scheduleReady s = execScheduleReady s := rfl
theorem exec_scheduleDeadline (s : State) : exec .scheduleDeadline s = execScheduleDeadline s := rfl
theorem exec_sproutRenew (s : State) : exec .sproutRenew s = execSproutRenew s := rfl
theorem exec_sproutStepDone (s : State) : exec .sproutStepDone s = execSproutStepDone s := rfl
theorem exec_podTableRecord (s : State) : exec .podTableRecord s = execPodTableRecord s := rfl
theorem exec_podMemberRemove (s : State) : exec .podMemberRemove s = execPodMemberRemove s := rfl
theorem exec_bringupStart (s : State) : exec .bringupStart s = execBringupStart s := rfl
theorem exec_bringupStageDone (s : State) : exec .bringupStageDone s = execBringupStageDone s := rfl
theorem exec_bringupStageTimeout (s : State) : exec .bringupStageTimeout s = execBringupStageTimeout s := rfl
theorem exec_codewordReceive (s : State) : exec .codewordReceive s = execCodewordReceive s := rfl
theorem exec_replayRequest (s : State) : exec .replayRequest s = execReplayRequest s := rfl
theorem exec_engineFailover (s : State) : exec .engineFailover s = execEngineFailover s := rfl
theorem exec_endpointUnreachable (s : State) : exec .endpointUnreachable s = execEndpointUnreachable s := rfl
theorem exec_pecanCycle (s : State) : exec .pecanCycle s = execPecanCycle s := rfl
theorem exec_pecanRequest (s : State) : exec .pecanRequest s = execPecanRequest s := rfl
theorem exec_pecanGrant (s : State) : exec .pecanGrant s = execPecanGrant s := rfl
theorem exec_lpwrRaise (s : State) : exec .lpwrRaise s = execLpwrRaise s := rfl
theorem exec_lpwrReclaim (s : State) : exec .lpwrReclaim s = execLpwrReclaim s := rfl
theorem exec_pauseFlit (s : State) : exec .pauseFlit s = execPauseFlit s := rfl
theorem exec_resumeFlit (s : State) : exec .resumeFlit s = execResumeFlit s := rfl
theorem exec_peerAccess (s : State) : exec .peerAccess s = execPeerAccess s := rfl
theorem exec_collTimeout (s : State) : exec .collTimeout s = execCollTimeout s := rfl
theorem exec_timeSync (s : State) : exec .timeSync s = execTimeSync s := rfl
theorem exec_hostCxlMemRead (s : State) : exec .hostCxlMemRead s = execHostCxlMemRead s := rfl
theorem exec_hostCxlMemWrite (s : State) : exec .hostCxlMemWrite s = execHostCxlMemWrite s := rfl
theorem exec_hostCxlIoAccess (s : State) : exec .hostCxlIoAccess s = execHostCxlIoAccess s := rfl
theorem exec_registerWrite (s : State) : exec .registerWrite s = execRegisterWrite s := rfl
theorem exec_directoryWrite (s : State) : exec .directoryWrite s = execDirectoryWrite s := rfl
theorem exec_mailboxDoorbell (s : State) : exec .mailboxDoorbell s = execMailboxDoorbell s := rfl
theorem exec_heartbeat (s : State) : exec .heartbeat s = execHeartbeat s := rfl
theorem exec_getVersion (s : State) : exec .getVersion s = execGetVersion s := rfl
theorem exec_getCapabilities (s : State) : exec .getCapabilities s = execGetCapabilities s := rfl
theorem exec_negotiateAlgorithms (s : State) : exec .negotiateAlgorithms s = execNegotiateAlgorithms s := rfl
theorem exec_getDigests (s : State) : exec .getDigests s = execGetDigests s := rfl
theorem exec_getCertificate (s : State) : exec .getCertificate s = execGetCertificate s := rfl
theorem exec_challenge (s : State) : exec .challenge s = execChallenge s := rfl
theorem exec_getMeasurements (s : State) : exec .getMeasurements s = execGetMeasurements s := rfl
theorem exec_keyExchange (s : State) : exec .keyExchange s = execKeyExchange s := rfl
theorem exec_finish (s : State) : exec .finish s = execFinish s := rfl
theorem exec_endSession (s : State) : exec .endSession s = execEndSession s := rfl
theorem exec_sealTagService (s : State) : exec .sealTagService s = execSealTagService s := rfl
theorem exec_fwcmdCheck (s : State) : exec .fwcmdCheck s = execFwcmdCheck s := rfl
theorem exec_fwcmdUpdate (s : State) : exec .fwcmdUpdate s = execFwcmdUpdate s := rfl
theorem exec_fwcmdAbort (s : State) : exec .fwcmdAbort s = execFwcmdAbort s := rfl
theorem exec_fwcmdCommit (s : State) : exec .fwcmdCommit s = execFwcmdCommit s := rfl
theorem exec_fwReady (s : State) : exec .fwReady s = execFwReady s := rfl
theorem exec_fwQuiesceTimeout (s : State) : exec .fwQuiesceTimeout s = execFwQuiesceTimeout s := rfl
theorem exec_fwReadyTimeout (s : State) : exec .fwReadyTimeout s = execFwReadyTimeout s := rfl
theorem exec_boot (s : State) : exec .boot s = execBoot s := rfl
theorem exec_counterFlush (s : State) : exec .counterFlush s = execCounterFlush s := rfl
theorem exec_ageingCheck (s : State) : exec .ageingCheck s = execAgeingCheck s := rfl
theorem exec_powerLimitStep (s : State) : exec .powerLimitStep s = execPowerLimitStep s := rfl
theorem exec_clockStretch (s : State) : exec .clockStretch s = execClockStretch s := rfl
theorem exec_thermalThrottle (s : State) : exec .thermalThrottle s = execThermalThrottle s := rfl
theorem exec_thermalShutdown (s : State) : exec .thermalShutdown s = execThermalShutdown s := rfl
theorem exec_l2WriteBack (s : State) : exec .l2WriteBack s = execL2WriteBack s := rfl
theorem exec_replayAcknowledgement (s : State) : exec .replayAcknowledgement s = execReplayAcknowledgement s := rfl
theorem exec_keyRecordAging (s : State) : exec .keyRecordAging s = execKeyRecordAging s := rfl
theorem exec_packageFailure (s : State) : exec .packageFailure s = execPackageFailure s := rfl
theorem exec_registerRead (s : State) : exec .registerRead s = execRegisterRead s := rfl
theorem exec_podMemberAdmit (s : State) : exec .podMemberAdmit s = execPodMemberAdmit s := rfl

end Sys2Proof.Machine
end

