-- ==== Sys2Proof/Laws/Memory.lean ====
section
/-! SUPPORT. Laws of the sparse memories: every operation keeps the canonical form, a read after a write gives the
value written, and a write leaves every other address as it was. -/

namespace Sys2Proof.Machine

/-! ### Rising addresses -/

theorem rising_mono {m : List Host.Cell} {lo lo' : Nat} (h : Cells.rising lo m = true) (hl : lo' ≤ lo) :
    Cells.rising lo' m = true := by
  cases m with
  | nil => rfl
  | cons c r => simp only [Cells.rising, Bool.and_eq_true, decide_eq_true_eq] at *; exact ⟨by omega, h.2⟩

theorem set_rising {m : List Host.Cell} {lo a : Nat} (x : Byte) (h : Cells.rising lo m = true) (ha : lo ≤ a) :
    Cells.rising lo (Cells.set m a x) = true := by
  induction m generalizing lo with
  | nil => simp [Cells.set, Cells.rising, ha]
  | cons c r ih =>
    obtain ⟨b, v⟩ := c
    simp only [Cells.rising, Bool.and_eq_true, decide_eq_true_eq] at h
    simp only [Cells.set]
    split
    · next e => subst e; simp [Cells.rising, ha, h.2]
    · split
      · simp only [Cells.rising, Bool.and_eq_true, decide_eq_true_eq]; exact ⟨ha, by omega, h.2⟩
      · simp only [Cells.rising, Bool.and_eq_true, decide_eq_true_eq]; exact ⟨h.1, ih h.2 (by omega)⟩

theorem erase_rising {m : List Host.Cell} {lo : Nat} (a : Nat) (h : Cells.rising lo m = true) :
    Cells.rising lo (Cells.erase m a) = true := by
  induction m generalizing lo with
  | nil => rfl
  | cons c r ih =>
    obtain ⟨b, v⟩ := c
    have h' := h
    simp only [Cells.rising, Bool.and_eq_true, decide_eq_true_eq] at h
    simp only [Cells.erase]
    split
    · exact rising_mono h.2 (by omega)
    · split
      · exact h'
      · simp only [Cells.rising, Bool.and_eq_true, decide_eq_true_eq]; exact ⟨h.1, ih h.2⟩

theorem filter_rising {m : List Host.Cell} {lo : Nat} (p : Host.Cell → Bool) (h : Cells.rising lo m = true) :
    Cells.rising lo (m.filter p) = true := by
  induction m generalizing lo with
  | nil => rfl
  | cons c r ih =>
    obtain ⟨b, v⟩ := c
    simp only [Cells.rising, Bool.and_eq_true, decide_eq_true_eq] at h
    rw [List.filter_cons]
    split
    · simp only [Cells.rising, Bool.and_eq_true, decide_eq_true_eq]; exact ⟨h.1, ih h.2⟩
    · exact rising_mono (ih h.2) (by omega)

/-! ### No listed zero -/

theorem all_set {m : List Host.Cell} (p : Host.Cell → Bool) (a : Nat) (x : Byte) (h : m.all p = true) (hx : p (a, x) = true) :
    (Cells.set m a x).all p = true := by
  induction m with
  | nil => simp [Cells.set, hx]
  | cons c r ih =>
    obtain ⟨b, v⟩ := c
    simp only [List.all_cons, Bool.and_eq_true] at h
    simp only [Cells.set]
    split
    · simp [hx, h.2]
    · split
      · simp [hx, h.1, h.2]
      · simp [h.1, ih h.2]

theorem all_erase {m : List Host.Cell} (p : Host.Cell → Bool) (a : Nat) (h : m.all p = true) : (Cells.erase m a).all p = true := by
  induction m with
  | nil => rfl
  | cons c r ih =>
    obtain ⟨b, v⟩ := c
    simp only [List.all_cons, Bool.and_eq_true] at h
    simp only [Cells.erase]
    split
    · exact h.2
    · split
      · simp [h.1, h.2]
      · simp [h.1, ih h.2]

/-! ### The canonical form -/

theorem wf_nil : Memory.wf [] = true := rfl

theorem wf_write {m : Memory} (a : Nat) (x : Byte) (h : Memory.wf m = true) : Memory.wf (Memory.write m a x) = true := by
  simp only [Memory.wf, Bool.and_eq_true] at h
  simp only [Memory.write]
  split
  · exact Bool.and_eq_true_iff.mpr ⟨erase_rising a h.1, all_erase _ a h.2⟩
  · next hx => exact Bool.and_eq_true_iff.mpr ⟨set_rising x h.1 (Nat.zero_le a), all_set _ a x h.2 (by simpa using hx)⟩

theorem wf_writeN {m : Memory} (a : Nat) (bs : List Byte) (h : Memory.wf m = true) : Memory.wf (Memory.writeN m a bs) = true := by
  induction bs generalizing m a with
  | nil => exact h
  | cons b bs ih => exact ih (a + 1) (wf_write a b h)

theorem wf_filter {m : Memory} (p : Host.Cell → Bool) (h : Memory.wf m = true) : Memory.wf (m.filter p) = true := by
  simp only [Memory.wf, Bool.and_eq_true] at *
  refine ⟨filter_rising p h.1, ?_⟩
  rw [List.all_eq_true] at *
  exact fun c hc => h.2 c (List.mem_filter.mp hc).1

theorem wf_without {m : Memory} (lo hi : Nat) (h : Memory.wf m = true) : Memory.wf (Overlay.without m lo hi) = true := wf_filter _ h

theorem wf_within {m : Memory} (lo hi : Nat) (h : Memory.wf m = true) : Memory.wf (Overlay.within m lo hi) = true := wf_filter _ h

theorem overlay_set {m : Overlay} (a : Nat) (x : Byte) (h : Overlay.wf m = true) : Overlay.wf (Cells.set m a x) = true :=
  set_rising x h (Nat.zero_le a)

theorem overlay_setN {m : Overlay} (a : Nat) (bs : List Byte) (h : Overlay.wf m = true) : Overlay.wf (Overlay.setN m a bs) = true := by
  induction bs generalizing m a with
  | nil => exact h
  | cons b bs ih => exact ih (a + 1) (overlay_set a b h)

theorem overlay_without {m : Overlay} (lo hi : Nat) (h : Overlay.wf m = true) : Overlay.wf (Overlay.without m lo hi) = true :=
  filter_rising _ h

theorem overlay_within {m : Overlay} (lo hi : Nat) (h : Overlay.wf m = true) : Overlay.wf (Overlay.within m lo hi) = true :=
  filter_rising _ h

theorem overlay_keep {k : Overlay} (d : Overlay) (a n : Nat) (old : Nat → Byte) (h : Overlay.wf k = true) : Overlay.wf (k.keep d a n old) = true := by
  unfold Overlay.keep
  generalize List.range n = is
  induction is generalizing k with
  | nil => exact h
  | cons i is ih =>
    rw [List.foldl_cons]
    refine ih ?_
    split
    · exact h
    · exact overlay_set _ _ h

/-! ### Read after write -/

theorem get?_below {m : List Host.Cell} {lo a : Nat} (h : Cells.rising lo m = true) (ha : a < lo) : Cells.get? m a = none := by
  cases m with
  | nil => rfl
  | cons c r =>
    obtain ⟨b, v⟩ := c
    simp only [Cells.rising, Bool.and_eq_true, decide_eq_true_eq] at h
    have hb : b ≠ a := by omega
    have hl : a < b := by omega
    simp [Cells.get?, hb, hl]

theorem get?_set_same (m : List Host.Cell) (a : Nat) (x : Byte) : Cells.get? (Cells.set m a x) a = some x := by
  induction m with
  | nil => simp [Cells.set, Cells.get?]
  | cons c r ih =>
    obtain ⟨b, v⟩ := c
    simp only [Cells.set]
    split
    · simp [Cells.get?]
    · next hb =>
      split
      · simp [Cells.get?]
      · next hl => simp [Cells.get?, hb, hl, ih]

theorem get?_set_other (m : List Host.Cell) {a c : Nat} (x : Byte) (hac : a ≠ c) : Cells.get? (Cells.set m a x) c = Cells.get? m c := by
  induction m with
  | nil => simp [Cells.set, Cells.get?, hac]
  | cons d r ih =>
    obtain ⟨b, v⟩ := d
    simp only [Cells.set]
    split
    · next hb => subst hb; simp [Cells.get?, hac]
    · next hb =>
      split
      · next hl =>
        by_cases hca : c < a
        · have h1 : b ≠ c := by omega
          have h2 : c < b := by omega
          simp [Cells.get?, hac, hca, h1, h2]
        · simp [Cells.get?, hac, hca]
      · by_cases hbc : b = c
        · simp [Cells.get?, hbc]
        · by_cases hcb : c < b
          · simp [Cells.get?, hbc, hcb]
          · simp [Cells.get?, hbc, hcb, ih]

theorem get?_erase_same {m : List Host.Cell} {lo : Nat} (a : Nat) (h : Cells.rising lo m = true) : Cells.get? (Cells.erase m a) a = none := by
  induction m generalizing lo with
  | nil => rfl
  | cons c r ih =>
    obtain ⟨b, v⟩ := c
    simp only [Cells.rising, Bool.and_eq_true, decide_eq_true_eq] at h
    simp only [Cells.erase]
    split
    · next hb => exact get?_below h.2 (by omega)
    · next hb =>
      split
      · next hl => simp [Cells.get?, hb, hl]
      · next hl => simp [Cells.get?, hb, hl, ih h.2]

theorem get?_erase_other {m : List Host.Cell} {lo a c : Nat} (h : Cells.rising lo m = true) (hac : a ≠ c) :
    Cells.get? (Cells.erase m a) c = Cells.get? m c := by
  induction m generalizing lo with
  | nil => rfl
  | cons d r ih =>
    obtain ⟨b, v⟩ := d
    simp only [Cells.rising, Bool.and_eq_true, decide_eq_true_eq] at h
    simp only [Cells.erase]
    split
    · next hb =>
      subst hb
      by_cases hl : c < b
      · rw [get?_below h.2 (by omega)]; simp [Cells.get?, hac, hl]
      · simp [Cells.get?, hac, hl]
    · split
      · rfl
      · by_cases hbc : b = c
        · simp [Cells.get?, hbc]
        · by_cases hcb : c < b
          · simp [Cells.get?, hbc, hcb]
          · simp [Cells.get?, hbc, hcb, ih h.2]

/-- A read after a write to the same address gives the byte written. -/
theorem read_write_same {m : Memory} (a : Nat) (x : Byte) (h : Memory.wf m = true) : Memory.read (Memory.write m a x) a = x := by
  simp only [Memory.wf, Bool.and_eq_true] at h
  simp only [Memory.write, Memory.read]
  split
  · next hx => rw [get?_erase_same a h.1, hx]; rfl
  · rw [get?_set_same]; rfl

/-- A write leaves every other address as it was. -/
theorem read_write_other {m : Memory} {a c : Nat} (x : Byte) (h : Memory.wf m = true) (hac : a ≠ c) :
    Memory.read (Memory.write m a x) c = Memory.read m c := by
  simp only [Memory.wf, Bool.and_eq_true] at h
  simp only [Memory.write, Memory.read]
  split
  · rw [get?_erase_other h.1 hac]
  · rw [get?_set_other m x hac]

/-- Bytes written from an address on leave every address outside them as it was. -/
theorem read_writeN_outside {m : Memory} {a c : Nat} {bs : List Byte} (h : Memory.wf m = true) (hc : c < a ∨ a + bs.length ≤ c) :
    Memory.read (Memory.writeN m a bs) c = Memory.read m c := by
  induction bs generalizing m a with
  | nil => rfl
  | cons b bs ih =>
    simp only [List.length_cons] at hc
    simp only [Memory.writeN]
    rw [ih (wf_write a b h) (by omega), read_write_other b h (by omega)]

/-- Bytes written from an address on read back. -/
theorem readN_writeN {m : Memory} (a : Nat) (bs : List Byte) (h : Memory.wf m = true) : Memory.readN (Memory.writeN m a bs) a bs.length = bs := by
  induction bs generalizing m a with
  | nil => rfl
  | cons b bs ih =>
    simp only [Memory.writeN, List.length_cons, Memory.readN]
    rw [read_writeN_outside (wf_write a b h) (Or.inl (Nat.lt_succ_self a)), read_write_same a b h, ih (a + 1) (wf_write a b h)]

/-! ### The near space -/

theorem wf_settle {n : Near} (l : Nat) (h : Memory.wf n.mem = true) : Memory.wf (n.settle l).mem = true := by
  unfold Near.settle
  by_cases hm : meetsRanges n.scrub (64 * l) (64 * l + 64) = true
  · rw [if_pos hm]
    have w := wf_writeN (64 * l) (List.replicate 64 0) h
    simp only [w]
  · rw [if_neg hm]; exact h

theorem wf_settles {n : Near} (ls : List Nat) (h : Memory.wf n.mem = true) : Memory.wf (ls.foldl Near.settle n).mem = true := by
  induction ls generalizing n with
  | nil => exact h
  | cons l ls ih => exact ih (wf_settle l h)

theorem wf_nearWriteN {n : Near} (a : Nat) (bs : List Byte) (h : Memory.wf n.mem = true) : Memory.wf (n.writeN a bs).mem = true :=
  wf_writeN _ _ (wf_settles _ h)

end Sys2Proof.Machine
end

