-- ==== Sys2Proof/Laws/Near.lean ====
section
/-! SUPPORT. Reading the near space of a tile after a write: the bytes written, and every other byte as before (R143). -/

namespace Sys2Proof.Machine

/-! ### Scrub marks -/

theorem inRanges_cut (rs : List (Nat × Nat)) (lo hi x : Nat) :
    inRanges (cutRanges rs lo hi) x = (inRanges rs x && !(decide (lo ≤ x) && decide (x < hi))) := by
  induction rs with
  | nil => rfl
  | cons r rs ih =>
    have h1 : cutRanges (r :: rs) lo hi = (if r.1 < hi ∧ lo < r.2 then
      (if r.1 < lo then [(r.1, lo)] else []) ++ (if hi < r.2 then [(hi, r.2)] else []) else [r]) ++ cutRanges rs lo hi := by
      simp [cutRanges, List.flatMap_cons]
    have h2 : inRanges ((if r.1 < hi ∧ lo < r.2 then
      (if r.1 < lo then [(r.1, lo)] else []) ++ (if hi < r.2 then [(hi, r.2)] else []) else [r]) ++ cutRanges rs lo hi) x
        = (inRanges (if r.1 < hi ∧ lo < r.2 then
      (if r.1 < lo then [(r.1, lo)] else []) ++ (if hi < r.2 then [(hi, r.2)] else []) else [r]) x || inRanges (cutRanges rs lo hi) x) := by
      simp [inRanges]
    have h3 : inRanges (r :: rs) x = ((decide (r.1 ≤ x) && decide (x < r.2)) || inRanges rs x) := by simp [inRanges]
    rw [h1, h2, ih, h3]
    generalize inRanges rs x = b
    have h4 : inRanges (if r.1 < hi ∧ lo < r.2 then
      (if r.1 < lo then [(r.1, lo)] else []) ++ (if hi < r.2 then [(hi, r.2)] else []) else [r]) x
        = ((decide (r.1 ≤ x) && decide (x < r.2)) && !(decide (lo ≤ x) && decide (x < hi))) := by
      split
      · next h =>
        rw [Bool.eq_iff_iff]
        split <;> split <;> simp [inRanges] <;> omega
      · next h =>
        rw [Bool.eq_iff_iff]; simp [inRanges]; omega
    rw [h4]
    cases b <;> cases (decide (r.1 ≤ x) && decide (x < r.2)) <;> cases (decide (lo ≤ x) && decide (x < hi)) <;> rfl

/-- The scrub marks after a line is settled. -/
theorem settle_scrub (n : Near) (l x : Nat) :
    inRanges (n.settle l).scrub x = (inRanges n.scrub x && !(decide (64 * l ≤ x) && decide (x < 64 * l + 64))) := by
  unfold Near.settle
  split
  · simp only [inRanges_cut]
  · next h =>
    simp only [meetsRanges, Bool.not_eq_true, List.any_eq_false] at h
    rw [Bool.eq_iff_iff]
    simp only [inRanges, List.any_eq_true, Bool.and_eq_true, decide_eq_true_eq, Bool.not_eq_true', Bool.and_eq_false_iff, decide_eq_false_iff_not]
    constructor
    · rintro ⟨r, hr, h1, h2⟩
      refine ⟨⟨r, hr, h1, h2⟩, ?_⟩
      have := h r hr
      simp at this
      omega
    · exact fun h => h.1

theorem wholeLines_settle {n : Near} (l : Nat) (h : n.WholeLines) : (n.settle l).WholeLines := by
  unfold Near.settle
  split
  · intro r hr
    simp only [cutRanges, List.mem_flatMap] at hr
    obtain ⟨q, hq, hr⟩ := hr
    have := h q hq
    split at hr
    · simp only [List.mem_append] at hr
      rcases hr with hr | hr
      · split at hr <;> simp at hr; subst hr; simp; omega
      · split at hr <;> simp at hr; subst hr; simp; omega
    · simp at hr; subst hr; exact this
  · exact h

/-- A mark that covers one byte of a line covers the line. -/
theorem inRanges_line {n : Near} (h : n.WholeLines) {l x y : Nat} (hx : 64 * l ≤ x ∧ x < 64 * l + 64) (hy : 64 * l ≤ y ∧ y < 64 * l + 64) :
    inRanges n.scrub x = inRanges n.scrub y := by
  simp only [inRanges]
  rw [Bool.eq_iff_iff]
  simp only [List.any_eq_true, Bool.and_eq_true, decide_eq_true_eq]
  constructor <;> (rintro ⟨r, hr, h1, h2⟩; have := h r hr; exact ⟨r, hr, by omega, by omega⟩)

theorem read_replicate {m : Memory} (a k x : Nat) (h : Memory.wf m = true) :
    Memory.read (Memory.writeN m a (List.replicate k 0)) x = if a ≤ x ∧ x < a + k then 0 else Memory.read m x := by
  induction k generalizing m a with
  | zero => rw [if_neg (by omega)]; rfl
  | succ k ih =>
    simp only [List.replicate_succ, Memory.writeN]
    rw [ih (a + 1) (wf_write a 0 h)]
    by_cases hx : x = a
    · subst hx; rw [if_neg (by omega), if_pos (by omega), read_write_same _ _ h]
    · rw [read_write_other 0 h (Ne.symm hx)]
      by_cases hc : a + 1 ≤ x ∧ x < a + 1 + k
      · rw [if_pos hc, if_pos (by omega)]
      · rw [if_neg hc, if_neg (by omega)]

theorem settle_read {n : Near} (l x : Nat) (h : Memory.wf n.mem = true) (hw : n.WholeLines) : (n.settle l).read x = n.read x := by
  unfold Near.read
  rw [settle_scrub]
  by_cases hx : 64 * l ≤ x ∧ x < 64 * l + 64
  · simp only [hx, decide_true, Bool.and_self, Bool.not_true, Bool.and_false, Bool.false_eq_true, if_false]
    unfold Near.settle
    split
    · next hm =>
      simp only [read_replicate _ _ _ h, if_pos hx]
      have : inRanges n.scrub x = true := by
        simp only [meetsRanges, List.any_eq_true, Bool.and_eq_true, decide_eq_true_eq] at hm
        obtain ⟨r, hr, h1, h2⟩ := hm
        have := hw r hr
        simp only [inRanges, List.any_eq_true, Bool.and_eq_true, decide_eq_true_eq]
        exact ⟨r, hr, by omega, by omega⟩
      simp [this]
    · next hm =>
      have : inRanges n.scrub x = false := by
        rw [← Bool.not_eq_true]
        intro hc
        apply hm
        simp only [inRanges, List.any_eq_true, Bool.and_eq_true, decide_eq_true_eq] at hc
        obtain ⟨r, hr, h1, h2⟩ := hc
        simp only [meetsRanges, List.any_eq_true, Bool.and_eq_true, decide_eq_true_eq]
        exact ⟨r, hr, by omega, by omega⟩
      simp [this]
  · have hd : (decide (64 * l ≤ x) && decide (x < 64 * l + 64)) = false := by
      rw [← Bool.not_eq_true]; simp; omega
    simp only [hd, Bool.not_false, Bool.and_true]
    split
    · rfl
    · unfold Near.settle
      split
      · rw [read_replicate _ _ _ h, if_neg hx]
      · rfl

theorem settles_read {n : Near} (ls : List Nat) (x : Nat) (h : Memory.wf n.mem = true) (hw : n.WholeLines) :
    (ls.foldl Near.settle n).read x = n.read x ∧ (ls.foldl Near.settle n).WholeLines
      ∧ (∀ l ∈ ls, 64 * l ≤ x → x < 64 * l + 64 → inRanges (ls.foldl Near.settle n).scrub x = false)
      ∧ (inRanges n.scrub x = false → inRanges (ls.foldl Near.settle n).scrub x = false) := by
  induction ls generalizing n with
  | nil => exact ⟨rfl, hw, by simp, fun h => h⟩
  | cons l ls ih =>
    obtain ⟨h1, h2, h3, h4⟩ := ih (n := n.settle l) (wf_settle l h) (wholeLines_settle l hw)
    refine ⟨by simp only [List.foldl_cons]; rw [h1, settle_read l x h hw], h2, ?_, ?_⟩
    · intro k hk ha hb
      rcases List.mem_cons.mp hk with rfl | hk
      · exact h4 (by rw [settle_scrub]; simp [ha, hb])
      · exact h3 k hk ha hb
    · intro hs
      exact h4 (by rw [settle_scrub, hs]; rfl)

theorem mem_linesOf {a n x : Nat} (h1 : a ≤ x) (h2 : x < a + n) : x / 64 ∈ linesOf a n := by
  unfold linesOf
  simp only [List.mem_map, List.mem_range]
  exact ⟨x / 64 - a / 64, by omega, by omega⟩

theorem read_writeN_inside {m : Memory} {a c : Nat} {bs : List Byte} (h : Memory.wf m = true) (hc : a ≤ c) (hl : c < a + bs.length) :
    Memory.read (Memory.writeN m a bs) c = bs.getD (c - a) 0 := by
  induction bs generalizing m a with
  | nil => simp at hl; omega
  | cons b bs ih =>
    simp only [Memory.writeN]
    simp only [List.length_cons] at hl
    by_cases hx : c = a
    · subst hx
      rw [read_writeN_outside (wf_write c b h) (Or.inl (by omega)), read_write_same _ _ h]
      simp
    · rw [ih (wf_write a b h) (by omega) (by omega)]
      have : c - a = (c - (a + 1)) + 1 := by omega
      rw [this]; simp

/-- A near write gives the bytes written, and every other byte as before (R143). -/
theorem near_read_writeN {n : Near} (a : Nat) (bs : List Byte) (x : Nat) (h : Memory.wf n.mem = true) (hw : n.WholeLines) :
    (n.writeN a bs).read x = if a ≤ x ∧ x < a + bs.length then bs.getD (x - a) 0 else n.read x := by
  have hs := settles_read (n := n) (linesOf a bs.length) x h hw
  have hwf := wf_settles (n := n) (linesOf a bs.length) h
  have hn : (n.writeN a bs).read x = if inRanges ((linesOf a bs.length).foldl Near.settle n).scrub x then 0
      else Memory.read (Memory.writeN ((linesOf a bs.length).foldl Near.settle n).mem a bs) x := rfl
  rw [hn]
  by_cases hx : a ≤ x ∧ x < a + bs.length
  · rw [if_pos hx, hs.2.2.1 (x / 64) (mem_linesOf hx.1 hx.2) (by omega) (by omega)]
    simp only [Bool.false_eq_true, if_false]
    exact read_writeN_inside hwf hx.1 hx.2
  · rw [if_neg hx, read_writeN_outside hwf (by omega)]
    exact hs.1

theorem nearReadN_ext {n m : Near} {a : Nat} {k : Nat} (h : ∀ i < k, n.read (a + i) = m.read (a + i)) : n.readN a k = m.readN a k := by
  induction k generalizing a with
  | zero => rfl
  | succ k ih =>
    simp only [Near.readN]
    rw [ih (a := a + 1) (fun i hi => by have := h (i + 1) (by omega); rwa [show a + 1 + i = a + (i + 1) by omega])]
    have := h 0 (by omega)
    simp only [Nat.add_zero] at this
    rw [this]

theorem near_readN_writeN {n : Near} (a : Nat) (bs : List Byte) (h : Memory.wf n.mem = true) (hw : n.WholeLines) :
    (n.writeN a bs).readN a bs.length = bs := by
  have key : ∀ (k : Nat), k ≤ bs.length → (n.writeN a bs).readN (a + (bs.length - k)) k = bs.drop (bs.length - k) := by
    intro k hk
    induction k with
    | zero => simp [Near.readN]
    | succ k ih =>
      simp only [Near.readN]
      rw [near_read_writeN _ _ _ h hw, if_pos (by omega)]
      have h1 : a + (bs.length - (k + 1)) + 1 = a + (bs.length - k) := by omega
      rw [h1, ih (by omega)]
      have h2 : bs.length - k = bs.length - (k + 1) + 1 := by omega
      rw [h2, List.drop_eq_getElem_cons (i := bs.length - (k + 1)) (by omega)]
      congr 1
      rw [show a + (bs.length - (k + 1)) - a = bs.length - (k + 1) by omega]
      simp [List.getD_eq_getElem?_getD]
      rw [List.getElem?_eq_getElem (by omega)]; rfl
  have := key bs.length (Nat.le_refl _)
  simpa using this

/-! ### The form is kept -/

theorem wholeLines_settles {n : Near} (ls : List Nat) (h : n.WholeLines) : (ls.foldl Near.settle n).WholeLines := by
  induction ls generalizing n with
  | nil => exact h
  | cons l ls ih => exact ih (wholeLines_settle l h)

theorem wholeLines_writeN {n : Near} (a : Nat) (bs : List Byte) (h : n.WholeLines) : (n.writeN a bs).WholeLines := wholeLines_settles _ h

@[simp] theorem near_store_mem (n : Near) (a : Nat) (bs : List Byte) : (n.store a bs).mem = (n.writeN a bs).mem := by
  unfold Near.store; simp only; split <;> rfl

@[simp] theorem near_store_scrub (n : Near) (a : Nat) (bs : List Byte) : (n.store a bs).scrub = (n.writeN a bs).scrub := by
  unfold Near.store; simp only; split <;> rfl

/-- A control-core or V write reads back as `writeN` does. -/
theorem near_store_read (n : Near) (a : Nat) (bs : List Byte) (x : Nat) : (n.store a bs).read x = (n.writeN a bs).read x := by
  unfold Near.read; rw [near_store_mem, near_store_scrub]

theorem memForm_writeN {t : Tile} (a : Nat) (bs : List Byte) (h : t.MemForm) : ({ t with near := t.near.writeN a bs } : Tile).MemForm :=
  ⟨wf_nearWriteN a bs h.1, wholeLines_writeN a bs h.2⟩

theorem memForm_store {t : Tile} (a : Nat) (bs : List Byte) (h : t.MemForm) : ({ t with near := t.near.store a bs } : Tile).MemForm := by
  refine ⟨?_, ?_⟩
  · simp only [near_store_mem]; exact wf_nearWriteN a bs h.1
  · show (t.near.store a bs).WholeLines
    unfold Near.WholeLines; rw [near_store_scrub]; exact wholeLines_writeN a bs h.2

end Sys2Proof.Machine
end

