-- ==== Sys2Proof/Laws/Form.lean ====
section
/-! SUPPORT. The canonical form of every memory is kept by each shared operation, said once: updates that touch no memory,
the writes of Mem.lean, faults, NAS and a control word as a whole. -/

namespace Sys2Proof.Machine

/-! ### Tiles and packages -/

theorem tileForm_congr {t u : Tile} (h : t.MemForm) (hm : u.near.mem = t.near.mem) (hs : u.near.scrub = t.near.scrub) : u.MemForm := by
  refine ⟨?_, ?_⟩
  · rw [hm]; exact h.1
  · unfold Near.WholeLines; rw [hs]; exact h.2

theorem pkgForm_congr {p q : Package} (h : p.MemForm) (hm : q.mem = p.mem) (hl : q.l2 = p.l2) (hk : q.l2kept = p.l2kept) (ht : q.tiles = p.tiles)
    (hb : q.boxes = p.boxes) : q.MemForm := by
  obtain ⟨h1, h2, h3, h4, h5⟩ := h
  exact ⟨by rw [hm]; exact h1, by rw [hl]; exact h2, by rw [hk]; exact h3, by rw [ht]; exact h4, by rw [hb]; exact h5⟩

theorem form_updT {s : State} {f : Tile → Tile} (h : s.MemForm) (hf : (f s.tile).MemForm) : (s.updT f).MemForm := ⟨hf, h.2⟩

theorem form_updP {s : State} {f : Package → Package} (h : s.MemForm) (hf : (f s.pkg).MemForm) : (s.updP f).MemForm := ⟨h.1, hf, h.2.2⟩

theorem form_pkg {s : State} {f : Package → Package} (h : s.MemForm) (hm : (f s.pkg).mem = s.pkg.mem) (hl : (f s.pkg).l2 = s.pkg.l2)
    (hk : (f s.pkg).l2kept = s.pkg.l2kept) (ht : (f s.pkg).tiles = s.pkg.tiles) (hb : (f s.pkg).boxes = s.pkg.boxes) : (s.updP f).MemForm :=
  form_updP h (pkgForm_congr h.2.1 hm hl hk ht hb)

theorem form_mapCore {s : State} {f : Core → Core} (h : s.MemForm) : (s.mapCore f).MemForm := h
theorem form_mapSys {s : State} {f : Sys → Sys} (h : s.MemForm) : (s.mapSys f).MemForm := h
theorem form_mapPar {s : State} {f : Par → Par} (h : s.MemForm) : (s.mapPar f).MemForm := h
theorem form_mapOrd {s : State} {f : OrdSt → OrdSt} (h : s.MemForm) : (s.mapOrd f).MemForm := h
theorem form_mapEng {s : State} {f : Engs → Engs} (h : s.MemForm) : (s.mapEng f).MemForm := h
theorem form_mapTask {s : State} {f : TaskCtx → TaskCtx} (h : s.MemForm) : (s.mapTask f).MemForm := h
theorem form_mapDisp {s : State} {f : Disp → Disp} (h : s.MemForm) : (s.mapDisp f).MemForm := h
theorem form_draw {s : State} (h : s.MemForm) : s.draw.MemForm := h
theorem form_setReg {s : State} (r : Reg) (v : W64) (h : s.MemForm) : (s.setReg r v).MemForm := by unfold State.setReg; split <;> exact h
theorem form_setPred {s : State} (n : PReg) (v : Bool) (h : s.MemForm) : (s.setPred n v).MemForm := by unfold State.setPred; split <;> exact h
theorem form_setCap {s : State} (n : CReg) (c : Cap) (h : s.MemForm) : (s.setCap n c).MemForm := by unfold State.setCap; split <;> exact h
theorem form_setPc {s : State} (v : W64) (h : s.MemForm) : (s.setPc v).MemForm := h

theorem form_mapNear {s : State} {f : Near → Near} (h : s.MemForm) (hm : Memory.wf (f s.tile.near).mem = true) (hs : (f s.tile.near).WholeLines) :
    (s.mapNear f).MemForm := ⟨⟨hm, hs⟩, h.2⟩

theorem form_mapNear_writeN {s : State} (a : Nat) (bs : List Byte) (h : s.MemForm) : (s.mapNear (fun n => n.writeN a bs)).MemForm :=
  ⟨memForm_writeN a bs h.1, h.2⟩

theorem form_mapNear_store {s : State} (a : Nat) (bs : List Byte) (h : s.MemForm) : (s.mapNear (fun n => n.store a bs)).MemForm :=
  ⟨memForm_store a bs h.1, h.2⟩

theorem form_mapTiles {s : State} {f : Tile → Tile} (h : s.MemForm) (hf : ∀ t : Tile, t.MemForm → (f t).MemForm) : (s.mapTiles f).MemForm := by
  obtain ⟨h1, ⟨h2, h3, hk, h4, h5⟩, h6⟩ := h
  refine ⟨hf _ h1, ⟨h2, h3, hk, ?_, h5⟩, h6⟩
  intro t ht
  obtain ⟨u, hu, rfl⟩ := List.mem_map.1 ht
  exact hf _ (h4 u hu)

theorem form_updTile {s : State} {f : Tile → Tile} (phys : Nat) (h : s.MemForm) (hf : ∀ t : Tile, t.MemForm → (f t).MemForm) : (s.updTile phys f).MemForm := by
  unfold State.updTile
  split
  · exact form_updT h (hf _ h.1)
  · obtain ⟨h1, ⟨h2, h3, hk, h4, h5⟩, h6⟩ := h
    refine ⟨h1, ⟨h2, h3, hk, ?_, h5⟩, h6⟩
    intro t ht
    obtain ⟨u, hu, rfl⟩ := List.mem_map.1 ht
    show (if u.phys = phys then f u else u).MemForm
    split
    · exact hf _ (h4 u hu)
    · exact h4 u hu

theorem form_foldl {α : Type} {f : State → α → State} (hf : ∀ s x, s.MemForm → (f s x).MemForm) :
    ∀ (l : List α) (s : State), s.MemForm → (l.foldl f s).MemForm
  | [], _, h => h
  | x :: l, s, h => form_foldl hf l _ (hf s x h)

theorem form_wake {s : State} (own : Bool) (hit : Loc → Bool) (h : s.MemForm) : (s.wake own hit).MemForm := by
  refine form_mapTiles h (fun t ht => ?_)
  split
  · split
    · exact tileForm_congr ht rfl rfl
    · exact ht
  · exact ht

/-! ### Homes -/

theorem wf_writes {m : Memory} (cs : List Host.Cell) (h : Memory.wf m = true) : Memory.wf (cs.foldl (fun m c => Memory.write m c.1 c.2) m) = true := by
  induction cs generalizing m with
  | nil => exact h
  | cons c cs ih => exact ih (wf_write _ _ h)

theorem pkgForm_dropL2 {p : Package} (lo hi : Nat) (h : p.MemForm) : (p.dropL2 lo hi).MemForm :=
  ⟨h.1, overlay_without _ _ h.2.1, overlay_without _ _ h.2.2.1, h.2.2.2⟩

theorem pkgForm_settle {p : Package} (l : Nat) (h : p.MemForm) : (p.settle l).MemForm := by
  unfold Package.settle
  by_cases hm : meetsRanges p.scrub (64 * l) (64 * l + 64) = true
  · rw [if_pos hm]
    have w := wf_writeN (64 * l) (List.replicate 64 0) h.1
    generalize Memory.writeN p.mem (64 * l) (List.replicate 64 0) = m at w ⊢
    exact ⟨w, (pkgForm_dropL2 _ _ h).2⟩
  · rw [if_neg hm]; exact h

theorem pkgForm_clearTags {p : Package} (pa n : Nat) (h : p.MemForm) : (p.clearTags pa n).MemForm := h
theorem pkgForm_setTag {p : Package} (pa : Nat) (t : Bool) (h : p.MemForm) : (p.setTag pa t).MemForm := h

theorem pkgForm_l2Back {p : Package} (l : Nat) (h : p.MemForm) : (p.l2Back l).MemForm := ⟨wf_writes _ h.1, (pkgForm_dropL2 _ _ h).2⟩

/-- A line that enters L2 lists no byte; its slice may give up another. -/
theorem pkgForm_l2Fill {p : Package} (l : Nat) (h : p.MemForm) : (p.l2Fill l).MemForm := by
  unfold Package.l2Fill
  split
  case h_4 => exact h
  all_goals
    split
    · exact h
    · simp only
      split
      · exact pkgForm_congr (pkgForm_l2Back _ h) rfl rfl rfl rfl rfl
      · exact pkgForm_congr h rfl rfl rfl rfl rfl

theorem pkgForm_homeCell {p : Package} (c : Host.Cell) (h : p.MemForm) : (p.homeCell c).MemForm := by
  unfold Package.homeCell
  split
  · exact ⟨wf_write _ _ h.1, h.2⟩
  · have k := pkgForm_l2Fill (c.1 / 64) h
    exact ⟨k.1, overlay_set _ _ k.2.1, k.2.2⟩

theorem pkgForm_homeCells {p : Package} (cs : List Host.Cell) (h : p.MemForm) : (p.homeCells cs).MemForm := by
  unfold Package.homeCells
  induction cs generalizing p with
  | nil => exact h
  | cons c cs ih => exact ih (pkgForm_homeCell c h)

theorem pkgForm_forward {p : Package} (src : Nat) (launch : Option Nat) (line : Nat) (tok : W64) (h : p.MemForm) : (p.forward src launch line tok).MemForm := by
  unfold Package.forward
  split <;> exact h

theorem pkgForm_writeBack {p : Package} (src : Nat) (l : L1Line) (h : p.MemForm) : (p.writeBack src l).MemForm := by
  unfold Package.writeBack
  split
  · exact h
  · exact pkgForm_forward _ _ _ _ (pkgForm_homeCells _ (pkgForm_settle _ h))

theorem form_dropLines {s : State} (line : Nat) (h : s.MemForm) :
    ((s.mapTiles (fun t => { t with ord := t.ord.dropLine line })).updP (fun p => { p with host := p.host.filter (fun x => x.line != line) })).MemForm :=
  form_pkg (form_mapTiles h (fun _ ht => tileForm_congr ht rfl rfl)) rfl rfl rfl rfl rfl

theorem form_recall {s : State} (line : Nat) (h : s.MemForm) : (s.recall line).MemForm := by
  unfold State.recall
  apply form_dropLines
  split
  · exact form_updP h (pkgForm_writeBack _ _ h.2.1)
  · exact h

theorem form_hostFlush {s : State} (line : Nat) (keep : Bool) (h : s.MemForm) : (s.hostFlush line keep).MemForm := by
  unfold State.hostFlush
  split
  · exact form_updP h (pkgForm_congr (pkgForm_writeBack 256 _ h.2.1) rfl rfl rfl rfl rfl)
  · exact h

theorem form_evict {s : State} (l : L1Line) (h : s.MemForm) : (s.evict l).MemForm := form_mapOrd (form_updP h (pkgForm_writeBack _ _ h.2.1))

theorem form_makeRoom {s : State} (line : Nat) (h : s.MemForm) : (s.makeRoom line).MemForm := by
  unfold State.makeRoom
  split
  · exact h
  · split
    · exact form_evict _ h
    · exact h

/-- A line taken into the L1 in focus: room made, the host's copy snooped, the line in L2. -/
theorem form_take {s : State} (line : Nat) (keep : Bool) (h : s.MemForm) :
    (((s.makeRoom line).hostFlush line keep).updP (fun p => p.l2Fill line)).MemForm :=
  form_updP (form_hostFlush line keep (form_makeRoom line h)) (pkgForm_l2Fill line (form_hostFlush line keep (form_makeRoom line h)).2.1)

theorem form_keepCopies {s : State} (pa n : Nat) (h : s.MemForm) : (s.keepCopies pa n).MemForm := by
  have t : (s.mapTiles (fun t => { t with ord := { t.ord with l1 := t.ord.l1.map (fun l => if l.line = pa / 64 then { l with kept := l.kept.keep (s.ownerDirty (pa / 64)) pa n s.pkg.home } else l) } })).MemForm :=
    form_mapTiles h (fun _ ht => tileForm_congr ht rfl rfl)
  refine form_updP t ⟨t.2.1.1, t.2.1.2.1, ?_, t.2.1.2.2.2⟩
  show Overlay.wf (if _ then _ else _) = true
  split
  · exact overlay_keep _ _ _ _ t.2.1.2.2.1
  · exact t.2.1.2.2.1

theorem form_share {s : State} (line : Nat) (h : s.MemForm) : (s.share line).MemForm := by
  unfold State.share
  split
  · exact h
  · exact form_mapOrd (form_pkg (form_mapTiles (form_take line true h) (fun _ ht => tileForm_congr ht rfl rfl)) rfl rfl rfl rfl rfl)

theorem form_own {s : State} (line : Nat) (h : s.MemForm) : (s.own line).MemForm :=
  form_mapOrd (form_dropLines line (form_take line false h))

theorem form_dirty {s : State} (pa : Nat) (bs : List Byte) (tok : W64) (h : s.MemForm) : (s.dirty pa bs tok).MemForm := form_mapOrd h

theorem form_storePkg {s : State} (pa : Nat) (cached : Bool) (bs : List Byte) (tag : Option Bool) (tok : W64) (h : s.MemForm) :
    (s.storePkg pa cached bs tag tok).MemForm := by
  unfold State.storePkg
  refine form_wake _ _ ?_
  refine form_pkg ?_ ?_ ?_ ?_ ?_ ?_
  · split
    · refine form_mapOrd (form_dirty _ _ _ (form_updP (form_own _ h) ?_))
      split
      · exact pkgForm_settle _ (form_own _ h).2.1
      · exact (form_own _ h).2.1
    · have k := form_keepCopies pa bs.length (form_updP (f := fun p => p.settle (pa / 64)) h (pkgForm_settle _ h.2.1))
      exact form_updP k ⟨wf_writeN _ _ k.2.1.1, k.2.1.2⟩
  all_goals (cases tag <;> rfl)

theorem form_writeHomeLine {s : State} (pa : Nat) (bs : List Byte) (tok : W64) (h : s.MemForm) : (s.writeHomeLine pa bs tok).MemForm :=
  form_wake _ _ (form_updP (form_recall _ h) (pkgForm_forward _ _ _ _ (pkgForm_clearTags _ _ (pkgForm_homeCells _ (pkgForm_settle _ (form_recall _ h).2.1)))))

theorem form_writeHome {s : State} (pa : Nat) (bs : List Byte) (tok : W64) (h : s.MemForm) : (s.writeHome pa bs tok).MemForm :=
  form_foldl (fun _ c h => form_writeHomeLine c.1 c.2 tok h) _ s h

theorem form_releaseAll {s : State} (h : s.MemForm) : s.releaseAll.MemForm :=
  form_mapOrd (form_foldl (fun _ _ h => form_updP h (pkgForm_writeBack _ _ h.2.1)) _ s h)

theorem form_releaseLine {s : State} (line : Nat) (h : s.MemForm) : (s.releaseLine line).MemForm := by
  unfold State.releaseLine
  split
  · split
    · exact form_mapOrd (form_updP h (pkgForm_writeBack _ _ h.2.1))
    · exact h
  · exact h

theorem form_storeSlice {s : State} (tile off : Nat) (bs : List Byte) (tag : Option Bool) (own : Bool) (h : s.MemForm) :
    (s.storeSlice tile off bs tag own).MemForm := by
  unfold State.storeSlice
  refine form_foldl (fun _ _ h => form_wake _ _ h) _ _ (form_updTile _ h (fun t ht => ?_))
  have hs := memForm_store (clusterBase + off) bs ht
  cases tag
  · exact hs
  · exact tileForm_congr hs rfl rfl

/-! ### Faults, NAS and a control word -/

theorem form_writeCause {s : State} (fi : FaultInfo) (epc : W64) (h : s.MemForm) : (s.writeCause fi epc).MemForm := by
  unfold State.writeCause
  split <;> exact h

theorem form_fatal {s : State} (c : FaultCode) (epc : W64) (h : s.MemForm) : (s.fatal c epc).MemForm := h

theorem form_enter {s : State} (kind : BitVec 2) (resume : W64) (arr : Bool) (h : s.MemForm) : (s.enter kind resume arr).MemForm := h

theorem form_trapCore {s : State} (fi : FaultInfo) (epc resume : W64) (h : s.MemForm) : (s.trapCore fi epc resume).MemForm := by
  unfold State.trapCore
  simp only
  split
  · exact form_enter _ _ _ (form_writeCause _ _ h)
  · exact form_fatal _ _ (form_writeCause _ _ h)

theorem form_finish {s : State} (h : s.MemForm) : s.finish.MemForm := h
theorem form_boundary {s : State} (h : s.MemForm) : s.boundary.MemForm := h
theorem form_held {s : State} (h : s.MemForm) : s.held.MemForm := h
theorem form_atEnd {s : State} (h : s.MemForm) : s.atEnd.MemForm := h

theorem form_leaveTask {s : State} (h : s.MemForm) : s.leaveTask.MemForm := h

theorem form_abortTask {s : State} (fi : FaultInfo) (epc : W64) (h : s.MemForm) : (s.abortTask fi epc).MemForm := by
  have hw := form_writeCause fi epc h
  unfold State.abortTask
  simp only
  split
  · exact form_fatal _ _ hw
  · split
    · refine form_fatal _ _ (form_leaveTask (form_pkg (form_mapSys hw) ?_ ?_ ?_ ?_ ?_))
      all_goals (split <;> rfl)
    · refine form_leaveTask (form_pkg (form_mapSys hw) ?_ ?_ ?_ ?_ ?_)
      all_goals (split <;> rfl)

theorem form_dropFrame {s : State} (f : Frame) (h : s.MemForm) : (s.dropFrame f).MemForm := by
  unfold State.dropFrame
  refine form_updP (form_foldl (fun _ x hx => form_recall x hx) _ _ h) ?_
  have p := (form_foldl (fun _ x hx => form_recall x hx) (s.frameLines f) s h).2.1
  exact ⟨wf_without _ _ p.1, (pkgForm_dropL2 _ _ p).2⟩

theorem form_dropBad {s : State} (fi : FaultInfo) (h : s.MemForm) : (s.dropBad fi).MemForm := by
  unfold State.dropBad
  split
  · exact h
  · split
    · exact h
    · split
      · exact form_updP (form_dropFrame _ h) (form_dropFrame _ h).2.1
      · exact h

theorem form_takeFault {s : State} (fi : FaultInfo) (epc : W64) (h : s.MemForm) : (s.takeFault fi epc).MemForm := by
  replace h := form_dropBad fi h
  unfold State.takeFault
  simp only
  split
  · exact form_trapCore _ _ _ h
  · split
    · exact form_abortTask _ _ (form_mapSys h)
    · exact form_trapCore _ _ _ h
  · exact form_fatal _ _ (form_writeCause _ _ (form_mapSys h))

theorem form_push {s : State} (v : W64) (h : s.MemForm) : (s.push v).MemForm := form_mapCore (form_mapNear_writeN _ _ h)

theorem form_pushAll {s : State} (vs : List W64) (h : s.MemForm) : (s.pushAll vs).MemForm := form_foldl (fun _ v h => form_push v h) _ s h

theorem form_flush {s t : State} (h : s.MemForm) (he : s.flush = .done t) : t.MemForm := by
  unfold State.flush at he
  split at he
  · cases he
  · split at he
    · cases he
    · split at he
      · cases he
      · cases he; exact form_mapTask h

/-- NAS keeps the form, whatever it comes to. -/
theorem form_applyNas {s : State} (hd : Hdr) (pc : W64) (p : Bool) (h : s.MemForm) :
    ∀ t, (s.applyNas hd pc p = .next t ∨ s.applyNas hd pc p = .ended t) → t.MemForm := by
  intro t ht
  have hcall : ∀ a b, s.nasCall a b = .next t ∨ s.nasCall a b = .ended t → t.MemForm := by
    intro a b hc
    unfold State.nasCall at hc
    split at hc
    · rcases hc with hc | hc <;> cases hc
    · split at hc
      · rcases hc with hc | hc <;> cases hc
      · split at hc
        · rcases hc with hc | hc <;> cases hc
        · rcases hc with hc | hc <;> cases hc
          exact form_setPc _ (form_pushAll _ h)
  unfold State.applyNas at ht
  split at ht
  · rcases ht with ht | ht <;> cases ht; exact h
  · rcases ht with ht | ht <;> cases ht; exact h
  · rcases ht with ht | ht <;> cases ht; exact h
  · rcases ht with ht | ht <;> cases ht; exact h
  · exact hcall _ _ ht
  · simp only at ht
    split at ht
    · rcases ht with ht | ht <;> cases ht
    · split at ht
      · rcases ht with ht | ht <;> cases ht
      · exact hcall _ _ ht
  · simp only at ht
    split at ht
    · rcases ht with ht | ht <;> cases ht
    · rcases ht with ht | ht <;> cases ht; exact h
  · unfold State.nasRet at ht
    simp only at ht
    repeat' split at ht
    all_goals first
      | (rcases ht with ht | ht <;> cases ht; done)
      | (rcases ht with ht | ht <;> cases ht; exact h)
  · rcases ht with ht | ht <;> cases ht; exact h
  · unfold State.nasEnd at ht
    split at ht
    · split at ht
      · rename_i hf
        rcases ht with ht | ht <;> cases ht
        exact form_flush h hf
      all_goals (rcases ht with ht | ht <;> cases ht)
    · rcases ht with ht | ht <;> cases ht; exact h

theorem form_stopTask {s : State} (h : s.MemForm) : s.stopTask.MemForm := by
  unfold State.stopTask
  simp only
  refine form_mapDisp (form_leaveTask ?_)
  split
  · exact form_pkg h rfl rfl rfl rfl rfl
  · exact h

theorem form_nasAfter {s t : State} (hd : Hdr) (p : Bool) (hs : s.MemForm) (ht : t.MemForm) : (s.nasAfter t hd p).MemForm := by
  unfold State.nasAfter
  have hn := form_applyNas hd s.tile.core.pc p ht
  split
  · rename_i hu; exact form_boundary (form_finish (hn _ (Or.inl hu)))
  · rename_i hu; exact form_boundary (form_atEnd (form_finish (hn _ (Or.inr hu))))
  · exact form_takeFault _ _ hs
  · exact form_held hs
  · exact form_stopTask hs

theorem form_awaits {s t : State} (hd : Hdr) (p late : Bool) (hs : s.MemForm) (ht : t.MemForm) : (s.awaits t hd p late).MemForm := by
  unfold State.awaits
  split
  · split
    · exact form_takeFault _ _ hs
    · exact form_held ht
  · split
    · exact form_takeFault _ _ hs
    · exact form_stopTask hs
    · split
      · exact form_held hs
      · exact form_held ht
    · exact form_held ht

/-- The states that an operation's answer holds. -/
def OpRes.Form : OpRes → Prop
  | .done t | .goto t | .hold t | .await t _ | .wait t _ _ => t.MemForm
  | _ => True

/-- A control word keeps the form where its operation does. -/
theorem form_coreWord {s u : State} {hd : Hdr} {rs : List Reg} {cs : List CReg} {k : Bool} {op : State → OpRes} (h : s.MemForm)
    (ho : (op s).Form) (hu : s.coreWord hd rs cs k op = .next u) : u.MemForm := by
  have hres : ∀ v : State, v.MemForm → Host.Outcome.next v = (Host.Outcome.next u : Host.Outcome State Fault Refusal) → u.MemForm := by
    intro v hv he; cases he; exact hv
  unfold State.coreWord at hu
  split at hu
  · rename_i w _
    refine hres _ ?_ hu
    unfold State.nasResume
    split
    · exact h
    · exact form_nasAfter _ _ (form_mapSys (form_setReg _ _ h)) h
  · split at hu
    · exact hres _ (form_takeFault _ _ h) hu
    · split at hu
      · exact hres _ (form_held h) hu
      · split at hu
        · generalize hr : op s = r at hu ho
          cases r with
          | done t => exact hres _ (form_nasAfter _ _ h ho) hu
          | goto t => exact hres _ (form_boundary (form_finish ho)) hu
          | hold t => exact hres _ (form_held ho) hu
          | await t late => exact hres _ (form_awaits _ _ _ h ho) hu
          | fault fi => exact hres _ (form_takeFault _ _ h) hu
          | stop => exact hres _ (form_stopTask h) hu
          | wait t r old =>
            simp only at hu
            split at hu
            · exact hres _ (form_takeFault _ _ h) hu
            · exact hres _ (form_held (form_mapOrd ho)) hu
        · exact hres _ (form_nasAfter _ _ h h) hu

end Sys2Proof.Machine
end

