-- ==== Sys2Proof/Tests/Slice0.lean ====
section
/-! SUPPORT. Tests: decoding from words worked out from the spec's layouts, ill-formed terms, single steps with results
from the manual, and for every obligation states and operands that meet its hypotheses. -/

namespace Sys2Proof.Tests
open Sys2Proof Sys2Proof.Machine

/-- A plain header: NAS SEQ, PRED 0. -/
def h0 : Hdr := ⟨.seq, 0, 0⟩

/-! ### Decoding -/

def reads (w : W64) (i : Instr) : Bool :=
  match decode w with
  | .ok j => decide (j = i)
  | .error _ => false
def readsV (ws : List W64) (i : Instr) : Bool :=
  match decodeV ws with
  | .ok j => decide (j = i)
  | .error _ => false
def readsM (w : W64) (i : Instr) : Bool :=
  match decodeMx w with
  | .ok j => decide (j = i)
  | .error _ => false
def readsX (ws : List (BitVec 128)) (i : Instr) : Bool :=
  match decodeX ws with
  | .ok j => decide (j = i)
  | .error _ => false

/-- R53 functions 0x00 to 0x14 of class A, with D 3, A 4, B 5. -/
theorem test_decode_alu : [
    (0x0000064280000000, .add h0 3 4 5),
    (0x0000464280000000, .sub h0 3 4 5),
    (0x0000864280000000, .mul h0 3 4 5),
    (0x0000C64280000000, .mulhS h0 3 4 5),
    (0x0001064280000000, .mulhZ h0 3 4 5),
    (0x0001464280000000, .divS h0 3 4 5),
    (0x0001864280000000, .divZ h0 3 4 5),
    (0x0001C64280000000, .remS h0 3 4 5),
    (0x0002064280000000, .remZ h0 3 4 5),
    (0x0002464280000000, .and h0 3 4 5),
    (0x0002864280000000, .or h0 3 4 5),
    (0x0002C64280000000, .xor h0 3 4 5),
    (0x0003064280000000, .andn h0 3 4 5),
    (0x0003464280000000, .shl h0 3 4 5),
    (0x0003864280000000, .shr h0 3 4 5),
    (0x0003C64280000000, .sra h0 3 4 5),
    (0x0004064280000000, .rol h0 3 4 5),
    (0x0004464280000000, .minS h0 3 4 5),
    (0x0004864280000000, .minZ h0 3 4 5),
    (0x0004C64280000000, .maxS h0 3 4 5),
    (0x0005064280000000, .maxZ h0 3 4 5)].all (fun x => reads x.1 x.2) = true := by decide

/-- R53 functions 0x15 to 0x2F of class A with the field uses of R47. -/
theorem test_decode_select_predicates_counts : [
    (0x00054642C1800000, .sel h0 3 4 5 true 6),
    (0x00058E1100000000, .pand h0 7 1 2),
    (0x0005CE1100000000, .por h0 7 1 2),
    (0x00060E1000000000, .pnot h0 7 1),
    (0x0006464000000000, .bswapH h0 3 4),
    (0x0006864000000000, .bswapW h0 3 4),
    (0x0006C64000000000, .bswapD h0 3 4),
    (0x00070C4280000000, .cmpEq h0 6 4 5),
    (0x00074C4280000000, .cmpNe h0 6 4 5),
    (0x00078C4280000000, .cmpLt h0 6 4 5),
    (0x0007CC4280000000, .cmpGe h0 6 4 5),
    (0x00080C4280000000, .cmpLtz h0 6 4 5),
    (0x00084C4280000000, .cmpGez h0 6 4 5),
    (0x0008864280C00000, .lea h0 3 4 5 3),
    (0x0009064000000000, .clzB h0 3 4),
    (0x0009464000000000, .clzH h0 3 4),
    (0x0009864000000000, .clzW h0 3 4),
    (0x0009C64000000000, .clzD h0 3 4),
    (0x000A064000000000, .ffsB h0 3 4),
    (0x000A464000000000, .ffsH h0 3 4),
    (0x000A864000000000, .ffsW h0 3 4),
    (0x000AC64000000000, .ffsD h0 3 4),
    (0x000B064000000000, .popB h0 3 4),
    (0x000B464000000000, .popH h0 3 4),
    (0x000B864000000000, .popW h0 3 4),
    (0x000BC64000000000, .popD h0 3 4)].all (fun x => reads x.1 x.2) = true := by decide

/-- R53 functions 0x30 to 0x78 of class A, MODS as R49 lays them out, offset m as the rounding mode. -/
theorem test_decode_float : [
    (0x000C0642CD400000, .fminS h0 3 4 5 ⟨true, false, false, true, 2, 5⟩),
    (0x000C4642CD400000, .fminD h0 3 4 5 ⟨true, false, false, true, 2, 5⟩),
    (0x000C8642CD400000, .fmaxS h0 3 4 5 ⟨true, false, false, true, 2, 5⟩),
    (0x000CC642CD400000, .fmaxD h0 3 4 5 ⟨true, false, false, true, 2, 5⟩),
    (0x000D2C4280000000, .fcmpS h0 2 6 4 5),
    (0x000D5C4280000000, .fcmpD h0 1 6 4 5),
    (0x000D864000000000, .fclassS h0 3 4),
    (0x000DC64000000000, .fclassD h0 3 4),
    (0x000E864980000000, .fcvt h0 .rz 3 4 0x13),
    (0x000F4642CD400000, .faddS h0 .dyn 3 4 5 ⟨true, false, false, true, 2, 5⟩),
    (0x0010C642CD400000, .faddD h0 .rne 3 4 5 ⟨true, false, false, true, 2, 5⟩),
    (0x00124642CD400000, .fsubS h0 .rz 3 4 5 ⟨true, false, false, true, 2, 5⟩),
    (0x0013C642CD400000, .fsubD h0 .ru 3 4 5 ⟨true, false, false, true, 2, 5⟩),
    (0x00154642CD400000, .fmulS h0 .rd 3 4 5 ⟨true, false, false, true, 2, 5⟩),
    (0x00158642CD400000, .fmulD h0 .dyn 3 4 5 ⟨true, false, false, true, 2, 5⟩),
    (0x00170642CD400000, .fdivS h0 .rne 3 4 5 ⟨true, false, false, true, 2, 5⟩),
    (0x00188642CD400000, .fdivD h0 .rz 3 4 5 ⟨true, false, false, true, 2, 5⟩),
    (0x001A0642CD400000, .ffmaS h0 .ru 3 4 5 ⟨true, false, false, true, 2, 5⟩),
    (0x001B8642CD400000, .ffmaD h0 .rd 3 4 5 ⟨true, false, false, true, 2, 5⟩),
    (0x001C864045400000, .fsqrtS h0 .ru 3 4 ⟨true, false, false, false, 2, 5⟩),
    (0x001E064023000000, .fsqrtD h0 .rd 3 4 ⟨false, true, false, false, 1, 4⟩)].all (fun x => reads x.1 x.2) = true := by decide

/-- Classes I and L, and class S functions 0x00 to 0x03. -/
theorem test_decode_immediates_and_special : [
    (0x0020064812340000, .addi h0 3 4 0x81234),
    (0x0020464812340000, .andi h0 3 4 0x81234),
    (0x0020864812340000, .ori h0 3 4 0x81234),
    (0x0020C64812340000, .xori h0 3 4 0x81234),
    (0x00210640002A0000, .shli h0 3 4 0x2A),
    (0x00214640002A0000, .shri h0 3 4 0x2A),
    (0x00218640002A0000, .srai h0 3 4 0x2A),
    (0x0021C640056A0000, .extS h0 3 4 0x15 0x2A),
    (0x00220640056A0000, .extZ h0 3 4 0x15 0x2A),
    (0x00224640056A0000, .ins h0 3 4 0x15 0x2A),
    (0x004006123456789A, .li h0 3 0x123456789A),
    (0x00A0000000000000, .nop h0),
    (0x00A0460ABC000000, .gsr h0 3 0xABC),
    (0x00A0804ABC000000, .ssr h0 4 0xABC),
    (0x00A0C04000000000, .raise h0 4)].all (fun x => reads x.1 x.2) = true := by decide

/-- Class S functions 0x10 to 0x17 (R120). -/
theorem test_decode_parallel : [
    (0x00A4000005000000, .barC h0 5),
    (0x00A4400000000000, .barL h0),
    (0x00A4800000000000, .step h0),
    (0x00A4CA0002000000, .itemNext h0 5 2),
    (0x00A5006000000000, .estAdd h0 6),
    (0x00A5400000000000, .estFlush h0),
    (0x00A58E0ABC000000, .estState h0 7 0xABC),
    (0x00A5C00000000000, .yield h0)].all (fun x => reads x.1 x.2) = true := by decide

/-- Class M functions 0x00 to 0x0D. -/
theorem test_decode_loads_stores : [
    (0x00600C79AABC0000, .ldBs h0 6 ⟨7, 9, 2, 0x2ABC⟩),
    (0x00604C79AABC0000, .ldBz h0 6 ⟨7, 9, 2, 0x2ABC⟩),
    (0x00608C79AABC0000, .ldHs h0 6 ⟨7, 9, 2, 0x2ABC⟩),
    (0x0060CC79AABC0000, .ldHz h0 6 ⟨7, 9, 2, 0x2ABC⟩),
    (0x00610C79AABC0000, .ldWs h0 6 ⟨7, 9, 2, 0x2ABC⟩),
    (0x00614C79AABC0000, .ldWz h0 6 ⟨7, 9, 2, 0x2ABC⟩),
    (0x00618C79AABC0000, .ldD h0 6 ⟨7, 9, 2, 0x2ABC⟩),
    (0x0061CC79AABC0000, .ldc h0 6 ⟨7, 9, 2, 0x2ABC⟩),
    (0x00620C79AABC0000, .stB h0 6 ⟨7, 9, 2, 0x2ABC⟩),
    (0x00624C79AABC0000, .stH h0 6 ⟨7, 9, 2, 0x2ABC⟩),
    (0x00628C79AABC0000, .stW h0 6 ⟨7, 9, 2, 0x2ABC⟩),
    (0x0062CC79AABC0000, .stD h0 6 ⟨7, 9, 2, 0x2ABC⟩),
    (0x00630C79AABC0000, .stc h0 6 ⟨7, 9, 2, 0x2ABC⟩),
    (0x00634079AABC0000, .mark h0 ⟨7, 9, 2, 0x2ABC⟩)].all (fun x => reads x.1 x.2) = true := by decide

/-- Class M functions 0x10 to 0x4A. -/
theorem test_decode_atomics_order_capabilities : [
    (0x00640C792ABC0000, .amoAdd h0 0 6 7 9 0x2ABC),
    (0x00654C792ABC0000, .amoAnd h0 1 6 7 9 0x2ABC),
    (0x00668C792ABC0000, .amoOr h0 2 6 7 9 0x2ABC),
    (0x0067CC792ABC0000, .amoXor h0 3 6 7 9 0x2ABC),
    (0x00680C792ABC0000, .amoMin h0 0 6 7 9 0x2ABC),
    (0x00694C792ABC0000, .amoMax h0 1 6 7 9 0x2ABC),
    (0x006A8C792ABC0000, .amoSwap h0 2 6 7 9 0x2ABC),
    (0x006BCC792ABC0000, .cas h0 3 6 7 9 0x2ABC),
    (0x006C400000000000, .fence h0 1),
    (0x006D800000000000, .acq h0 2),
    (0x006EC00000000000, .rel h0 3),
    (0x006F0C792ABC0000, .mwait h0 6 7 9 0x2ABC),
    (0x006F4079AABC0000, .cfl h0 ⟨7, 9, 2, 0x2ABC⟩),
    (0x006F8079AABC0000, .cinv h0 ⟨7, 9, 2, 0x2ABC⟩),
    (0x00700C7900000000, .capBnd h0 6 7 9),
    (0x00704C7900000000, .capPrm h0 6 7 9),
    (0x00708C79AABC0000, .capOff h0 6 ⟨7, 9, 2, 0x2ABC⟩),
    (0x0070CC0900050000, .capGet h0 6 9 5),
    (0x00710C7900000000, .capTst h0 6 7 9),
    (0x00714C0900000000, .capClr h0 6 9),
    (0x00720C70002A0000, .bufDecl h0 6 7 0x2A),
    (0x0072400000AA0000, .bufSet h0 0x2A 2),
    (0x00728C00002A0000, .bufGet h0 6 0x2A)].all (fun x => reads x.1 x.2) = true := by decide

/-- Class E (R229 and 13). -/
theorem test_decode_engine_words : [
    (0x0080142400000000, .enq h0 .v 8 9),
    (0x0080240000000000, .enq h0 .m 8 0),
    (0x00806D2400000000, .sdSet h0 5 10 9),
    (0x0080AD2400000000, .sdGet h0 5 10 9),
    (0x0080C00004400000, .semSig h0 17),
    (0x0081000110000000, .semWait h0 17),
    (0x0081440110000000, .semGet h0 8 17),
    (0x0081A40000000000, .seqWait h0 .m 8),
    (0x0081F40000000000, .seqGet h0 .x 8),
    (0x0082040000000000, .condPop h0 8),
    (0x0082700000000000, .xfence h0 .x),
    (0x0084101C00000000, .mcfg h0 2 7),
    (0x0084400000000000, .mgo h0),
    (0x0084808000000000, .mkey h0 1),
    (0x0084C30800000000, .mstat h0 6 2)].all (fun x => reads x.1 x.2) = true := by decide

/-- Class S functions 0x20 to 0x29 (R360). -/
theorem test_decode_system : [
    (0x00A8009011000000, .trap h0 9 0x11),
    (0x00A8400000000000, .tret h0),
    (0x00A8800ABC000000, .kcall h0 0xABC),
    (0x00A8CA4000000000, .tlbiPage h0 5 4 false),
    (0x00A8CA4004000000, .tlbiPage h0 5 4 true),
    (0x00A8CA0001000000, .tlbiAsid h0 5 false),
    (0x00A8C00006000000, .tlbiAll h0 true),
    (0x00A9000000000000, .tlbsync h0),
    (0x00A9406000000000, .ctxSave h0 6),
    (0x00A9806000000000, .ctxLoad h0 6),
    (0x00A9C00000000000, .safe h0),
    (0x00AA000ABC000000, .brk h0 0xABC),
    (0x00AA400000000000, .idle h0)].all (fun x => reads x.1 x.2) = true := by decide

/-- The NAS codes of R27 and the target fields of R51: 22, 16 and 24 bits, signed. -/
theorem test_decode_nas : [
    (0x0900064280000000, .add ⟨.seq, 9, 0x000000⟩ 3 4 5),
    (0x19000642803FFFFE, .add ⟨.jmp, 9, 0xFFFFFE⟩ 3 4 5),
    (0x29000642803FFFFD, .add ⟨.jt, 9, 0xFFFFFD⟩ 3 4 5),
    (0x39000642803FFFFC, .add ⟨.jf, 9, 0xFFFFFC⟩ 3 4 5),
    (0x49000642803FFFFB, .add ⟨.call, 9, 0xFFFFFB⟩ 3 4 5),
    (0x590006428000001F, .add ⟨.calli, 9, 0x00001F⟩ 3 4 5),
    (0x6900064280000009, .add ⟨.jmpi, 9, 0x000009⟩ 3 4 5),
    (0x7900064280000000, .add ⟨.ret, 9, 0x000000⟩ 3 4 5),
    (0x89000642803FFFF7, .add ⟨.loop, 9, 0xFFFFF7⟩ 3 4 5),
    (0x9900064280000000, .add ⟨.endp, 9, 0x000000⟩ 3 4 5),
    (0x1020064000018000, .addi ⟨.jmp, 0, 0xFF8000⟩ 3 4 1),
    (0x10A0000000800000, .nop ⟨.jmp, 0, 0x800000⟩),
    (0x106C000000007FFF, .fence ⟨.jmp, 0, 0x7FFF⟩ 0)].all (fun x => reads x.1 x.2) = true := by decide

/-- Words that the manual prints beside their lines (03, 04, 06, 09, 10, 13 and 19). -/
theorem test_decode_spec_words : [
    (0x0000063200000000, .add h0 3 3 4),
    (0x802006300010FFFE, .addi ⟨.loop, 0, 0xFFFFFE⟩ 3 3 16),
    (0x0A14CA63CDC00000, .fmulS ⟨.seq, 0b1010, 0⟩ .rz 5 6 7 ⟨true, false, false, true, 0b10, 0b111⟩),
    (0x0040080000000010, .li h0 4 16),
    (0x00220A6000C80000, .extZ h0 5 6 3 8),
    (0x00A04E0000000000, .gsr h0 7 0),
    (0x00A0805005000000, .ssr h0 5 5),
    (0x00A0000000000000, .nop h0),
    (0x00A4000005000000, .barC h0 5),
    (0x00A4CA0002000000, .itemNext h0 5 2),
    (0x00A58E0001000000, .estState h0 7 1),
    (0x00618645C0100000, .ldD h0 3 ⟨4, 5, 3, 16⟩),
    (0x0064806300080000, .amoAdd h0 2 0 6 3 8),
    (0x006B4E8300000000, .cas h0 1 7 8 3 0),
    (0x006C800000000000, .fence h0 2),
    (0x006F060600000000, .mwait h0 3 0 6 0),
    (0x00708C6300000000, .capOff h0 6 ⟨6, 3, 0, 0⟩),
    (0x0072400000830000, .bufSet h0 3 2),
    (0x9062CE0600000000, .stD ⟨.endp, 0, 0⟩ 7 ⟨0, 6, 0, 0⟩),
    (0x0080121400000000, .enq h0 .v 4 5),
    (0x0081000030000000, .semWait h0 3),
    (0x0082030000000000, .condPop h0 6),
    (0x0082700000000000, .xfence h0 .x),
    (0x0084101C00000000, .mcfg h0 2 7),
    (0x0084808000000000, .mkey h0 1),
    (0x0084C30000000000, .mstat h0 6 0),
    (0x00A8009011000000, .trap h0 9 0x11),
    (0x00A8800012000000, .kcall h0 0x12),
    (0x00A8C85000000000, .tlbiPage h0 4 5 false),
    (0x00A8C00006000000, .tlbiAll h0 true)].all (fun x => reads x.1 x.2) = true := by decide

/-- A region word of 10: BASE 0x1234, STRIDE −3, COUNT 100, NEG, CLAMP 0b10, SCALE 0b101. -/
def region : W64 := 0x00091A7FFE803255
def vcmd (n : Nat) : VCmd := ⟨0x3F, 2, 9, 0x0A, 0x80000001, List.replicate n ⟨0x1234, 0xFFFD, 100, true, false, 2, 5⟩⟩

/-- V opcodes 0x01 to 0x22 with SEMW none, SEMR 2, PRED !p1, FP32 and none to three regions. -/
theorem test_decode_v_low : [
    (0x01FC290A80000001#64 :: List.replicate 0 region, .vAdd (vcmd 0)),
    (0x02FC294A80000001#64 :: List.replicate 1 region, .vSub (vcmd 1)),
    (0x03FC298A80000001#64 :: List.replicate 2 region, .vMul (vcmd 2)),
    (0x04FC29CA80000001#64 :: List.replicate 3 region, .vFma (vcmd 3)),
    (0x05FC290A80000001#64 :: List.replicate 0 region, .vMin (vcmd 0)),
    (0x06FC294A80000001#64 :: List.replicate 1 region, .vMax (vcmd 1)),
    (0x07FC298A80000001#64 :: List.replicate 2 region, .vDiv (vcmd 2)),
    (0x08FC29CA80000001#64 :: List.replicate 3 region, .vSqrt (vcmd 3)),
    (0x09FC290A80000001#64 :: List.replicate 0 region, .vRsq (vcmd 0)),
    (0x10FC294A80000001#64 :: List.replicate 1 region, .vCmp (vcmd 1)),
    (0x11FC298A80000001#64 :: List.replicate 2 region, .vSel (vcmd 2)),
    (0x18FC29CA80000001#64 :: List.replicate 3 region, .vAnd (vcmd 3)),
    (0x19FC290A80000001#64 :: List.replicate 0 region, .vOr (vcmd 0)),
    (0x1AFC294A80000001#64 :: List.replicate 1 region, .vXor (vcmd 1)),
    (0x1BFC298A80000001#64 :: List.replicate 2 region, .vNot (vcmd 2)),
    (0x1CFC29CA80000001#64 :: List.replicate 3 region, .vShl (vcmd 3)),
    (0x1DFC290A80000001#64 :: List.replicate 0 region, .vShr (vcmd 0)),
    (0x1EFC294A80000001#64 :: List.replicate 1 region, .vSra (vcmd 1)),
    (0x20FC298A80000001#64 :: List.replicate 2 region, .vClz (vcmd 2)),
    (0x21FC29CA80000001#64 :: List.replicate 3 region, .vFfs (vcmd 3)),
    (0x22FC290A80000001#64 :: List.replicate 0 region, .vPop (vcmd 0))].all (fun x => readsV x.1 x.2) = true := by decide

/-- V opcodes 0x28 to 0x59. -/
theorem test_decode_v_high : [
    (0x28FC294A80000001#64 :: List.replicate 1 region, .vCvt (vcmd 1)),
    (0x29FC298A80000001#64 :: List.replicate 2 region, .vQblk (vcmd 2)),
    (0x2AFC29CA80000001#64 :: List.replicate 3 region, .vDq (vcmd 3)),
    (0x30FC290A80000001#64 :: List.replicate 0 region, .vTolog (vcmd 0)),
    (0x31FC294A80000001#64 :: List.replicate 1 region, .vFromlog (vcmd 1)),
    (0x32FC298A80000001#64 :: List.replicate 2 region, .vLmul (vcmd 2)),
    (0x33FC29CA80000001#64 :: List.replicate 3 region, .vLdiv (vcmd 3)),
    (0x34FC290A80000001#64 :: List.replicate 0 region, .vLpow (vcmd 0)),
    (0x35FC294A80000001#64 :: List.replicate 1 region, .vLsqrt (vcmd 1)),
    (0x36FC298A80000001#64 :: List.replicate 2 region, .vLadd (vcmd 2)),
    (0x38FC29CA80000001#64 :: List.replicate 3 region, .vAct (vcmd 3)),
    (0x40FC290A80000001#64 :: List.replicate 0 region, .vRed (vcmd 0)),
    (0x41FC294A80000001#64 :: List.replicate 1 region, .vScan (vcmd 1)),
    (0x48FC298A80000001#64 :: List.replicate 2 region, .vFill (vcmd 2)),
    (0x49FC29CA80000001#64 :: List.replicate 3 region, .vIdx (vcmd 3)),
    (0x4AFC290A80000001#64 :: List.replicate 0 region, .vPerm (vcmd 0)),
    (0x4BFC294A80000001#64 :: List.replicate 1 region, .vMov (vcmd 1)),
    (0x50FC298A80000001#64 :: List.replicate 2 region, .vSpush (vcmd 2)),
    (0x51FC29CA80000001#64 :: List.replicate 3 region, .vSpop (vcmd 3)),
    (0x58FC290A80000001#64 :: List.replicate 0 region, .vEst (vcmd 0)),
    (0x59FC294A80000001#64 :: List.replicate 1 region, .vRnd (vcmd 1))].all (fun x => readsV x.1 x.2) = true := by decide

def mcmd : MCmd := ⟨0x3F, 3, 9, 1, 2, true, false, 0x5F, true, false, true, 0xA, true, 0x11, 0⟩

/-- M opcodes 0x01 to 0x04 and DC. -/
theorem test_decode_m : [
    (0x07F0E44ABF552200, .mma mcmd),
    (0x07F0E44ABF752200, .mmaDc mcmd),
    (0x0BF0E44ABF552200, .accZero mcmd),
    (0x0FF0E44ABF552200, .accLd mcmd),
    (0x13F0E44ABF552200, .accOut mcmd)].all (fun x => readsM x.1 x.2) = true := by decide

def xcmd (two : Bool) (f : BitVec 24) : XCmd :=
  ⟨0x3F, 1, 9, 2, 0xFEDCBA9876, 3, 0x0123456789, 0x40, if two then 0x0123456789ABCDEF else 0, if two then 0x1122334455 else 0, f⟩

/-- X opcodes 0x01 to 0x07: one word. -/
theorem test_decode_x_local : [
    ([0x01FC192FEDCBA9876301234567890040], .xCopy (xcmd false 0)),
    ([0x02FC192FEDCBA9876301234567890040], .xFill (xcmd false 0)),
    ([0x03FC192FEDCBA9876301234567890040], .xGather (xcmd false 0)),
    ([0x04FC192FEDCBA9876301234567890040], .xScatter (xcmd false 0)),
    ([0x05FC192FEDCBA9876301234567890040], .xSend (xcmd false 0)),
    ([0x06FC192FEDCBA9876301234567890040], .xFence (xcmd false 0)),
    ([0x07FC192FEDCBA9876301234567890040], .xWait (xcmd false 0))].all (fun x => readsX x.1 x.2) = true := by decide

/-- X opcodes 0x81 to 0x8A: two words, FLAGS selecting the row (R424). -/
theorem test_decode_x_pool_and_remote : [
    ([0x81FC192FEDCBA9876301234567890040, 0x0123456789ABCDEF1122334455000ABC], .xPget (xcmd true 0xabc)),
    ([0x82FC192FEDCBA9876301234567890040, 0x0123456789ABCDEF1122334455000000], .xPput (xcmd true 0x0)),
    ([0x83FC192FEDCBA9876301234567890040, 0x0123456789ABCDEF1122334455000007], .xPatom (xcmd true 0x7)),
    ([0x84FC192FEDCBA9876301234567890040, 0x0123456789ABCDEF1122334455000004], .xLeaseRd (xcmd true 0x4)),
    ([0x84FC192FEDCBA9876301234567890040, 0x0123456789ABCDEF1122334455000001], .xLeaseWr (xcmd true 0x1)),
    ([0x84FC192FEDCBA9876301234567890040, 0x0123456789ABCDEF1122334455000002], .xLeaseRenew (xcmd true 0x2)),
    ([0x84FC192FEDCBA9876301234567890040, 0x0123456789ABCDEF1122334455000003], .xLeaseRel (xcmd true 0x3)),
    ([0x85FC192FEDCBA9876301234567890040, 0x0123456789ABCDEF1122334455000000], .xRcopy (xcmd true 0x0)),
    ([0x86FC192FEDCBA9876301234567890040, 0x0123456789ABCDEF1122334455000000], .xRst (xcmd true 0x0)),
    ([0x87FC192FEDCBA9876301234567890040, 0x0123456789ABCDEF1122334455000028], .xCollBcast (xcmd true 0x28)),
    ([0x87FC192FEDCBA9876301234567890040, 0x0123456789ABCDEF1122334455000029], .xCollGather (xcmd true 0x29)),
    ([0x87FC192FEDCBA9876301234567890040, 0x0123456789ABCDEF112233445500002A], .xCollRscat (xcmd true 0x2a)),
    ([0x87FC192FEDCBA9876301234567890040, 0x0123456789ABCDEF112233445500002B], .xCollAllred (xcmd true 0x2b)),
    ([0x88FC192FEDCBA9876301234567890040, 0x0123456789ABCDEF1122334455000002], .xCircRes (xcmd true 0x2)),
    ([0x88FC192FEDCBA9876301234567890040, 0x0123456789ABCDEF1122334455000001], .xCircRel (xcmd true 0x1)),
    ([0x89FC192FEDCBA9876301234567890040, 0x0123456789ABCDEF1122334455000000], .xSfence (xcmd true 0x0)),
    ([0x8AFC192FEDCBA9876301234567890040, 0x0123456789ABCDEF1122334455000000], .xPref (xcmd true 0x0))].all (fun x => readsX x.1 x.2) = true := by decide

/-- Reserved and unassigned encodings: NAS 0xA, a reserved MODS bit, a target under SEQ, an upper predicate bit, SEMW 0x3F and 0x20
of a class E word, ENG 0b00, NAS JMP under kcall, tlbi FORM 0b11, DC on acc.zero, and the unassigned values of R53. -/
def refuses (w : W64) : Bool :=
  match decode w with
  | .ok _ => false
  | .error _ => true
theorem test_decode_refuses : [0xA000000000000000, 0x0000063280400000, 0x0000063200000001, 0x0005910100000000, 0x00810003F0000000, 0x0081000200000000,
    0x0080021400000000, 0x10A8800012000000, 0x00A8C00003000000, 0x1040080000000010].all refuses = true := by decide
theorem test_decode_refuses_dc : decodeMx 0x0BFFC00000200000 = .error .reservedField := by rfl
theorem test_decode_unassigned : [0x0008C00000000000, 0x001E400000000000, 0x0022800000000000, 0x0063C00000000000, 0x0082800000000000, 0x00A1000000000000,
    0x00C0000000000000, 0x00E0000000000000].all (fun w => reads w (.unassignedControlOpcode w)) = true := by decide
theorem test_decode_unassigned_v : readsV [0x0AFFF0C500000000, 0, 0, 0] (.unassignedEngineOpcode .v 0x0AFFF0C500000000) = true := by decide
theorem test_decode_unassigned_m : readsM 0x17FFC00000000000 (.unassignedEngineOpcode .m 0x17FFC00000000000) = true := by decide
theorem test_decode_unassigned_x : readsX [0x08FFF000000000000000000000000000] (.unassignedEngineOpcode .x 0x08FFF000000000000000000000000000) = true := by decide
theorem test_decode_short : decodeV [0x01FFF0CA00000000, 0, 0] = .error .moreWords ∧ decodeX [0x81FFF000000000000000000000000000] = .error .moreWords := ⟨rfl, rfl⟩
theorem test_decodeTableWord : decodeTableWord 64 0x0000063200000000 = some (.add h0 3 3 4)
    ∧ decodeTableWord 256 (0x000000000000000000000004000000 <<< 128 ||| 0x89FFF000000000000000000000000000) = some (.xSfence ⟨63, 63, 0, 0, 0, 0, 0, 0, 0, 4, 0⟩) := by decide

/-! ### Well-formedness: an ill-formed term for each check -/

/-- A target that its field cannot hold, one under SEQ, RET or END, one above 31 under CALLI. -/
theorem test_illFormed_target : [Instr.add ⟨.jmp, 0, 0x200000⟩ 1 2 3, .addi ⟨.jt, 0, 0x8000⟩ 1 2 3, .add ⟨.seq, 0, 1⟩ 1 2 3, .nop ⟨.ret, 0, 1⟩, .nop ⟨.endp, 0, 1⟩,
    .add ⟨.calli, 0, 32⟩ 1 2 3, .nop ⟨.jmpi, 0, 32⟩].all (fun i => !i.wf) = true := by decide
/-- Class L with JMP or a target; the words that allow SEQ alone. -/
theorem test_illFormed_nas : [Instr.li ⟨.jmp, 0, 0⟩ 1 2, .li ⟨.seq, 0, 1⟩ 1 2, .raise ⟨.jmp, 0, 0⟩ 1, .trap ⟨.endp, 0, 0⟩ 1 2, .tret ⟨.jmp, 0, 0⟩, .kcall ⟨.jmp, 0, 0⟩ 1,
    .ctxLoad ⟨.jmp, 0, 0⟩ 1, .raise ⟨.seq, 0, 1⟩ 1].all (fun i => !i.wf) = true := by decide
/-- Modifiers of the second source on a root; four regions; a second word of a one-word command; a FLAGS selector of another row. -/
theorem test_illFormed_fields : [Instr.fsqrtS h0 .rne 1 2 ⟨false, false, true, false, 0, 0⟩, .fsqrtD h0 .rne 1 2 ⟨false, false, false, true, 0, 0⟩, .vAdd (vcmd 4),
    .xCopy (xcmd true 0), .xLeaseRd (xcmd true 1), .xLeaseWr (xcmd true 0), .xLeaseRenew (xcmd true 0), .xLeaseRel (xcmd true 0), .xCollBcast (xcmd true 1), .xCollGather (xcmd true 0),
    .xCollRscat (xcmd true 0), .xCollAllred (xcmd true 0), .xCircRes (xcmd true 1), .xCircRel (xcmd true 0)].all (fun i => !i.wf) = true := by decide
/-- Words that some row of the map has. -/
theorem test_illFormed_unassigned : [Instr.unassignedControlOpcode 0x0000063200000000, .unassignedControlOpcode 0xA008C00000000000, .unassignedEngineOpcode .v 0x01FFF0CA00000000,
    .unassignedEngineOpcode .m 0x07FFC00000000000, .unassignedEngineOpcode .x 0x01FFF000000000000000000000000000,
    .unassignedEngineOpcode .v 0x10AFFF0C500000000].all (fun i => !i.wf) = true := by decide
theorem test_wellFormed : [Instr.add ⟨.jmp, 9, 0x1FFFFF⟩ 1 2 3, .addi ⟨.jt, 0, 0xFF8000⟩ 1 2 3, .add ⟨.calli, 0, 31⟩ 1 2 3, .li ⟨.ret, 0, 0⟩ 31 1, .vAdd (vcmd 3), .xCopy (xcmd false 0),
    .xLeaseRel (xcmd true 3), .xCircRel (xcmd true 1), .unassignedControlOpcode 0x0008C00000000000, .unassignedEngineOpcode .x 0x80FFF000000000000000000000000000, .boot].all Instr.wf = true := by decide

/-! ### Single steps: the manual's worked examples -/

/-- A state with these s registers. -/
def regs (l : List (Reg × W64)) : State := l.foldl (fun s x => s.setReg x.1 x.2) {}
def after (i : Instr) (s : State) : State :=
  match exec i s with
  | .next t => t
  | .fault _ => {}
  | .refused _ => {}
/-- s3 after an instruction with s4 and s5 given. -/
def s3 (i : Instr) (a b : W64) : W64 := (after i (regs [(4, a), (5, b)])).reg 3

/-- 04, div.s: −7 by 2; R38: the fixed results. -/
theorem test_div : s3 (.divS h0 3 4 5) (-7) 2 = -3 ∧ s3 (.divS h0 3 4 5) 7 0 = 0xFFFFFFFFFFFFFFFF ∧ s3 (.divS h0 3 4 5) 0x8000000000000000 (-1) = 0x8000000000000000
    ∧ s3 (.divZ h0 3 4 5) 7 0 = 0xFFFFFFFFFFFFFFFF := by decide
theorem test_rem : s3 (.remS h0 3 4 5) (-7) 2 = -1 ∧ s3 (.remS h0 3 4 5) 7 0 = 7 ∧ s3 (.remS h0 3 4 5) 0x8000000000000000 (-1) = 0 ∧ s3 (.remZ h0 3 4 5) 7 0 = 7 := by decide
/-- R37: a shift amount uses bits 5:0. -/
theorem test_shift_amount : s3 (.shl h0 3 4 5) 3 65 = 6 ∧ s3 (.shr h0 3 4 5) 3 64 = 3 ∧ s3 (.sra h0 3 4 5) (-8) 0x41 = -4 ∧ s3 (.rol h0 3 4 5) 0x8000000000000001 1 = 3 := by decide
/-- R38: bits 127:64 of the exact product. -/
theorem test_mulh : s3 (.mulhS h0 3 4 5) (-1) (-1) = 0 ∧ s3 (.mulhZ h0 3 4 5) (-1) (-1) = 0xFFFFFFFFFFFFFFFE := by decide
theorem test_write_s0 : (after (.add h0 0 4 5) (regs [(4, 1), (5, 2)])).reg 0 = 0 := by decide
theorem test_li : (after (.li h0 3 (-1)) {}).reg 3 = 0xFFFFFFFFFFFFFFFF := by decide
/-- 04, the bit-field examples: s6 = 0xAB0. -/
theorem test_ext : (after (.extZ h0 5 6 3 8) (regs [(6, 0xAB0)])).reg 5 = 0xA ∧ (after (.extS h0 5 6 3 8) (regs [(6, 0xAB0)])).reg 5 = 0xFFFFFFFFFFFFFFFA := by decide
theorem test_ins : (after (.ins h0 3 4 31 32) (regs [(3, 0x1111111122222222), (4, 0x3333333344444444)])).reg 3 = 0x4444444422222222
    ∧ (after (.ins h0 5 6 3 60) (regs [(6, 0xAB0)])).reg 5 = 0 := by decide
theorem test_bswap : s3 (.bswapW h0 3 4) 0x1122334455667788 0 = 0x4433221188776655 ∧ s3 (.bswapH h0 3 4) 0x1122334455667788 0 = 0x2211443366558877
    ∧ s3 (.bswapD h0 3 4) 0x1122334455667788 0 = 0x8877665544332211 := by decide
/-- R39: the packed results for 0x0000_0001_8000_00F0. -/
theorem test_clz : [s3 (.clzB h0 3 4) 0x1800000F0 0, s3 (.clzH h0 3 4) 0x1800000F0 0, s3 (.clzW h0 3 4) 0x1800000F0 0, s3 (.clzD h0 3 4) 0x1800000F0 0]
    = [0x0808080700080800, 0x0010000F00000008, 0x0000001F00000000, 0x1F] := by decide
theorem test_ffs : [s3 (.ffsB h0 3 4) 0x1800000F0 0, s3 (.ffsH h0 3 4) 0x1800000F0 0, s3 (.ffsW h0 3 4) 0x1800000F0 0, s3 (.ffsD h0 3 4) 0x1800000F0 0]
    = [0x0000000108000005, 0x0000000100100005, 0x0000000100000005, 5] := by decide
theorem test_pop : [s3 (.popB h0 3 4) 0x1800000F0 0, s3 (.popH h0 3 4) 0x1800000F0 0, s3 (.popW h0 3 4) 0x1800000F0 0, s3 (.popD h0 3 4) 0x1800000F0 0]
    = [0x0000000101000004, 0x0000000100010004, 0x0000000100000005, 6] := by decide
theorem test_lea : s3 (.lea h0 3 4 5 3) 0x1000 5 = 0x1028 := by decide
/-- 04: cmp.ltz is unsigned, cmp.lt signed. -/
theorem test_cmp : (after (.cmpLtz h0 2 4 5) (regs [(4, 1), (5, -1)])).pred 2 = true ∧ (after (.cmpLt h0 2 4 5) (regs [(4, 1), (5, -1)])).pred 2 = false := by decide
/-- R78: the smallest subnormal. -/
theorem test_fclass : s3 (.fclassS h0 3 4) 1 0 = 0x20 ∧ s3 (.fclassS h0 3 4) 0x7F800001 0 = 0x100 ∧ s3 (.fclassD h0 3 4) 0x8000000000000000 0 = 8 := by decide
/-- R80: the table of conversions from binary32, with FCSR. -/
theorem test_fcvt_w : [0x40200000, 0xC0200000, 0x4F32D05E, 0x7FC00000, 0xFF800000].map (fun a => (s3 (.fcvt h0 .rne 3 4 2) a 0, (after (.fcvt h0 .rne 3 4 2) (regs [(4, a)])).tile.core.fcsr))
    = [(2, 1), (0xFFFFFFFFFFFFFFFE, 1), (0x7FFFFFFF, 16), (0, 16), (0xFFFFFFFF80000000, 16)] := by decide
theorem test_fcvt_wu : [0xC0200000, 0xBECCCCCD, 0x4F32D05E, 0xFF800000].map (fun a => (s3 (.fcvt h0 .rne 3 4 3) a 0, (after (.fcvt h0 .rne 3 4 3) (regs [(4, a)])).tile.core.fcsr))
    = [(0, 16), (0, 1), (0xB2D05E00, 0), (0, 16)] := by decide
/-- R76: fmax with s0 turns a NaN into +0. -/
theorem test_fmax : s3 (.fmaxS h0 3 4 0 ⟨false, false, false, false, 0, 0⟩) 0x7FC00000 0 = 0 ∧ s3 (.fmaxS h0 3 4 0 ⟨false, false, false, false, 0, 0⟩) 0x3F800000 0 = 0x3F800000 := by decide
/-- 1 + 2^−24 in binary32 is a tie: RNE gives 1 and NX, RU the next number. -/
theorem test_fadd : s3 (.faddS h0 .rne 3 4 5 ⟨false, false, false, false, 0, 0⟩) 0x3F800000 0x33800000 = 0x3F800000
    ∧ s3 (.faddS h0 .ru 3 4 5 ⟨false, false, false, false, 0, 0⟩) 0x3F800000 0x33800000 = 0x3F800001 := by decide

/-- 02, the worked example of a user exception inside a call: steps 1 and 2, then RET of two entries (step 4). -/
def call0 : State := { tile := { core := { pc := 0x4000, ssp := 0x1F000, ssbase := 0x1F000, sslim := 0x20000, exh := 0x4400 } } }
theorem test_call : let t := after (.nop ⟨.call, 0, 16⟩) call0
    t.tile.core.pc = 0x4080 ∧ t.tile.core.ssp = 0x1F008 ∧ t.stackWord 0x1F000 = 0x4008 := by decide
theorem test_raise : let t := after (.raise h0 3) (((call0.setReg 3 5).pushAll [0x4008]).setPc 0x4080)
    t.tile.core.pc = 0x4400 ∧ t.tile.core.ssp = 0x1F018 ∧ t.stackWord 0x1F008 = 0x4400 ∧ t.stackWord 0x1F010 = 0x4089 ∧ t.tile.core.exh = 0 ∧ t.tile.core.eval = 5
      ∧ t.tile.core.epc = 0x4080 := by decide
theorem test_ret_two : let t := after (.nop ⟨.ret, 0, 0⟩) ((call0.pushAll [0x4008, 0x4400, 0x4089]).setPc 0x4408)
    t.tile.core.pc = 0x4088 ∧ t.tile.core.ssp = 0x1F008 ∧ t.tile.core.exh = 0x4400 := by decide
theorem test_loop : let s : State := { tile := { core := { pc := 0x4000, lc := 2 } } }
    (after (.nop ⟨.loop, 0, 0xFFFFFE⟩) s).tile.core.pc = 0x3FF0 ∧ (after (.nop ⟨.loop, 0, 0xFFFFFE⟩) (s.mapCore (fun c => { c with lc := 1 }))).tile.core.pc = 0x4008 := by decide

/-- R114: N = 50 visits 6, 45, 36 and 27 first. -/
theorem test_item_order : (List.range 4).map (itemAt 50 0x3A052C071B030906) = [6, 45, 36, 27] := by decide
/-- 06, the worked batch: pass 2 and pass 5. -/
def batch (pos : W64) : State :=
  { tile := { par := { kind := .estimating, launch := 1, seed := 0x3A052C071B030906, itempos := pos, estN := 1, estMean := 0x4018000000000000 }, task := { index := some 0 } },
    pkg := { launches := [{ handle := 1, rc := { kind := .estimating, en := 50, eb := 4 } }] } }
theorem test_item_next : let t := after (.itemNext h0 5 2) (batch 1)
    t.reg 5 = 45 ∧ t.pred 2 = true ∧ t.tile.par.itempos = 2 := by decide
theorem test_item_next_end : let t := after (.itemNext h0 5 2) (batch 4)
    t.reg 5 = 0xFFFFFFFFFFFFFFFF ∧ t.pred 2 = false := by decide
theorem test_est_add : let t := after (.estAdd h0 6) ((batch 2).setReg 6 0x4046800000000000)
    t.tile.par.estN = 2 ∧ t.tile.par.estMean = 0x4039800000000000 ∧ t.tile.par.estM2 = 0x4087C40000000000 := by decide
/-- R137: the home of 0x1234_5A80, and the next line's. -/
theorem test_home : homeSlice 0x12345A80 = 48 ∧ homeSlice 0x12345AC0 = 49 := by decide

/-- 09, the worked derivation of a read capability. -/
def caps0 : State := (regs [(6, 0x200000), (10, 64), (11, 0x800), (12, 0x400), (13, 128)]).setCap 3
  { typ := 1, perm := 0xD00, base := 0x1000000, len := 0x400000, cursor := 0x1000000, tag := true }
def caps1 : State := after (.capOff h0 6 ⟨6, 3, 0, 0⟩) caps0
def caps2 : State := after (.capBnd h0 7 10 6) caps1
theorem test_cap_off : (caps1.cap 6).cursor = 0x1200000 ∧ (caps1.cap 6).base = 0x1000000 ∧ (caps1.cap 6).len = 0x400000 := by decide
theorem test_cap_bnd : (caps2.cap 7).base = 0x1200000 ∧ (caps2.cap 7).len = 64 ∧ (after (.capBnd h0 9 13 7) caps2).tile.core.cause = BitVec.ofNat 64 FaultCode.capBounds.num
    ∧ (after (.capBnd h0 9 13 7) caps2).tile.core.eval = 128 := by decide
theorem test_cap_prm : ((after (.capPrm h0 8 11 7) caps2).cap 8).perm = 0x800
    ∧ (after (.capPrm h0 9 12 8) (after (.capPrm h0 8 11 7) caps2)).tile.core.cause = BitVec.ofNat 64 FaultCode.capPerm.num := by decide
set_option maxRecDepth 100000 in
/-- 11, the worked BX2 block: its scale word and packed codes. -/
theorem test_bx2 : quantBlock 0x1E (fun _ => .mode .rne) ([0x40600000, 0xC0200000, 0x3F400000, 0x3F000000, 0x3DCCCCCD, 0, 0x3F800000, 0xBF800000,
    0x3FC00000, 0xBFA00000, 0x3E99999A, 0x3F400000, 0xBF000000, 0x3E4CCCCD, 0x3F800000, 0, 0x3F333333, 0xBF19999A, 0x3E000000, 0x3EC00000, 0x3F000000, 0xBE800000, 0x3DCCCCCD, 0x3E4CCCCD,
    0x3E99999A, 0xBDCCCCCD, 0x3D800000, 0x3E428F5C, 0, 0xBE99999A, 0x3E000000, 0x3D4CCCCD].map fmt32.decode)
    = (0x80E4, [3, 6, 1, 0, 0, 0, 1, 5, 3, 6, 1, 2, 5, 0, 2, 0, 3, 6, 0, 2, 2, 5, 0, 1, 2, 5, 0, 2, 0, 6, 1, 0]) := by decide
/-- R331, R361: trap enters the handler; R330: KSTAT. -/
theorem test_trap : let t := after (.trap h0 9 0x11) (((regs [(9, 7)]).setPc 0x4000).mapSys (fun y => { y with kvec := 0x8000, kstat := 4 }))
    t.tile.core.pc = 0x8000 ∧ t.tile.core.level = .k ∧ t.tile.core.cause = 0x11 ∧ t.tile.core.epc = 0x4000 ∧ t.tile.core.eval = 7 ∧ t.tile.sys.kpc = 0x4008 ∧ t.tile.sys.kstat = 0x48 := by decide
/-- R360: a word of level K at level U. -/
theorem test_privilege : (after (.idle h0) (({} : State).mapSys (fun y => { y with kvec := 0x8000 }))).tile.core.cause = BitVec.ofNat 64 FaultCode.privilege.num := by decide
/-- R141, R187: a store to the scratchpad and a load back, sign-extended. -/
def own0 : State := (regs [(3, 0x1234F678)]).setCap 2 { typ := 1, perm := 0xD00, base := 0, len := 0x200000, cursor := 0, tag := true }
theorem test_store_load : let s := after (.stH h0 3 ⟨0, 2, 0, 64⟩) own0
    (after (.ldHs h0 4 ⟨0, 2, 0, 64⟩) s).reg 4 = 0xFFFFFFFFFFFFF678 ∧ (after (.ldHz h0 4 ⟨0, 2, 0, 64⟩) s).reg 4 = 0xF678 ∧ s.tile.near.mem = [(64, 0x78), (65, 0xF6)] := by decide
/-- A step of the machine after reset runs the word that stands at PC, and the X command at RP. -/
theorem test_step_word : (match step (State.reset.withFetchWord 64 0x0040080000000010) with
    | .next t => t.reg 4
    | _ => 0) = 16 := by decide
def xstep0 : State := State.reset.withFetchWord 256 0x89FFF000000000000000000000000000
set_option maxRecDepth 100000 in
theorem test_step_x : (match step xstep0 with
    | .next t => t.tile.eng.ringX.rp
    | _ => 0) = 2 := by decide

/-! ### States that meet the hypotheses of the obligations

One theorem per obligation, clause by clause, at boundary values where a clause has a range. -/

/-- Whether a check of an access answers this location. -/
def found (r : LocRes) (l : Loc) : Bool :=
  match r with
  | .ok _ m => decide (m = l)
  | _ => false

/-- A tile with a capability over the scratchpad (c1), virtual memory (c2), the cluster memory (c3) and a DIRECT object (c4), and a page
table for the first 8 GiB. -/
def mem0 : State :=
  let cap (t : BitVec 4) (b l : W64) : Cap := { typ := t, perm := 0xFE0, base := b, len := l, cursor := b, tag := true }
  let s : State := { tile := { par := { ntile := 1, launch := 1 } },
                     pkg := { launches := [{ handle := 1, place := [(0, 0)], begun := [0] }], dir := [{ index := 0, valid := true, direct := true, ldur := 1000, node := 0, objid := 5 }] } }
  (((s.placeTable.setCap 1 (cap 1 0 0x200000)).setCap 2 (cap 2 0x2000000 0x7E000000)).setCap 3 (cap 1 0x1000000 0x100000)).setCap 4 { cap 3 5 0x40000 with cursor := 0 }
/-- The same in a task, whose ranges cover everything. -/
def task0 : State := { mem0 with tile := { mem0.tile with par := { mem0.tile.par with kind := .tasked }, task := { index := some 0, rds := [(0, 0x2000000), (0x2000000, 0x7E000000)], wrs := [(0, 0x2000000), (0x2000000, 0x7E000000)] } } }

theorem witness_Issues : ({} : State).Issues h0 [31, 0, 31] [15, 0] ∧ (regs [(3, 1)]).Issues ⟨.jt, 0xF, 0x1FFFFF⟩ [1, 2, 3] [] ∧ (regs [(3, 1)]).Issues ⟨.calli, 0, 3⟩ [1, 2, 3] [1]
    ∧ ¬ ({ tile := { ord := { lq := [⟨0, 0, .load (.own 0) 8 false 3⟩] } } } : State).Issues h0 [3] [] := by decide
/-- IntegerFunctions, SelectLeaCompare: Issues alone; s0 and s31 as source and destination. -/
theorem witness_IntegerFunctions : ({} : State).Issues h0 [0, 31, 31] [] ∧ ({} : State).Issues ⟨.ret, 0, 0⟩ [31] [] ∧ ({} : State).Issues h0 [31, 0] [] := by decide
theorem witness_SelectLeaCompare : ({} : State).Issues h0 [31, 0, 0] [] ∧ ({} : State).Issues h0 [0, 31] [] ∧ ({} : State).Issues h0 [] [] := by decide
/-- BitFields: the field that ends at bit 63 and the one that passes it. -/
theorem witness_BitFields : ({} : State).Issues h0 [31, 0] [] ∧ (63#6).toNat + ((0#6).toNat + 1) ≤ 64 ∧ (63#6).toNat + ((1#6).toNat + 1) > 64 ∧ (0#6).toNat + ((63#6).toNat + 1) ≤ 64 := by decide
theorem witness_SkippedWord : let h : Hdr := ⟨.seq, 8, 0⟩
    (Instr.add h 1 2 3).hdr = some h ∧ ({} : State).tile.ord.nasWait = none ∧ ({} : State).performs h = false ∧ (∀ r, ({} : State).pendingReg r = false) ∧ (∀ c, ({} : State).pendingCap c = false)
      ∧ (Instr.add h 1 2 3).kindOk .single = true ∧ (Instr.barL h).kindOk .single = true ∧ (Instr.yield h).kindOk .tasked = true ∧ (Instr.idle h).needsK = true ∧ Level.k ≠ .u := by decide
/-- NextAddressSelect: END outside a batch, in one that has flushed and in one that has not; CALLI with a free stack slot. -/
theorem witness_NextAddressSelect : ¬ (({} : State).tile.par.kind = .estimating ∧ ({} : State).tile.task.index.isSome ∧ ({} : State).tile.task.flush = none)
    ∧ (batch 4).tile.par.kind = .estimating ∧ (batch 4).tile.task.index.isSome ∧ (batch 4).tile.task.flush = none ∧ (batch 4).nearBusy estRange.1 estRange.2 false = false ∧ (batch 4).tile.task.stop = false
    ∧ ({} : State).nearBusy (stackAddr ({} : State).tile.core.ssp) (stackAddr ({} : State).tile.core.ssp + 8) true = false := by decide
/-- ReturnStack: CALL with the last free entry and with none; RET with one entry, two, none; raise with and without room and handler. -/
theorem witness_ReturnStack :
    (let t (ssp : W64) : State := { tile := { core := { ssp := ssp } } }
     (Memory.wf (t 0x1FFFF8).tile.near.mem = true ∧ (t 0x1FFFF8).tile.near.scrub = [] ∧ (t 0x1FFFF8).nearBusy (stackAddr 0x1FFFF8) (stackAddr 0x1FFFF8 + 8) true = false)
     ∧ (0x1F0000 ≤ (0x1FFFF8#64).toNat ∧ (0x1FFFF8#64).toNat + 8 ≤ 0x200000) ∧ ¬ (0x1F0000 ≤ (0x200000#64).toNat ∧ (0x200000#64).toNat + 8 ≤ 0x200000))
    ∧ (let t : State := { tile := { core := { ssp := 0x1F0010 }, near := { mem := [(0x1F0008, 1)] } } }
       (t.stackWord 0x1F0008).getLsbD 0 = true ∧ t.tile.core.ssbase.toNat + 16 ≤ t.tile.core.ssp.toNat ∧ t.tile.core.ssp.toNat ≤ t.tile.core.sslim.toNat)
    ∧ (let t : State := { tile := { core := { ssp := 0x1F0008 }, near := { mem := [(0x1F0000, 1)] } } }
       (t.stackWord 0x1F0000).getLsbD 0 = true ∧ t.tile.core.ssbase.toNat + 8 ≤ t.tile.core.ssp.toNat ∧ t.tile.core.ssp.toNat < t.tile.core.ssbase.toNat + 16)
    ∧ (let t : State := { tile := { core := { ssp := 0x1F0008 } } }
       (t.stackWord 0x1F0000).getLsbD 0 = false ∧ t.tile.core.ssbase.toNat + 8 ≤ t.tile.core.ssp.toNat)
    ∧ ¬ (({} : State).tile.core.ssbase.toNat + 8 ≤ ({} : State).tile.core.ssp.toNat)
    ∧ (call0.Issues h0 [3] [] ∧ call0.nearBusy (stackAddr call0.tile.core.ssp) (stackAddr call0.tile.core.ssp + 16) true = false ∧ call0.tile.core.exh ≠ 0 ∧ ({} : State).tile.core.exh = 0) := by decide
theorem witness_ReturnStack_free : ∀ lo hi, ({} : State).nearBusy lo hi false = false := fun _ _ => rfl
/-- The last entry in a write-locked line, a popped entry in a line with an error; the two entries of a raise that wraps at 2 MiB. -/
theorem witness_ReturnStack_locked : let t : State := { tile := { core := { ssp := 0x1FFFF8 }, near := { locked := [(0x1FFFC0, 0x200000)] } } }
    t.tile.near.ecc = [] ∧ meetsRanges t.tile.near.locked (stackAddr t.tile.core.ssp) (stackAddr t.tile.core.ssp + 8) = true
      ∧ (({} : State).tile.near.ecc = [] ∧ ({} : State).tile.near.locked = []) := by decide
theorem witness_ReturnStack_ecc : let t : State := { tile := { core := { ssp := 0x1F0008 }, near := { ecc := [0x7C00] } } }
    t.tile.core.ssbase.toNat + 8 ≤ t.tile.core.ssp.toNat ∧ t.tile.core.ssp.toNat ≤ t.tile.core.sslim.toNat ∧ stackAddr (t.tile.core.ssp - 8) / 64 ∈ t.tile.near.ecc := by decide
def wrap0 : State := { call0 with tile := { call0.tile with core := { call0.tile.core with ssp := 0x1FFFF8, sslim := 0x200008 } } }
theorem witness_ReturnStack_wraps : wrap0.tile.near.ecc = [] ∧ wrap0.tile.near.locked = []
    ∧ (∀ e ∈ [wrap0.tile.core.ssp, wrap0.tile.core.ssp + 8], wrap0.nearBusy (stackAddr e) (stackAddr e + 8) true = false) := ⟨rfl, rfl, fun _ _ => rfl⟩
theorem witness_ReturnStack_wraps_room : wrap0.tile.core.exh ≠ 0 ∧ wrap0.tile.core.ssbase.toNat ≤ wrap0.tile.core.ssp.toNat ∧ wrap0.tile.core.ssp.toNat + 16 ≤ wrap0.tile.core.sslim.toNat
    ∧ wrap0.tile.core.ssp.toNat % 8 = 0 ∧ stackAddr (wrap0.tile.core.ssp + 8) = 0 := by decide

theorem witness_ScalarFloat : ({} : State).Issues h0 [31, 30, 29] [] ∧ ({} : State).Issues h0 [31, 30, 0] []
    ∧ (fmt32.decode 0x7FC00000).isNan = true ∧ (fmt64.decode 0x7FF0000000000001).isNan = true ∧ fmt32.decode 0x7F800000 = .inf false ∧ fmt64.decode 0xFFF0000000000000 = .inf true
    ∧ (match fmt32.decode 0 with | .fin false 0 _ => true | _ => false) = true ∧ (match fmt64.decode 0x8000000000000000 with | .fin true 0 _ => true | _ => false) = true
    ∧ (match fmt32.decode 0xBF800000 with | .fin true g _ => g != 0 | _ => false) = true := by decide
/-- Conversions: the last kind of the table and the first outside it; NaN and both infinities of each source. -/
theorem witness_Conversions : ({} : State).Issues h0 [31, 30] [] ∧ (0x13#5).toNat < 0x14 ∧ (0x14#5).toNat ≥ 0x14
    ∧ (fmt32.decode ((0xFFFFFFFF7FC00000#64).toNat % 2 ^ 32)).isNan = true ∧ fmt32.decode ((0x7F800000#64).toNat % 2 ^ 32) = .inf false ∧ fmt32.decode ((0xFF800000#64).toNat % 2 ^ 32) = .inf true
    ∧ (fmt64.decode ((0x7FF8000000000000#64).toNat % 2 ^ 64)).isNan = true ∧ fmt64.decode ((0x7FF0000000000000#64).toNat % 2 ^ 64) = .inf false
    ∧ fmt64.decode ((0xFFF0000000000000#64).toNat % 2 ^ 64) = .inf true := by decide
/-- SystemWords: a number that names no register, one that level U may not read, one that it may not write, one that it may read and write; EXH and SSP
with an address that is aligned, misaligned, and outside the stack; safe and brk with and without their debugger and pre-emption. -/
theorem witness_SystemWords : ({} : State).Issues h0 [31] [] ∧ regAccess 0xFFF = none
    ∧ (∃ acc, regAccess 0x050 = some acc ∧ accessAt .u acc = .none ∧ acc.2 = .write) ∧ (∃ acc, regAccess 0x000 = some acc ∧ accessAt .u acc = .write ∧ acc.2 = .write)
    ∧ (∃ acc, regAccess 0x03C = some acc ∧ acc.2 ≠ .write ∧ accessAt .u acc ≠ .none) ∧ (∃ acc, regAccess 6 = some acc ∧ accessAt .u acc = .write)
    ∧ (0x1F0001#64).toNat % 8 ≠ 0 ∧ ((0x1EFFF8#64).toNat % 8 = 0 ∧ (0x1EFFF8#64).toNat < ({} : State).tile.core.ssbase.toNat) ∧ ({} : State).tile.core.sslim.toNat < (0x200008#64).toNat
    ∧ isEst 0x01A = true ∧ ({} : State).nearBusy estRange.1 estRange.2 true = false
    ∧ ({} : State).tile.disp.preempt ≠ .classS ∧ (0x10#64).getLsbD 4 = true ∧ ({} : State).tile.sys.dbgctl.getLsbD 4 = false :=
  ⟨by decide, by decide, ⟨_, rfl, by decide⟩, ⟨_, rfl, by decide⟩, ⟨_, rfl, by decide⟩, ⟨_, rfl, by decide⟩, by decide⟩

/-- BarrierWords: words of another launch kind; a completed generation; nothing under way, alone and with another tile that has not arrived; a store in the way. -/
theorem witness_BarrierWords :
    (Instr.barL h0).kindOk .tasked = false ∧ (Instr.estFlush h0).kindOk .tasked = false ∧ (Instr.yield h0).kindOk .single = false ∧
    (let s : State := { tile := { ord := { bar := .released none } } }
     s.Issues h0 [] [] ∧ s.tile.par.kind = .single ∧ s.tile.ord.bar = .released none)
    ∧ (let s : State := {}
       s.tile.ord.bar = .idle ∧ s.tile.ord.sq = [] ∧ s.tile.ord.lq = [] ∧ (∀ c ∈ s.pkg.chans, c.src ≠ s.tile.phys)
       ∧ ((s.releaseAll.mapOrd (fun o => { o with bar := .arrived (some 15) false s.releaseAll.tile.eng.ts })).tryRelease (some 15)).tile.ord.bar = .released (some 15)
       ∧ s.tile.phys ∈ s.participants none)
    ∧ (let s : State := { tile := { par := { launch := 1 } }, pkg := { tiles := [{ phys := 1 }], launches := [{ handle := 1, place := [(0, 0), (1, 1)] }] } }
       (∃ t ∈ (s.participants none).filterMap s.tileAt, t.arrivedAt none = false)
       ∧ ((s.releaseAll.mapOrd (fun o => { o with bar := .arrived none true s.releaseAll.tile.eng.ts })).tryRelease none).tile.ord.bar = .arrived none true s.releaseAll.tile.eng.ts)
    ∧ (let s : State := { tile := { ord := { sq := [⟨0, 0, .sem 1⟩] } } }
       s.Issues h0 [] [] ∧ s.tile.ord.bar = .idle ∧ s.tile.ord.sq ≠ [])
    ∧ (let s : State := { tile := { ord := { bar := .arrived none true 0 } } }
       (∀ t ∈ (s.participants none).filterMap s.tileAt, t.arrivedAt none = true) ∧ (∀ t ∈ (s.participants none).filterMap s.tileAt, t.sendsOpen none = false)) := by decide
/-- No pool entry and an open LOAD8 of the core; a selector whose target is misaligned, and one that has no free entry. -/
theorem witness_BarrierWords_awaits : (∀ m ∈ ({} : State).pkg.poolCh, m.src ≠ ({} : State).tile.phys)
    ∧ (let s : State := { pkg := { poolCh := [{ obj := 5, op := .load8 0 3, token := 0, src := 0, pc := 0, eng := none, seq := 1 }] } }
       s.Issues h0 [] [] ∧ s.tile.ord.bar = .idle ∧ ∃ m ∈ s.pkg.poolCh, m.src = s.tile.phys ∧ m.byWord = true ∧ m.op.dest.isSome = true)
    ∧ (regs [(3, 0x4004)]).reg ((3 : BitVec 21).extractLsb' 0 5) &&& 7 ≠ 0 ∧ ({ tile := { core := { ssp := 0x200000 } } } : State).canPush 1 = false := by decide
/-- ItemNext: the last position of a batch, the first after it, and a batch that has flushed. -/
theorem witness_ItemNext : (batch 3).Issues h0 [5] [] ∧ (batch 3).tile.par.kind = .estimating ∧ (batch 3).tile.task.stop = false ∧ ((batch 3).pkg.launch (batch 3).tile.handle).isSome = true
    ∧ (batch 3).tile.par.itempos.toNat < min (((batch 3).tile.par.task.toNat + 1) * 4) 50 ∧ (batch 3).tile.task.flush = none
    ∧ min (((batch 4).tile.par.task.toNat + 1) * 4) 50 ≤ (batch 4).tile.par.itempos.toNat ∧ ((batch 3).mapTask (fun t => { t with flush := some (4, 0, 0) })).tile.task.flush ≠ none := by decide
theorem witness_ItemOrderIsPermutation : 0 < 1 ∧ itemAt 1 0 0 = 0 := by decide
/-- EstimatorAndYield: a batch whose count is complete, one whose count is short; the last selector; yield with three and four binds. -/
theorem witness_EstimatorAndYield :
    (let s := (batch 4).mapPar (fun q => { q with estN := 4 })
     s.Issues h0 [5] [] ∧ s.nearBusy estRange.1 estRange.2 true = false ∧ s.nearBusy estRange.1 estRange.2 false = false ∧ s.tile.task.stop = false ∧ s.tile.task.flush = none ∧ s.tile.par.estN.toNat = s.batchItems
       ∧ (batch 4).tile.par.estN.toNat ≠ (batch 4).batchItems ∧ (s.pkg.launch s.tile.handle).isSome = true ∧ (4#12).toNat < 5 ∧ (5#12).toNat ≥ 5)
    ∧ (let b : Bind := { tt := false, prio := 1, launch := 1, ltile := 0, lclus := 0, stage := 0, age := 0, order := 0 }
       let s (n : Nat) : State := { tile := { par := { kind := .tasked }, disp := { bind := some b, slot := List.replicate n b } } }
       (s 3).Issues h0 [] [] ∧ (s 3).tile.par.kind ≠ .single ∧ (s 3).tile.disp.bind = some b ∧ (s 3).tile.disp.slot.length < 4 ∧ (s 4).tile.disp.slot.length ≥ 4) := by decide
/-- AccessChecks: no tag, sealed, a type that the access does not allow, a missing permission, both bounds, a misaligned address; and the last dword of the
scratchpad. -/
theorem witness_AccessChecks : mem0.inTask = false
    ∧ (let c := mem0.cap 1
       ({ c with tag := false } : Cap).tag = false ∧ ({ c with typ := 5 } : Cap).typ = 5 ∧ AccKind.typeOk .ld (7#4).toNat = true ∧ ¬ AccKind.typeOk .st (7#4).toNat = true
       ∧ c.perm &&& AccKind.perms .st = AccKind.perms .st ∧ ¬ (0x800#12 &&& AccKind.perms .st = AccKind.perms .st) ∧ c.tenant = mem0.tile.tenant
       ∧ ((0x1FFFF9#64).toNat + 8 > c.base.toNat + c.len.toNat) ∧ boundsFault mem0.tile.par.ntile.toNat c 0x1FFFF4 8 .ld = none ∧ (0x1FFFF4#64).toNat % 8 ≠ 0)
    ∧ (let c := mem0.cap 1
       c.tag = true ∧ c.typ = 1 ∧ c.base.toNat ≤ (0x1FFFF8#64).toNat ∧ (0x1FFFF8#64).toNat + 8 ≤ c.base.toNat + c.len.toNat ∧ (0x1FFFF8#64).toNat + 8 ≤ 0x200000 ∧ (0x1FFFF8#64).toNat % 8 = 0
       ∧ mem0.tile.near.ecc = [] ∧ mem0.tile.near.locked = [] ∧ mem0.tile.eng.cmds = [] ∧ (∀ b ∈ mem0.tile.bufs.toList, b.v = false)
       ∧ mem0.tile.eng.ringV.q = 0 ∧ mem0.tile.eng.ringM.q = 0 ∧ mem0.tile.eng.ringX.q = 0) := by decide
/-- Loads, StoresToOwnMemory, StoresAway: the same words at each kind of place. -/
theorem witness_Loads : mem0.Issues h0 [3, 0] [1]
    ∧ found (mem0.locate (mem0.cap 1) (mem0.opAddr ⟨0, 1, 0, 0x100⟩) 8 .ld 3 {}) (.own 0x100) = true
    ∧ found (mem0.locate (mem0.cap 2) (mem0.opAddr ⟨0, 2, 0, 0x100⟩) 8 .ld 3 {}) (.pkgMem 0x2000100 true) = true
    ∧ found (mem0.locate (mem0.cap 3) (mem0.opAddr ⟨0, 3, 0, 0x100⟩) 8 .ld 3 {}) (.cluster 0 0x100) = true
    ∧ found (mem0.locate (mem0.cap 4) (mem0.opAddr ⟨0, 4, 0, 0x100⟩) 8 .ld 3 {}) (.direct 5 0x100) = true
    ∧ nasNeeds h0 3 = false ∧ nasNeeds ⟨.jmpi, 0, 3⟩ 3 = true ∧ mem0.Issues ⟨.jmpi, 0, 3⟩ [3, 0] [2] := by decide
theorem witness_StoresToOwnMemory : mem0.Issues h0 [3, 0] [1] ∧ Memory.wf mem0.tile.near.mem = true ∧ (∀ r ∈ mem0.tile.near.scrub, r.1 % 64 = 0 ∧ r.2 % 64 = 0)
    ∧ found (mem0.locate (mem0.cap 1) (mem0.opAddr ⟨0, 1, 0, 0x100⟩) 8 .st 3 {}) (.own 0x100) = true := by decide
theorem witness_StoresAway : mem0.holdsBack (.pkgMem 0x2000100 true) = false ∧ task0.holdsBack (.pkgMem 0x2000100 true) = true ∧ task0.Issues h0 [3, 0] [2]
    ∧ found (mem0.locate (mem0.cap 2) (mem0.opAddr ⟨0, 2, 0, 0x100⟩) 8 .st 3 {}) (.pkgMem 0x2000100 true) = true
    ∧ found (task0.locate (task0.cap 3) (task0.opAddr ⟨0, 3, 0, 0x100⟩) 8 .st 3 {}) (.cluster 0 0x100) = true
    ∧ found (mem0.locate (mem0.cap 1) (mem0.opAddr ⟨0, 1, 0, 0x100⟩) 64 .mark 0 {}) (.own 0x100) = true
    ∧ found (mem0.locate (mem0.cap 2) (mem0.opAddr ⟨0, 2, 0, 0x100⟩) 64 .mark 0 {}) (.pkgMem 0x2000100 true) = true
    ∧ found (task0.locate (task0.cap 2) (task0.opAddr ⟨0, 2, 0, 0x100⟩) 64 .mark 0 {}) (.pkgMem 0x2000100 true) = true := by decide
set_option maxRecDepth 100000 in
theorem witness_StoresAway_lines : (task0.mapTask (fun k => { k with held := k.held ++ [⟨0, 0x2000100, .pkgMem 0x2000100 true, [1, 2, 3, 4, 5, 6, 7, 8], none⟩] })).tile.task.lines.length ≤ 1024 := by decide
theorem witness_CapabilityLoadStore : mem0.Issues h0 [0] [1, 9]
    ∧ found (mem0.locate (mem0.cap 1) (mem0.opAddr ⟨0, 1, 0, 0x100⟩) 32 .ldc 0 {}) (.own 0x100) = true ∧ found (mem0.locate (mem0.cap 2) (mem0.opAddr ⟨0, 2, 0, 0x100⟩) 32 .ldc 0 {}) (.pkgMem 0x2000100 true) = true
    ∧ found (mem0.locate (mem0.cap 1) (mem0.opAddr ⟨0, 1, 0, 0x100⟩) 32 .stc 0 (mem0.cap 2)) (.own 0x100) = true
    ∧ found (mem0.locate (mem0.cap 2) (mem0.opAddr ⟨0, 2, 0, 0x100⟩) 32 .stc 0 (mem0.cap 2)) (.pkgMem 0x2000100 true) = true
    ∧ mem0.holdsBack (.pkgMem 0x2000100 true) = false ∧ Memory.wf mem0.tile.near.mem = true ∧ 0x1FFFE0 % 32 = 0 := by decide
theorem witness_Atomics : mem0.Issues h0 [3, 4] [1] ∧ nasNeeds h0 3 = false
    ∧ found (mem0.locate (mem0.cap 1) ((mem0.cap 1).cursor + 0x100) 8 .amo 3 {}) (.own 0x100) = true
    ∧ found (mem0.locate (mem0.cap 3) ((mem0.cap 3).cursor + 0x100) 8 .amo 3 {}) (.cluster 0 0x100) = true
    ∧ found (mem0.locate (mem0.cap 4) ((mem0.cap 4).cursor + 0x100) 8 .amo 3 {}) (.direct 5 0x100) = true ∧ mem0.holdsBack (.direct 5 0x100) = false
    ∧ found (task0.locate (task0.cap 2) ((task0.cap 2).cursor + 0x100) 8 .amo 0 {}) (.pkgMem 0x2000100 true) = true ∧ task0.holdsBack (.pkgMem 0x2000100 true) = true ∧ task0.Issues h0 [0, 4] [2] := by decide
/-- OrderingWords: cfl and cinv of each kind of place; mwait with no monitor, one that has read another value, one that still waits. -/
theorem witness_OrderingWords : mem0.Issues h0 [] [] ∧ mem0.Issues h0 [0] [2]
    ∧ found (mem0.locate (mem0.cap 1) (mem0.opAddr ⟨0, 1, 0, 0x100⟩) 1 .cfl 0 {}) (.own 0x100) = true ∧ found (mem0.locate (mem0.cap 2) (mem0.opAddr ⟨0, 2, 0, 0x100⟩) 1 .cinv 0 {}) (.pkgMem 0x2000100 true) = true
    ∧ mem0.inTask = false ∧ task0.inTask = true ∧ found (task0.locate (task0.cap 2) (task0.opAddr ⟨0, 2, 0, 0x100⟩) 1 .cfl 0 {}) (.pkgMem 0x2000100 true) = true
    ∧ mem0.Issues h0 [3, 0] [1] ∧ nasNeeds h0 3 = false ∧ mem0.tile.ord.mon = none ∧ found (mem0.locate (mem0.cap 1) ((mem0.cap 1).cursor + 0x100) 8 .mwait 3 {}) (.own 0x100) = true
    ∧ BitVec.ofNat 64 (Spec.number (mem0.tile.near.readN 0x100 8)) = mem0.reg 0 ∧ mem0.timedOut { loc := .own 0x100, woken := false, read := true, matched := true, since := 0, old := 0 } = false
    ∧ BitVec.ofNat 64 (Spec.number (mem0.tile.near.readN 0x100 8)) ≠ (regs [(4, 1)]).reg 4
    ∧ found (mem0.locate (mem0.cap 2) ((mem0.cap 2).cursor + 0x100) 8 .mwait 3 {}) (.pkgMem 0x2000100 true) = true := by decide
/-- CapabilityWords: no tag; sealed; the whole range and one byte more; a POOL capability; a permission it has and one it lacks. -/
theorem witness_CapabilityWords : mem0.Issues h0 [4] [1, 9] ∧ (mem0.cap 9).tag = false ∧ (mem0.cap 1).tag = true ∧ (mem0.cap 1).typ ≠ 3 ∧ (mem0.cap 4).typ = 3
    ∧ ((mem0.cap 1).base.toNat ≤ (mem0.cap 1).cursor.toNat ∧ (mem0.cap 1).cursor.toNat + (0x200000#64).toNat ≤ (mem0.cap 1).base.toNat + (mem0.cap 1).len.toNat)
    ∧ ¬ ((mem0.cap 1).cursor.toNat + (0x200001#64).toNat ≤ (mem0.cap 1).base.toNat + (mem0.cap 1).len.toNat)
    ∧ (mem0.cap 4).cursor.toNat + (0x40000#64).toNat ≤ (mem0.cap 4).len.toNat ∧ (mem0.cap 4).cursor.toNat + (0x40001#64).toNat > (mem0.cap 4).len.toNat
    ∧ ((0xFC0#64).toNat < 2 ^ 12 ∧ (0xFC0#64).toNat % 16 = 0 ∧ (0xFC0#64).extractLsb' 0 12 &&& ~~~(mem0.cap 1).perm = 0) ∧ (0x1000#64).toNat ≥ 2 ^ 12
    ∧ (0x010#64).extractLsb' 0 12 &&& ~~~(mem0.cap 1).perm ≠ 0 ∧ (mem0.setCap 5 { mem0.cap 1 with typ := 5 }).cap 5 = { mem0.cap 1 with typ := 5 } := by decide
theorem witness_CapabilitiesNeverWiden : (9#4 : CReg) ≠ 0 ∧ (match exec (.capClr h0 9 1) mem0 with
    | .next t => (t.cap 9).typ == (mem0.cap 1).typ
    | _ => false) = true := by decide
/-- DeclaredBuffers: a declaration that is good, one that is not aligned; each transition from EMPTY. -/
theorem witness_DeclaredBuffers : mem0.Issues h0 [3, 4] [] ∧ mem0.bufBusy 63 = false ∧ mem0.tile.declOk 63 0x1000 64 = true ∧ mem0.tile.declOk 63 0x1001 64 = false
    ∧ (BufSt.empty, BufSt.filling) ∈ [(BufSt.empty, BufSt.filling), (.filling, .full), (.full, .draining)] ∧ ¬ (BufSt.empty, BufSt.full) ∈ [(BufSt.empty, BufSt.filling), (.filling, .full), (.full, .draining)]
    ∧ mem0.tile.bufs[(63#6).toFin].v = false := by decide
/-- A command with a role on buffer 63; a declared buffer whose bytes a command touches, and one that none touches. -/
theorem witness_DeclaredBuffers_busy : let k : Cmd := { eng := .v, idx := 0, words := 1, ts := 1, predTrue := true, rngs := [⟨0x100, 0x140, true⟩], uses := [(63, false, true)] }
    let s := (mem0.mapEng (fun e => { e with cmds := [k] })).updT (fun t => { t with bufs := t.bufs.set 3 { v := true, len := 1, base := 4 } })
    s.Issues h0 [3, 4] [] ∧ s.bufBusy 63 = true ∧ s.bufBusy 3 = false ∧ s.tile.bufs[(3#6).toFin].v = true ∧ s.nearBusy s.tile.bufs[(3#6).toFin].lo s.tile.bufs[(3#6).toFin].hi true = true
      ∧ (let t := s.mapEng (fun e => { e with cmds := [] })
         t.tile.bufs[(3#6).toFin].v = true ∧ t.nearBusy t.tile.bufs[(3#6).toFin].lo t.tile.bufs[(3#6).toFin].hi true = false) := by decide

/-- A tile with its three rings (V of 16 dwords at 0x1000, M of 4 at 0x2000, X of 8 words at 0x3000), V one word short of full, and the word
registers 4 to 6. -/
def eng0 : State :=
  { regs [(4, 0x1122334455667788), (5, 7), (6, 0xFFFFFFFFFFFFFFFF)] with tile := { (regs [(4, 0x1122334455667788), (5, 7), (6, 0xFFFFFFFFFFFFFFFF)]).tile with
      eng := { ringV := { q := 4, base := 0x1000, rp := 0xFFFFFFF8, wp := 7 }, ringM := { q := 2, base := 0x2000 }, ringX := { q := 3, base := 0x3000, rp := 8, wp := 16 } } } }
/-- EnqueueWords: no ring; one word and two into a ring with one free place; a full ring; an empty one. -/
theorem witness_EnqueueWords : ({} : State).Issues h0 [4, 0] [] ∧ (({} : State).tile.eng.ring .v).q = 0
    ∧ eng0.Issues h0 [4, 5] [] ∧ ((eng0.tile.eng.ring .v).wp - (eng0.tile.eng.ring .v).rp).toNat = 15 ∧ (eng0.tile.eng.ring .v).q ≠ 0 ∧ 15 + 1 ≤ 2 ^ (eng0.tile.eng.ring .v).q.toNat
    ∧ 15 + 2 > 2 ^ (eng0.tile.eng.ring .v).q.toNat ∧ ((eng0.tile.eng.ring .x).wp - (eng0.tile.eng.ring .x).rp).toNat + 1 > 2 ^ (eng0.tile.eng.ring .x).q.toNat
    ∧ ((eng0.tile.eng.ring .m).wp - (eng0.tile.eng.ring .m).rp).toNat + 2 ≤ 2 ^ (eng0.tile.eng.ring .m).q.toNat ∧ eng0.MemForm := by decide
theorem witness_EnqueueWords_free : ∀ lo hi, eng0.nearBusy lo hi true = false := fun _ _ => rfl
/-- A pending command that reads descriptor 3 only. -/
def sdRead0 : State := eng0.mapEng (fun e => { e with cmds := [{ eng := .v, idx := 0, words := 1, ts := 1, predTrue := true, rngs := [⟨(sdRange 3).1, (sdRange 3).2, false⟩] }] })
/-- DescriptorSemaphoreWords: a free descriptor, one that a command reads; a semaphore at 0 and one raised; the condition queue empty and not; a count
of completed commands at the value waited for and one short of it, across the wrap. -/
theorem witness_DescriptorSemaphoreWords :
    (eng0.Issues h0 [4] [(eng0.reg 4).extractLsb' 60 4] ∧ eng0.sdBusy 15 true = false ∧ sdRead0.sdBusy 3 true = true ∧ sdRead0.sdBusy 3 false = false ∧ sdRead0.sdBusy 4 true = false
      ∧ sdRead0.Issues h0 [4] [(sdRead0.reg 4).extractLsb' 60 4]) := by decide
def sem0 : State := eng0.mapEng (fun e => { e with sems := e.sems.set 31 1, condq := [7, 8] })
theorem witness_DescriptorSemaphoreWords_sem : eng0.tile.eng.sems[(31#5).toFin] = 0 ∧ sem0.tile.eng.sems[(31#5).toFin] ≠ 0 ∧ sem0.tile.eng.cmds = [] ∧ sem0.Issues h0 [5] [] ∧ eng0.tile.eng.condq = []
    ∧ sem0.tile.eng.condq = 7 :: [8] := by decide
theorem witness_DescriptorSemaphoreWords_seq : (eng0.mapEng (fun e => { e with seqV := 0xFFFFFFFF })).Issues h0 [6] [] ∧ ((0xFFFFFFFF#32) - (eng0.reg 6).extractLsb' 0 32).toNat < 2 ^ 31
    ∧ ¬ ((0xFFFFFFFF#32) - (eng0.reg 0).extractLsb' 0 32).toNat < 2 ^ 31 ∧ ¬ ((6#32) - (eng0.reg 5).extractLsb' 0 32).toNat < 2 ^ 31
    ∧ ((7#32) - (eng0.reg 5).extractLsb' 0 32).toNat < 2 ^ 31 := by decide
/-- A measured launch whose session names POL 9 of tenant 0 for it, and a SEALED-LOCAL capability c1 with descriptor 2 for it, and c3 untagged. -/
def seal0 : State :=
  let s := eng0.placeTable
  let s := s.updP (fun p => { p with launches := [{ handle := 1, rc := { meas := [1] }, place := [(0, 0)] }], sessions := [{ num := 1, tenant := 0, policies := [⟨0, 9, 0, true, [1], []⟩] }] })
  let s := (s.mapPar (fun q => { q with launch := 1 })).setCap 1 { typ := 5, perm := 0xFE0, base := 0x2000000, len := 0x1000, cursor := 0, pol := 9, tag := true }
  s.mapEng (fun e => { e with sds := (e.sds.set 2 { w := #v[0x1000000000000000, 0, 0, 0, 0, 0, 0, 0], sealed_ := true }).set 3 { w := #v[0x1000000000000000, 0, 0, 0, 0, 0, 0, 0] } })
def isOk {α : Type} : Try α → Bool
  | .ok _ => true
  | .error _ => false
/-- MatrixControlWords: without and with a ring; the last level and the first beyond; GO set; a swap that may go and one that may not; each outcome of
mkey; each selector. -/
theorem witness_MatrixControlWords : ({} : State).tile.eng.ringM.q = 0 ∧ ({} : State).Issues h0 [4] [(({} : State).sd 2).cap] ∧ eng0.tile.eng.ringM.q ≠ 0 ∧ (6#3).toNat ≥ 6 ∧ (5#3).toNat < 6
    ∧ (eng0.mapEng (fun e => { e with go := true })).tile.eng.go = true ∧ eng0.tile.eng.go = false ∧ eng0.goReady = true
    ∧ (let t := eng0.mapEng (fun e => { e with cmds := [{ eng := .m, idx := 0, words := 1, ts := 1, predTrue := true, rngs := [] }] })
       t.tile.eng.go = false ∧ t.goReady = false)
    ∧ eng0.sdBusy 2 true = false ∧ (eng0.cap (eng0.sd 2).cap).tag = false
    ∧ seal0.Issues h0 [4] [(seal0.sd 2).cap] ∧ seal0.sdBusy 2 true = false ∧ (seal0.cap (seal0.sd 2).cap).tag = true ∧ (seal0.cap (seal0.sd 2).cap).isSealed = true ∧ (seal0.sd 2).sealed_ = true
    ∧ (seal0.cap (seal0.sd 3).cap).tag = true ∧ (seal0.sd 3).sealed_ = false
    ∧ (((seal0.pkg.launch seal0.tile.handle).map (fun l => l.rc.measured)) = some true ∧ ((seal0.pkg.launch seal0.tile.handle).bind (fun l => seal0.pkg.policy (seal0.cap 1) l.rc.meas)).isSome = true
      ∧ isOk (seal0.sealHdr (seal0.cap 1)) = true)
    ∧ (let t := seal0.updP (fun p => { p with sessions := [] })
       ((t.pkg.launch t.tile.handle).bind (fun l => t.pkg.policy (t.cap 1) l.rc.meas)) = none ∧ (t.cap 1).isSealed = true) := by decide
/-- TakingAFault: deliverable, without a vector, nested, fatal, and an abort outside a task. -/
theorem witness_TakingAFault :
    (FaultCode.misaligned.kind = .trap ∧ (0x8004#64) &&& ~~~7 ≠ 0 ∧ (({} : State).tile.sys.kstat.getLsbD 6 = false)) ∧ (4#64) &&& ~~~7 = 0 ∧ (0x40#64).getLsbD 6 = true
    ∧ (FaultCode.capTag.kind = .trap ∨ FaultCode.capTag.kind ≠ .abort) ∧ FaultCode.memUncorrectable.kind ≠ .trap ∧ FaultCode.memUncorrectable.kind ≠ .abort
    ∧ FaultCode.leaseLost.kind = .abort ∧ ({} : State).tile.par.kind = .single := by decide
/-- A tile whose handler is at 0x8000. -/
def kern0 : State := (regs [(4, 0x40000)]).mapSys (fun y => { y with kvec := 0x8000 })
def kernK (s : State) : State := s.mapCore (fun c => { c with level := .k })
/-- TrapWords: an unknown code, a known one, delivered and not; tret nested at level F, at a misaligned address, and good. -/
theorem witness_TrapWords : kern0.Issues h0 [4] [] ∧ trapCodeOf 0xFF = none ∧ trapCodeOf 0x01 = some .illegalOpcode ∧ (kern0.tile.sys.kvec &&& ~~~7 ≠ 0 ∧ kern0.tile.sys.kstat.getLsbD 6 = false)
    ∧ ¬ (({} : State).tile.sys.kvec &&& ~~~7 ≠ 0) ∧ (0x40#64).getLsbD 6 = true ∧ (kernK kern0).tile.core.level ≠ .u ∧ (2#64).getLsbD 1 = true
    ∧ (kernK kern0).tile.sys.kstat.getLsbD 1 = false ∧ (0x8004#64).toNat % 8 ≠ 0 ∧ (kernK kern0).tile.sys.kpc.toNat % 8 = 0 := by decide
/-- KernelWords: level U; tlbsync with nothing left and with an entry in SQ; an area that is misaligned, that passes the boundary, the last that fits, one
whose engines have settled, with a record of another form and a good one; idle with and without a reason to end. -/
theorem witness_KernelWords : kern0.tile.ord.nasWait = none ∧ (Instr.idle h0).hdr = some h0 ∧ (Instr.idle h0).needsK = true ∧ kern0.tile.core.level = .u
    ∧ (let s := kernK kern0
       s.tile.ord.nasWait = none ∧ s.tile.core.level ≠ .u ∧ s.Issues h0 [31, 4] [] ∧ s.tlbiDone = true ∧ (s.tile.ord.sq = [] ∧ s.tile.ord.tlbiQ = [] ∧ s.tile.ord.tlbiX = [] ∧ s.tile.ord.tlbiPod = [])
       ∧ (s.pushSq (.tlbi 2 0 0 false)).tlbiDone = false ∧ (regs [(4, 0x40001)]).reg 4 = 0x40001 ∧ (0x40001#64).toNat % 0x40000 ≠ 0
       ∧ (0x3FFFCC0000#64).toNat % 0x40000 = 0 ∧ (0x3FFFCC0000#64).toNat + 0x370000 > s.pkg.bound ∧ (0x3FFFC80000#64).toNat % 0x40000 = 0 ∧ (0x3FFFC80000#64).toNat + 0x370000 ≤ s.pkg.bound
       ∧ (s.tile.eng.settled = true ∧ s.coreQuiet = true) ∧ ((s.pushSq (.sem 1)).tile.eng.settled && (s.pushSq (.sem 1)).coreQuiet) = false
       ∧ (let bs := s.holdStreams.releaseAll.pkg.homeN (s.reg 4).toNat 0x118
          (dword bs 0).extractLsb' 0 16 ≠ 1)
       ∧ (s.tile.disp.msg = none ∧ s.tile.disp.preempt = .none ∧ s.tile.sys.dbgctl.getLsbD 0 = false)
       ∧ (s.mapDisp (fun d => { d with msg := some 5 })).tile.disp.msg.isSome) := by decide
/-- The area that a fresh tile saved at 0x40000 loads again. -/
def area0 : State := (kernK kern0).holdStreams.releaseAll.updP (fun p => { p with mem := [(0x40000, 1), (0x40002, 1)] })
theorem witness_KernelWords_load :
    (let bs := area0.pkg.homeN 0x40000 0x118
     ¬ ((dword bs 0).extractLsb' 0 16 ≠ 1 ∨ ((dword bs 0).extractLsb' 16 8).toNat > 1 ∨ ((dword bs 0).extractLsb' 24 4).toNat ≠ area0.tile.par.tile.toNat
        ∨ ((dword bs 0).extractLsb' 28 4).toNat ≠ area0.tile.par.clus.toNat)) := by decide
set_option maxRecDepth 100000 in
theorem witness_KernelWords_load2 : isOk (area0.loadArea 0x40000 1 (area0.areaRanges 0x40000 1)) = true := by decide

/-! Engines -/

def rg (base : BitVec 25) (count : BitVec 16) : Region := ⟨base, 1, count, false, false, 0, 0⟩
def vc (typ : BitVec 6) (ops : BitVec 32) (regs : List Region) : VCmd := ⟨0x3F, 0x3F, 0, typ, ops, regs⟩
/-- The state and the command meet VReady. -/
def vr (s : State) (sp : VSpec) (c : VCmd) : Bool := decide (s.VReady sp c)
/-- VectorArithmeticAndBits: an integer and a binary32 command of each shape, the last lane-window bytes, a shift by register and by OPS. -/
theorem witness_VectorArithmeticAndBits : vr eng0 specSum (vc 3 0x10000000 [rg 0x1F0000 64, rg 0x40 64, rg 0x80 1]) = true ∧ (vc 3 0 []).ty = .int 16 false
    ∧ vr eng0 specMinMax (vc 10 0 [rg 0 1, rg 0x40 1, rg 0x80 1]) = true ∧ (vc 10 0 []).ty = .flt fmt32
    ∧ vr eng0 specDiv (vc 11 0 [rg 0 1, rg 0x40 1, rg 0x80 1]) = true ∧ vr eng0 specFma (vc 10 0x60000000 [rg 0 1, rg 0x40 1, rg 0x80 1]) = true ∧ vr eng0 specSqrt (vc 10 0 [rg 0 1, rg 0x40 1]) = true
    ∧ vr eng0 specRsq (vc 10 0 [rg 0 1, rg 0x40 1]) = true ∧ vr eng0 specBit2 (vc 0 0 [rg 0 1, rg 0x40 1, rg 0x80 1]) = true ∧ vr eng0 specBit1 (vc 7 0 [rg 0 1, rg 0x40 1]) = true
    ∧ vr eng0 specShift (vc 4 0 [rg 0 1, rg 0x40 1, rg 0x80 1]) = true ∧ vr eng0 specShift (vc 4 0x8000001F [rg 0 1, rg 0x40 1]) = true := by decide
/-- VectorOtherCommands: one command of each entry; a push that fits a condition queue of 3 words; streams with room and without; each kind of v.fill
and v.mov. -/
theorem witness_VectorOtherCommands : vr eng0 specCvt (vc 10 9 [rg 0 1, rg 0x40 1]) = true ∧ vr eng0 specQblk (vc 0x1E 0xA [rg 0 32, rg 0x40 1, rg 0x80 32]) = true
    ∧ vr eng0 specDq (vc 10 0x1E [rg 0 32, rg 0x100 32, rg 0x140 1]) = true ∧ (vc 10 0 []).ty = .flt fmt32 ∧ vr eng0 specTolog (vc 12 0 [rg 0 1, rg 0x40 1]) = true ∧ vr eng0 specFromlog (vc 10 0 [rg 0 1, rg 0x40 1]) = true
    ∧ vr eng0 specLog2 (vc 12 0 [rg 0 1, rg 0x40 1, rg 0x80 1]) = true ∧ vr eng0 specLpow (vc 12 0 [rg 0 1, rg 0x40 1, rg 0x80 1]) = true ∧ vr eng0 specLog1 (vc 12 0 [rg 0 1, rg 0x40 1]) = true
    ∧ vr eng0 specAct (vc 10 7 [rg 0 1, rg 0x40 1]) = true ∧ vr eng0 specRed (vc 10 0 [rg 0 1, rg 0x40 64]) = true ∧ vr eng0 specScan (vc 4 0x204 [rg 0 4, rg 0x40 4]) = true := by decide
theorem witness_VectorOtherCommands_cond : let t := eng0.mapEng (fun e => { e with condq := [1, 2, 3] })
    vr t specCmp (vc 4 0x10000000 [rg 0 1, rg 0x40 1]) = true ∧ (0x10000000#32).getLsbD 28 = true ∧ t.tile.eng.condq.length + 1 ≤ 4 ∧ vr eng0 specCmp (vc 4 0 [rg 0 1, rg 0x40 64, rg 0x80 1]) = true ∧ (0#32).getLsbD 28 = false
    ∧ vr eng0 specSel (vc 4 0 [rg 0 1, rg 0x40 1, rg 0x80 1]) = true ∧ vr eng0 specFill (vc 4 0 [rg 0 1]) = true ∧ vr eng0 specFill (vc 7 0xFFFFFFFF [rg 0 1]) = true ∧ (vc 7 0 []).tcode = 7
    ∧ vr eng0 specFill (vc 11 0 [rg 0 1]) = true ∧ (vc 11 0 []).tcode = 0xB ∧ (vc 4 0 []).tcode = 4 ∧ vr eng0 specIdx (vc 4 0 [rg 0 1]) = true ∧ vr eng0 specPerm (vc 4 0 [rg 0 2, rg 0x40 1, rg 0x80 2]) = true := by decide
theorem witness_VectorOtherCommands_streams : vr eng0 specMov (vc 10 0 [rg 0 1, rg 0x40 1]) = true ∧ vr eng0 specMov (vc 0x11 0 [rg 0 2, rg 0x40 2]) = true ∧ vr eng0 specMov (vc 4 0 [rg 0 1, rg 0x40 1]) = true
    ∧ vr eng0 specSpush (vc 4 0 [rg 0 1, rg 0x40 1, rg 0x80 1]) = true ∧ (eng0.tile.sys.sqin[(0 : Fin 4)] - eng0.tile.sys.sqout[(0 : Fin 4)]).toNat + 1 ≤ 1
    ∧ (let t := eng0.mapSys (fun y => { y with sqin := y.sqin.set 0 1 })
       vr t specSpush (vc 4 4 [rg 0 1, rg 0x40 1, rg 0x80 1]) = true ∧ (t.tile.sys.sqin[(0 : Fin 4)] - t.tile.sys.sqout[(0 : Fin 4)]).toNat + 1 > 1
       ∧ ((List.range (specSpush.n (vc 4 4 [rg 0 1, rg 0x40 1, rg 0x80 1]))).filter (fun i => t.vBit specSpush (vc 4 4 [rg 0 1, rg 0x40 1, rg 0x80 1]) i != true)).length = 1
       ∧ vr t specSpop (vc 4 0 [rg 0 1, rg 0x40 1]) = true ∧ 1 ≤ (t.tile.sys.sqin[(0 : Fin 4)] - t.tile.sys.sqout[(0 : Fin 4)]).toNat)
    ∧ vr eng0 specSpop (vc 4 8 [rg 0 1, rg 0x40 1]) = true ∧ vr eng0 specSpop (vc 4 0 [rg 0 1, rg 0x40 1]) = true ∧ (eng0.tile.sys.sqin[(0 : Fin 4)] - eng0.tile.sys.sqout[(0 : Fin 4)]).toNat < 1
    ∧ vr eng0 specEst (vc 10 0 [rg 0 1]) = true ∧ vr eng0 specRnd (vc 2 0 [rg 0 1]) = true := by decide

/-- A command of an engine that has the operation `run` and needs nothing. -/
def op0 : EngOp := { semw := 0x3F, semr := 0x3F, pred := 0, words := 1, run := fun s _ => .done s }
/-- EngineCommandStart: the last semaphore, the first number beyond, and none; a semaphore at 0; a predicate that is false and one that is true, blocked by
an earlier command and not; a command that has not begun whose operand buffer is EMPTY. -/
theorem witness_EngineCommandStart : badSem 0x20 = true ∧ badSem 0x1F = false ∧ badSem 0x3F = false ∧ badSem 0x3E = true ∧ op0.bad = none ∧ (eng0.cmdAt .v (eng0.tile.eng.ring .v).rp 0).waited = false
    ∧ eng0.semFree 0x1F (some .v) 0 = false ∧ eng0.tile.eng.sems[(0x1F#6).toNat % 32] = 0
    ∧ (eng0.cmdAt .v (eng0.tile.eng.ring .v).rp 1).predTrue = false ∧ (eng0.cmdAt .v (eng0.tile.eng.ring .v).rp 0).predTrue = true
    ∧ (let c := eng0.cmdAt .v (eng0.tile.eng.ring .v).rp 0
       c.caps = none ∧ c.began = false ∧ (eng0.keepCmd { c with waited := true }).cmdBlocked { c with waited := true } = false ∧ (eng0.keepCmd { c with waited := true }).queueBlocks c.rngs = false
       ∧ (eng0.keepCmd { c with waited := true }).unmarked c.rngs = false)
    ∧ (let k (i : W32) (t : Nat) : Cmd := { eng := .v, idx := i, words := 1, ts := t, predTrue := true, rngs := [⟨0x100, 0x108, true⟩] }
       let t := eng0.mapEng (fun e => { e with cmds := [k 6 1, k 0xFFFFFFF8 2] })
       let c := t.cmdAt .v (t.tile.eng.ring .v).rp 0
       c.predTrue = true ∧ (t.keepCmd { c with waited := true }).cmdBlocked { c with waited := true } = true) := by decide
theorem witness_EngineCommandStart_buffers : let t := eng0.updT (fun t => { t with bufs := t.bufs.set 63 { v := true, len := 1, base := 4 } })
    t.tile.bufStartFault (fun _ => true) (bufUses t.tile.decls [⟨0x13F, 0x140, false⟩]) = some 63 ∧ t.tile.bufStartFault (fun _ => true) (bufUses t.tile.decls [⟨0x140, 0x141, false⟩]) = none := by decide
theorem witness_EngineCommandStart_decode : (vSpecOf (.vFill (vc 4 0 [rg 0 0]))).isSome = true ∧ specFill.bad (vc 4 0 [rg 0 0]) = some { code := .regionCount }
    ∧ specFill.bad (vc 4 0 [rg 0x42FFC0 32]) = none ∧ eng0.EngineReady 0x3F 0x1F 0 ∧ eng0.vBounds specFill (vc 4 0 [rg 0x42FFC0 32]) = some { code := .capBounds, eval := some 0x430000 }
    ∧ eng0.tile.MemForm ∧ (rg 0x1FFFC0 16).firstByte 32 15 = 0x1FFFFC ∧ ((rg 0x1FFFC0 16).place 32 15).1 + ((rg 0x1FFFC0 16).place 32 15).2 ≤ clusterBase := by decide
def mc (g : Bool) (acc : BitVec 7) : MCmd := ⟨0x3F, 0x3F, 0, 0, 0, g, false, acc, false, false, false, 0, false, 0, 0⟩
/-- MatrixCommands: acc.zero with and without G; the last block and the first beyond; a product at both saturation bounds. -/
theorem witness_MatrixCommands : eng0.EngineReady 0x3F 0x3F 0 ∧ eng0.mBad .zero (mc true 95) = none ∧ (mc true 95).g = true ∧ eng0.tile.eng.go = false ∧ (mc false 96).g = false := by decide
theorem witness_MatrixCommands_blocks : let m (a : BitVec 7) : MStep := ⟨.zero, mc false a, [], [], 0⟩
    0 ≤ (m 95).blk [] ∧ (m 95).blk [] ≤ 95 ∧ 95 < (m 96).blk [] := by decide
theorem witness_MatrixCommands_int : mmaInt (some 0x7FFFFFFF) [FVal.ofInt 1] [FVal.ofInt 1] = (0x7FFFFFFF, true) ∧ mmaInt (some 0x80000000) [FVal.ofInt (-1)] [FVal.ofInt 1] = (0x80000000, true) := by decide

/-- Transfers: mem0 with its three rings. -/
def x0 : State := mem0.mapEng (fun _ => eng0.tile.eng)
def xc (scap : CReg) (soff : BitVec 40) (dcap : CReg) (doff : BitVec 40) (len16 : BitVec 16) : XCmd := ⟨0x3F, 0x3F, 0, scap, soff, dcap, doff, len16, 0, 0, 0⟩
def words8 (a : W64) (n : Nat) : List W64 := (List.range n).map (fun i => a + BitVec.ofNat 64 (8 * i))
/-- TransferMoves: a copy from the scratchpad to memory; a count of 0; a bad source; a good source with a bad destination; index lists that end at the last
dword of the scratchpad. -/
theorem witness_TransferMoves : x0.EngineReady 0x3F 0x3F 0 ∧ (xc 1 0 2 0 0).len16.toNat = 0
    ∧ x0.sideFault ⟨x0.cap 1, words8 0x1FFFF8 1, false⟩ 8 = none ∧ x0.sideFault ⟨x0.cap 2, words8 0x2000000 1, true⟩ 8 = none
    ∧ isOk ((x0.begun .x).engLocates (x0.cap 1) 8 false false (words8 0x1FFFF8 1)) = true ∧ isOk ((x0.begun .x).engLocates (x0.cap 2) 8 true false (words8 0x2000000 1)) = true
    ∧ (x0.sideFault ⟨x0.cap 1, words8 0x200000 1, false⟩ 8).isSome = true ∧ (x0.sideFault ⟨x0.cap 9, words8 0 1, true⟩ 8).isSome = true
    ∧ (0x7FFF#15).toNat * 64 + 4 * 16 ≤ 0x200000 ∧ x0.tile.near.ecc = [] ∧ x0.tile.MemForm ∧ 0x1FFFF8 + 8 * 1 ≤ clusterBase := by decide
/-- SendFenceWait: each reserved field; a LOCAL source; a send to the tile itself and to another tile; a fence that waits; a word waited for that has come
and one that has not. -/
def pair0 : State := (x0.mapPar (fun q => { q with ntile := 2, nclus := 1 })).updP (fun p => { p with tiles := [{ phys := 1, par := { launch := 1 } }], launches := [{ handle := 1, place := [(0, 0), (1, 1)], begun := [0, 1] }] })
theorem witness_SendFenceWait : pair0.EngineReady 0x3F 0x1F 0 ∧ pair0.tile.par.kind = .single ∧ (0x80000000#40).getLsbD 31 = true ∧ badSem ((0x40000000#40).extractLsb' 25 6) = true ∧ badSem ((0x7E000000#40).extractLsb' 25 6) = false
    ∧ ((pair0.cap 2).tag = true ∧ (pair0.cap 2).typ ≠ 1 ∧ (pair0.cap 2).typ ≠ 4 ∧ (pair0.cap 2).typ ≠ 5) ∧ (pair0.cap 1).typ = 1
    ∧ pair0.sideFault ⟨pair0.cap 1, words8 0x1FFFF8 1, false⟩ 8 = none ∧ pair0.sendFault (xc 1 0x1FFFF8 1 0x1EFFB8 1) = none ∧ pair0.sendFault (xc 1 0x1FFFF8 1 0x1EFFB8 2) ≠ none
    ∧ pair0.sendTarget (xc 1 0 1 0 1) = some 1 ∧ (pair0.tileAt 1).isSome = true ∧ pair0.sliceBegun 1 = true ∧ pair0.sendTarget (xc 1 0 0 0 1) = some 0
    ∧ isOk ((pair0.begun .x).engLocates (pair0.cap 1) 8 false false (words8 0x1FFFF8 1)) = true
    ∧ pair0.sideFault ⟨pair0.cap 1, [0x100], false⟩ 4 = none ∧ ((0 : BitVec 32) - (0x80000001#32)).toNat < 2 ^ 31 ∧ ¬ ((0 : BitVec 32) - (0x80000000#32)).toNat < 2 ^ 31 := by decide
theorem witness_SendFenceWait_tile : match pair0.tileAt 1 with
    | some r => (∀ b ∈ r.bufs.toList, b.v = false) ∧ r.eng.cmds = [] ∧ r.ringFault 0x1EFFB8 0x1EFFC0 = none ∧ r.eng.sems[(0x1F#6).toNat % 32] ≠ 0xFFFF
    | none => False := by
  show _ ∧ _ ∧ _ ∧ _
  decide
theorem witness_SendFenceWait_fence : let k : Cmd := { eng := .x, idx := 8, words := 1, ts := 5, predTrue := true, rngs := [], waited := true, pos := 3 }
    let d : Cmd := { eng := .v, idx := 0, words := 1, ts := 4, predTrue := true, rngs := [] }
    let s := (x0.mapEng (fun e => { e with cmds := [d] ++ [k] })).mapOrd (fun o => { o with sq := [⟨2, 0, .store (.pkgMem 0 true) [1] none 0⟩] })
    k.idx = s.tile.eng.ringX.rp ∧ (∀ c ∈ [d], c.eng = .x → c.idx ≠ k.idx ∧ c.started = false) ∧ s.coreOpen k.pos = true ∧ d.performed = false ∧ d.ts < k.ts := by decide

/-- Pool and peers: x0 with a CACHED object 6 whose page 0 is resident under a write lease (c5), a DIRECT object 5 (c4), and a peer window (c6) on package 1,
whose pod table maps its first 8 GiB. -/
def pool0 : State :=
  let s := x0.updP (fun p => { p with
    dir := p.dir ++ [{ index := 1, valid := true, direct := false, ldur := 1000, node := 0, objid := 6 }],
    optics := { ports := [{ state := 2, dest := [(1, 1024), (2, 1)], lit := [(1, 1), (2, 2)] }] },
    frames := [{ obj := 6, page := 0, pa := 0x40000000, write := true, grant := 0, ldur := 1000, token := 0, forTask := false }] })
  let s := { s with pool := [{ id := 6, leases := [⟨0, 0, true, 0, 0, 1000⟩] }, { id := 5, direct := true }],
                    peers := [{ num := 1, podRoots := [(0, 0x10000)], mem := (leBytes 8 identityLeaf.toNat).mapIdx (fun i b => (0x10000 + i, b)) |>.filter (fun c => c.2 != 0) }] }
  (s.setCap 5 { typ := 3, perm := 0xFE0, base := 6, len := 0x40000, cursor := 0, tag := true }).setCap 6
    { typ := 6, perm := 0xFE0, base := 0, len := 0x10000, cursor := 0, pol := 1, tag := true }
def isGranted : PageRes → Bool
  | .ok _ => true
  | _ => false
/-- PoolCommands: an object read to its last byte, one byte more; a write of its last line; an atomic of a DIRECT word; a page acquired, renewed and given up. -/
theorem witness_PoolCommands : pool0.EngineReady 0x3F 0x3F 0 ∧ pool0.poolSide (pool0.cap 5) 0x3FFC0 64 0x800 64 false = none ∧ (pool0.poolSide (pool0.cap 5) 0x3FFC0 128 0x800 64 false).isSome = true
    ∧ ((pool0.pkg.object 5).any (·.direct) && (8 : Nat) == 8) = true ∧ pool0.poolSide (pool0.cap 4) 0x3FFF8 8 0x800 8 true = none
    ∧ pool0.plainSide ⟨pool0.cap 1, words8 0x1000 8, true⟩ = none ∧ pool0.lostPage 6 0x3FFC0 64 = none ∧ pool0.objBad 6 0x3FFC0 64 false = none ∧ pool0.objBad 6 0x3FFC0 64 true = none ∧ (∀ g ∈ pagesOf 0x3FFC0 64, (pool0.pkg.frameOf 6 g).isSome)
    ∧ isOk ((pool0.begun .x).engLocates (pool0.cap 1) 8 true false (words8 0x1000 8)) = true
    ∧ pool0.plainSide ⟨pool0.cap 1, words8 0x1000 8, false⟩ = none ∧ pool0.poolSide (pool0.cap 5) 0x3FFC0 64 0x400 64 false = none
    ∧ isOk ((pool0.begun .x).engLocates (pool0.cap 1) 8 false false (words8 0x1000 8)) = true := by decide
set_option maxRecDepth 100000 in
theorem witness_PoolCommands_frame : ∀ g ∈ pagesOf 0x3FFC0 64, ∃ l, pool0.pkg.frameLoc 6 (firstOff 0x3FFC0 g) true = .ok l := by
  have h : pagesOf 0x3FFC0 64 = [0] := by decide
  rw [h]
  intro g hg
  rw [List.mem_singleton.mp hg]
  exact ⟨_, rfl⟩
theorem witness_PoolCommands_pages : pool0.sideFault ⟨pool0.cap 1, words8 0x1FFFF0 2, false⟩ 8 = none ∧ pool0.sideFault ⟨pool0.cap 1, words8 0x1FFFF0 2, true⟩ 8 = none
    ∧ pool0.poolSide (pool0.cap 4) 0x3FFF8 8 0xD00 8 true = none ∧ pool0.tile.par.kind = .single
    ∧ pool0.poolSide (pool0.cap 5) 0 (1 * 0x40000) 0x800 0x40000 false = none ∧ pool0.poolSide (pool0.cap 5) 0 (1 * 0x40000) 0x400 0x40000 false = none
    ∧ isGranted ((pool0.begun .x).acquirePages 6 false 0 (pool0.startedX 2 0x3F) [(0, 0)]) = true ∧ isGranted ((pool0.begun .x).acquirePages 6 true 0 (pool0.startedX 2 0x3F) [(0, 0)]) = true
    ∧ ((pool0.begun .x).renewPages 6 [0]).2 = none ∧ ((pool0.begun .x).releasePages 6 [0]).2 = true ∧ pool0.channelBusy 6 = false ∧ pool0.pkg.member = true := by decide
/-- An object whose FENCE is above the token refuses. -/
theorem witness_PoolCommands_fenced : (match (({ pool0 with pool := [{ id := 6, fence := 9 }] } : State).begun .x).acquirePages 6 true 0 (pool0.startedX 2 0x3F) [(0, 0)] with
    | .refused _ => true
    | _ => false) = true := by decide
def peerc (scap : CReg) (dcap : CReg) (len : BitVec 40) (key : W64) (fl : BitVec 24) : XCmd := ⟨0x3F, 0x3F, 0, scap, 0, dcap, 0, 0, key, len, fl⟩
/-- PeerCommands: copies to and from a peer that answers, one that does not exist; a remote store; a collective of one party that joins, and one whose
parties have joined; circuits; x.sfence with nothing out and with a write out. -/
theorem witness_PeerCommands_copy : pool0.EngineReady 0x3F 0x3F 0 ∧ pool0.tile.par.kind = .single ∧ (pool0.cap 1).typ ≠ 6 ∧ pool0.plainSide ⟨pool0.cap 1, words8 0 1, false⟩ = none
    ∧ pool0.peerSide ⟨pool0.cap 6, words8 0xFFF8 1, true⟩ = none ∧ pool0.peerOf (pool0.cap 6) = 1 ∧ pool0.reach 1 = .yes ∧ pool0.reach 1023 = .no
    ∧ isOk ((pool0.begun .x).engLocates (pool0.cap 1) 8 false false (words8 0 1)) = true ∧ isOk ((pool0.begun .x).peerLocates 1 0 true (words8 0xFFF8 1)) = true
    ∧ (pool0.cap 6).typ = 6 ∧ pool0.peerSide ⟨pool0.cap 6, words8 0xFFF8 1, false⟩ = none ∧ pool0.plainSide ⟨pool0.cap 1, words8 0 1, true⟩ = none ∧ pool0.peerBusy 1 = false
    ∧ isOk ((pool0.begun .x).peerLocates 1 0 false (words8 0xFFF8 1)) = true ∧ isOk ((pool0.begun .x).engLocates (pool0.cap 1) 8 true false (words8 0 1)) = true
    ∧ (pool0.cap 1).tag = true ∧ (pool0.cap 1).typ = 1 ∧ pool0.sideFault ⟨pool0.cap 1, [0x1FFFF8], false⟩ 8 = none := by decide
def party0 : Coll := { group := 7, count := 0, phys := 0, idx := 8, op := 0, typ := 4, len := 8, first := 0, n := 1, src := List.replicate 8 1, started := 0, faulted := false }
theorem witness_PeerCommands_coll : let c := peerc 1 1 8 0x0007000000000000 0x10
    let t := pool0.updP (fun p => { p with colls := [party0] })
    c.key.extractLsb' 0 28 = 0 ∧ c.flags.extractLsb' 8 16 = 0 ∧ pool0.collRank c < collN c ∧ [4, 9, 0xA, 0xB].contains (plainType (c.flags.extractLsb' 2 6).toNat) = true
    ∧ pool0.plainSide ⟨pool0.cap 1, words8 0 1, false⟩ = none ∧ pool0.plainSide ⟨pool0.cap 1, words8 0 1, true⟩ = none ∧ (∀ p ∈ [0], pool0.reach p ≠ .no) ∧ (∀ p ∈ [0], t.reach p = .yes)
    ∧ (pool0.pkg.colls.find? (fun y => y.phys == pool0.tile.phys && y.idx == 8 && !y.finished)) = none ∧ pool0.tile.eng.ringX.rp = 8
    ∧ (t.pkg.colls.find? (fun y => y.phys == t.tile.phys && y.idx == 8 && !y.finished)) = some party0 ∧ party0.faulted = false
    ∧ ([0].filterMap (fun p => t.collOf p 7 0)).length = [0].length ∧ (∀ w ∈ [0].filterMap (fun p => t.collOf p 7 0), w.op = party0.op ∧ w.typ = party0.typ ∧ w.len = party0.len ∧ w.faulted = false) := by decide
theorem witness_PeerCommands_circ : let id := pool0.tile.eng.ts * 256 + pool0.tile.phys
    let r (g : Bool) : Resv := { id := id, launch := 1, port := 32, dest := 1, slots := 8, granted := g, since := 0 }
    (1#64).toNat < 2 ^ 11 ∧ (1#24).toNat < 2 ∧ (8#16).toNat ≤ 8 ∧ pool0.pkg.optics.resvs.find? (fun r => r.id == id) = none ∧ ([r true].find? (fun r => r.id == id)) = some (r true)
    ∧ (∀ m ∈ pool0.pkg.peerCh, m.src ≠ pool0.tile.phys) ∧ (∀ m ∈ pool0.pkg.poolCh, m.src = pool0.tile.phys → m.eng = none)
    ∧ (let t := pool0.updP (fun p => { p with peerCh := [{ src := 0, target := 1, addr := 0, tenant := 0, bytes := [1], eng := 8 }] })
       (∀ m ∈ t.pkg.peerCh, m.src = t.tile.phys → t.reach m.target ≠ .no) ∧ ∃ m ∈ t.pkg.peerCh, m.src = t.tile.phys) := by decide
/-- EngineEvents: a running tile; a stream that stopped and one that did not; a performed command with a semaphore at its bound, below it, and none; the
last sub-array. -/
theorem witness_EngineEvents : ({ eng0 with tile := { eng0.tile with disp := { run := .running } } } : State).tile.disp.run = .running ∧ eng0.tile.eng.stop .v = none
    ∧ (eng0.mapEng (fun e => { e with stopX := some 8 })).tile.eng.stop .x ≠ none
    ∧ eng0.tile.MemForm ∧ ((31#6) != 0x3F) = true ∧ (31#6).toNat < 32 ∧ ((0x3F#6) != 0x3F) = false ∧ 3 < 4 ∧ eng0.tile.sys.midle ≠ 0 ∧ (eng0.mapSys (fun y => { y with midle := 0 })).tile.sys.midle = 0 := by decide
theorem witness_EngineEvents_complete : let c : Cmd := { eng := .v, idx := 0, words := 1, ts := 0, predTrue := true, rngs := [], performed := true, semr := 31 }
    let s := ({ eng0 with arg := { eng := .v, idx := 0 } } : State).mapEng (fun e => { e with cmds := [c] })
    s.tile.eng.cmds = [c] ∧ s.arg.eng = c.eng ∧ s.arg.idx = c.idx ∧ c.performed = true ∧ c.done = false ∧ c.move = none ∧ c.rsem = none ∧ c.rbufs = [] ∧ c.prod = [] ∧ c.cons = [] ∧ c.sds = []
      ∧ s.tile.MemForm := by decide
theorem witness_EngineEvents_bound : let n : Fin 32 := ⟨(31#6).toNat % 32, Nat.mod_lt _ (by decide)⟩
    eng0.tile.eng.sems[n] ≠ 0xFFFF ∧ (eng0.mapEng (fun e => { e with sems := e.sems.set 31 0xFFFF })).tile.eng.sems[n] = 0xFFFF := by decide

/-! The ordering machine -/

def lq (ops : List QOp) : State := { tile := { ord := { lq := ops.mapIdx (fun i o => ⟨i, 0, o⟩), seq := 9 } } }
def sq (ops : List QOp) : State := { tile := { ord := { sq := ops.mapIdx (fun i o => ⟨i, 0, o⟩), seq := 9 } } }
/-- LoadsAndStoresPerform: a load that an earlier store covers, covers in part, and does not meet; each place; a store with and without an earlier load. -/
theorem witness_LoadsAndStoresPerform_load :
    (let s (b n : Nat) : State := { tile := { ord := { lq := [⟨2, 0, .load (.pkgMem 0x100 true) 8 false 3⟩], sq := [⟨1, 0, .store (.pkgMem b true) (List.replicate n 7) none 0⟩] } } }
     (match (s 0x100 8).forwarded (.pkgMem 0x100 true) 8 2 with | .all _ _ => true | _ => false) = true ∧ (match (s 0x107 1).forwarded (.pkgMem 0x100 true) 8 2 with | .part => true | _ => false) = true
       ∧ (match (s 0x108 8).forwarded (.pkgMem 0x100 true) 8 2 with | .none => true | _ => false) = true)
    ∧ (∀ l ∈ [Loc.pkgMem 0x100 true, .pkgMem 0x100 false, .cluster 17 8, .direct 5 8, .regs 0x410048, .regs 0x410044], (lq [.load l 8 true 31]).tile.ord.lq = ⟨0, 0, .load l 8 true 31⟩ :: []
        ∧ (match (lq [.load l 8 true 31]).forwarded l 8 0 with | .none => true | _ => false) = true)
    ∧ (lq []).pkg.host = [] ∧ (lq []).tile.task.held = [] ∧ 8 ∈ [1, 2, 4, 8] := by decide
theorem witness_LoadsAndStoresPerform_store : (lq [.load (.cluster 0 8) 8 true 31]).loadsOpen 1 = true ∧ (sq [.store (.pkgMem 0x138 true) [1, 2, 3, 4, 5, 6, 7, 8] none 5]).loadsOpen 0 = false
    ∧ (∀ i < 8, (0x138 + i) / 64 = 0x138 / 64) ∧ Memory.wf ({} : State).pkg.mem = true ∧ (sq [.sem 31]).tile.ord.sq = ⟨0, 0, .sem 31⟩ :: [] ∧ 0x2FF0000 / 0x10000 = 0x200 + 255 ∧ (sq [.sem 31]).tile.eng.sems[(31#5).toFin] ≠ 0xFFFF
    ∧ ((sq [.sem 31]).mapEng (fun e => { e with sems := e.sems.set 31 0xFFFF })).tile.eng.sems[(31#5).toFin] = 0xFFFF := by decide
theorem witness_LoadsAndStoresPerform_channel : let c (op : QOp) : ChanEntry := ⟨0, 0, 0, ⟨0, 0, op⟩⟩
    let s (op : QOp) : State := { pkg := { chans := [c op] } }
    (s (.sem 1)).pkg.chans = c (.sem 1) :: [] ∧ (c (.sem 1)).src = (s (.sem 1)).tile.phys ∧ (c (.sem 1)).slice = (s (.sem 1)).arg.slice ∧ ((s (.sem 1)).tileAt 0).isSome = true
      ∧ (c (.store (.cluster 0 8) [1] (some true) 0)).e.op = .store (.cluster 0 8) [1] (some true) 0 ∧ (c (.load (.cluster 0 8) 8 true 31)).e.op = .load (.cluster 0 8) 8 true 31 := by decide
/-- MarkersCachesWaits: a fence, an acquire and a release alone; a cross-path marker with and without an earlier command that has not performed; a
dirty line, the last of HBM; an address without a line; a monitor that has timed out and one that has not. -/
def held1 (op : QOp) : State := { tile := { ord := { lq := [⟨0, 0, op⟩], sq := [⟨0, 0, op⟩] } } }
def dirty0 : State := { tile := { ord := { l1 := [{ line := 0xFFFFFFFF, st := .m, dirty := [(0x3FFFFFFFFF, 7)], tok := 5 }], mon := some { loc := .pkgMem 0x3FFFFFFFC0 true, woken := false, read := true, matched := true, since := 0, old := 0 } } },
                         arg := { line := 0xFFFFFFFF } }
theorem witness_MarkersCachesWaits : ((2 : BitVec 2) ≠ 3 ∧ (∀ c ∈ ({} : State).pkg.chans, c.src ≠ ({} : State).tile.phys) ∧ (∀ m ∈ ({} : State).pkg.poolCh, m.src ≠ ({} : State).tile.phys))
    ∧ (held1 (.marker .fence 2)).tile.ord.lq = [⟨0, 0, .marker .fence 2⟩] ∧ (lq [.marker .acq 0]).tile.ord.lq = [⟨0, 0, .marker .acq 0⟩] ∧ (lq [.marker .acq 0]).tile.ord.sq = [] ∧ (sq [.marker .rel 1]).tile.ord.sq = [⟨0, 0, .marker .rel 1⟩]
    ∧ (∀ c ∈ (held1 (.xmark .v 3)).tile.eng.cmds, c.eng = .v → c.ts < 3 → c.performed = true)
    ∧ (∃ c ∈ ((held1 (.xmark .v 3)).mapEng (fun e => { e with cmds := [{ eng := .v, idx := 0, words := 1, ts := 2, predTrue := true, rngs := [] }] })).tile.eng.cmds, c.eng = .v ∧ c.ts < 3 ∧ c.predTrue = true ∧ c.performed = false)
    ∧ (dirty0.tile.ord.line dirty0.arg.line).isSome = true ∧ 0x3FFFFFFFFF / 64 = 0xFFFFFFFF ∧ 0x3FFFFFFFFF < dirty0.pkg.bound ∧ ({} : State).tile.ord.line 0 = none ∧ ({} : State).pkg.MemForm ∧ dirty0.MemForm := by decide

/-! Launches and tasks -/

def bind0 : Bind := { tt := false, prio := 7, launch := 1, ltile := 0, lclus := 0, stage := 0, age := 15, order := 0 }
/-- A machine with one tile that has the launch `l` bound and runs. -/
def run0 (l : Launch) (run : RunSt) : State :=
  { tile := { par := { launch := 1, kind := l.rc.kind }, disp := { bind := some bind0, run := run, fault := if run = .faulted then some ⟨.misaligned, 0x4000, 0⟩ else none } },
    pkg := { launches := [l] }, arg := { handle := 1 } }
def launch1 (st : LaunchSt) (kind : LaunchKind) : Launch := { handle := 1, st := st, place := [(0, 0)], rc := { kind := kind } }
/-- LaunchEvents: a slot with three binds and with four; the age bound; a free tile with a bind; a handle in use; an ended, a faulted, a cancelled launch;
the watchdog at its limit and one short of it. -/
theorem witness_LaunchEvents : let v : W64 := 0x8000000000000000
    v.getLsbD 63 = true ∧ (0#64).getLsbD 63 = false ∧ ({} : State).pkg.regs.sppub = ({} : State).pkg.regs.spdone
    ∧ ({ tile := { disp := { slot := List.replicate 3 bind0 } } } : State).tile.disp.slot.length < 4 ∧ 4 ≤ ({ tile := { disp := { slot := List.replicate 4 bind0 } } } : State).tile.disp.slot.length
    ∧ (let s : State := { tile := { disp := { slot := [bind0] } }, pkg := { regs := { ageint := 1, agecap := 7 }, launches := [{ launch1 .queued .single with st := .queued }] } }
       s.pkg.regs.ageint ≠ 0 ∧ s.tile.disp.slot[s.arg.ix]? = some bind0 ∧ s.tile.disp.run = .free ∧ (launch1 .queued .single).startable = true ∧ (launch1 .queued .tasked).startable = true
       ∧ (launch1 .queued .single).img.data = [] ∧ (launch1 .queued .single).place = [(0, s.tile.phys)])
    ∧ ({} : State).pkg.regs.ageint = 0
    ∧ (run0 (launch1 .running .single) .running).pkg.inUse 1 = true ∧ ({} : State).pkg.inUse 1 = false := by decide
/-- A record that is all zeros fails its checks; its RESULT is not writable. -/
theorem witness_LaunchEvents_load : let s : State := { arg := { handle := 1, recPA := 0x1000 } }
    let l := { s.launchOf s.arg.handle s.arg.recPA with mask := 0xFFFF, tt := false }
    (s.touchLaunch l).pkg.resultOk l = false := by decide
theorem witness_LaunchEvents_end : let s (run : RunSt) := run0 (launch1 .running .single) run
    ((s .ended).pkg.launch (s .ended).arg.handle = some (launch1 .running .single) ∧ (s .ended).pkg.launches = [launch1 .running .single] ∧ (s .ended).tile.disp.bind.any (fun b => b.launch.toNat == 1) = true
      ∧ (s .ended).pkg.tiles = [] ∧ (s .ended).tile.disp.fenced = [] ∧ (s .ended).tile.eng.cmds = [] ∧ (s .ended).tile.ord.lq = [] ∧ (s .ended).tile.ord.sq = [] ∧ (s .ended).pkg.chans = [] ∧ (s .ended).pkg.poolCh = []
      ∧ (s .ended).pkg.peerCh = []) ∧ (s .ended).tile.eng.quiescent = true ∧ (launch1 .running .single).rejected = false ∧ (s .faulted).tile.disp.fault = some ⟨.misaligned, 0x4000, 0⟩
    ∧ (s .running).arg.req = .acornF ∧ (s .running).tile.sys.dbgctl.getLsbD 1 = false ∧ max (launch1 .running .single).started 0 + (s .running).tile.sys.wdlim.toNat ≤ 100000000
    ∧ 99999999 < max (launch1 .running .single).started 0 + (s .running).tile.sys.wdlim.toNat ∧ mayCancel .untrustedHost (launch1 .running .single) = false := by decide
def taskR (st : TaskSt) (lo : Nat) : TaskRec := { entry := 0x8000, arg := 9, id := 3, rds := [], wrs := [(lo, 0x100)], st := st, aborts := 1 }
def tasks0 (ts : List TaskRec) (run : RunSt) : State := run0 { launch1 .running .tasked with tasks := ts } run
/-- TaskEvents: the second of two tasks eligible; nothing eligible; a task that has ended; the schedule's first and last moments; a window that ends. -/
theorem witness_TaskEvents_dispatch : let s := tasks0 [taskR (.running 1) 0x3000000, taskR .ready 0x3000100] .between
    s.tile.disp.bind = some bind0 ∧ (s.pkg.launch bind0.launch.toNat).isSome = true ∧ s.tile.eng.cmds = [] ∧ s.tile.disp.preempt = .none
    ∧ (taskR .ready 0x3000100).st.eligible s.pkg 0 = true ∧ (taskR (.running 1) 0x3000000).conflicts (taskR .ready 0x3000100) = false ∧ (taskR (.running 1) 0x3000000).st.eligible s.pkg 0 = false
    ∧ (taskR .ready 0x3000000).conflicts (taskR .ready 0x30000FF) = true := by decide
theorem witness_TaskEvents_commit : let s := (tasks0 [taskR (.running 0) 0x3000000] .ended).mapTask (fun t => { t with index := some 0, held := [⟨0, 0x3000000, .pkgMem 0x1000 true, [1, 2], none⟩] })
    s.tile.task.index = some 0 ∧ s.tile.disp.run = .ended ∧ s.tile.eng.cmds = [] ∧ s.tile.eng.quiescent = true ∧ s.coreQuiet = true ∧ s.tileQuiet s.tile = true ∧ s.tile.task.stop = false ∧ s.tile.task.deferred = []
    ∧ (s.pkg.launch s.tile.handle).isSome = true ∧ s.pkg.host = [] ∧ (∀ k < 2, (0x1000 + k) / 64 = 0x1000 / 64) ∧ 0x1000 + 2 ≤ s.pkg.bound ∧ Overlay.wf s.pkg.l2 = true ∧ (∀ u ∈ s.allTiles, u.ord.l1 = []) := by decide
def tt0 (time : Nat) : State := { pkg := { time := time, tt := (Vector.replicate 64 ({} : TtEntry)).set 63 { en := true, clmask := 1, launch := 1 }, regs := { ttlen := 10 } }, arg := { ix := 63 } }
theorem witness_TaskEvents_tt : let in_ (t : Nat) : Bool := decide (0 ≤ t) && decide (0 + (t - 0) / 640 * 640 + 63 * 10 ≤ t) && decide (t < 0 + (t - 0) / 640 * 640 + 63 * 10 + 10)
    in_ 629 = false ∧ in_ 630 = true ∧ in_ 639 = true ∧ in_ 640 = false ∧ (tt0 630).pkg.tt[(BitVec.ofNat 6 63).toFin].en = true ∧ (tt0 630).pkg.regs.ttlen ≠ 0 ∧ (tt0 630).arg.ix < 64
    ∧ (let w (ov : Bool) : TtWindow := { entry := 1, handle := 2, clmask := 1, overrun := ov, skipNext := false, ends := 640 }
       (w false).clmask &&& (1 : BitVec 16) ≠ 0 ∧ (w false).overrun = false ∧ (w false).entry ≠ BitVec.ofNat 6 63 ∧ (w false).handle ≠ 0 ∧ (w false).ends ≤ 640 ∧ 639 < (w false).ends)
    ∧ ([{ launch1 .saved .single with tt := true }].find? (fun l => l.handle == (1#16).toNat && l.tt && l.st == .saved)).isSome = true := by decide
theorem witness_TaskEvents_almond : let s := run0 { launch1 .running .estimating with almond := { held := [(0, 4, 0, 0)] }, rc := { kind := .estimating, en := 8, eb := 4, ek := 4, nmin := 4 } } .running
    (s.pkg.launch s.arg.handle).map (fun l => l.almond.held) = some [(0, 4, 0, 0)] ∧ ((s.pkg.launch s.arg.handle).map (fun l => (l.almond.stop, l.almond.cancel, l.almond.next))) = some (0, false, 0)
    ∧ (0 + (4#64).toNat) % 4 = 0 ∧ 4 ≤ 0 + (4#64).toNat ∧ ((s.mapTask (fun t => { t with index := some 0 })).tile.task.index.isSome = true) := by decide
/-- A SINGLE record at 0x1000 that passes every check, with `ttslot` at 0xFF for a good one: its code at 0x8000, RESULT at 0x9000, ROOT NEAR. -/
def record0 (ttslot : Byte) : State :=
  let root : Cap := { typ := 1, perm := 0xFC0, base := 0, len := 0x1000, cursor := 0, tag := true }
  let bytes : List Byte := [1, 0, 0, 0, 0, ttslot, 1, 1, 1, 1, 1] ++ List.replicate 5 0 ++ leBytes 8 0x8000 ++ leBytes 8 0x8000 ++ List.replicate 32 0 ++ root.toBytes ++ leBytes 8 0x9000
  let s : State := { arg := { handle := 1, recPA := 0x1000, img := ⟨64, 0, [], [], []⟩, ptb := 0x100000 } }
  s.placeTable.updP (fun p => { p with mem := (bytes.mapIdx (fun i b => (0x1000 + i, b))).filter (fun c => c.2 != 0) ++ p.mem, tags := [0x1040 / 32] })
/-- LaunchEvents: an AGEINT that has passed and one unit before; two binds by EPRIO and, of equal EPRIO, by ORDER; a tile that is off; a waiting launch with a
placement and with none; cancels of a waiting, a queued, a saved and an ESTIMATING launch. -/
theorem witness_LaunchEvents_binds : let b : Bind := { bind0 with age := 0, since := 5 }
    let s (time : Nat) : State := { tile := { disp := { slot := [b] } }, pkg := { time := time, regs := { ageint := 1, agecap := 7 } } }
    (s 1005).tile.disp.slot[(s 1005).arg.ix]? = some b ∧ b.tt = false ∧ b.since + 1000 * (s 1005).pkg.regs.ageint ≤ (s 1005).pkg.time ∧ (s 1004).pkg.time < b.since + 1000 * (s 1004).pkg.regs.ageint
    ∧ (let a : Bind := { bind0 with prio := 6, age := 0, order := 1 }
       let a' : Bind := { bind0 with order := 1 }
       let t (a : Bind) : State := { tile := { disp := { slot := [a, bind0] } }, pkg := { regs := { ageint := 1, agecap := 7 }, launches := [launch1 .queued .tasked] } }
       (t a).tile.disp.slot = [a, bind0] ∧ a.tt = bind0.tt ∧ (t a).tile.disp.run = .free ∧ (t a).tileQuiet (t a).tile = true ∧ (t a).pkg.off (t a).tile.phys = false ∧ (t a).pkg.launch bind0.launch.toNat = some (launch1 .queued .tasked)
         ∧ a.eprio 7 < bind0.eprio 7 ∧ (a'.eprio 7 = bind0.eprio 7 ∧ bind0.order.toNat < a'.order.toNat) ∧ (launch1 .queued .tasked).rc.kind ≠ .single)
    ∧ ({ pkg := { disabled := [0] } } : State).pkg.off 0 = true := by decide
theorem witness_LaunchEvents_waiting : let w (n : Nat) : Launch := { launch1 .waiting .single with mask := 0xFFFF, rc := { ntile := n, nclus := 1, nstage := 1, tsymm := 1, csymm := 1 } }
    let s (n : Nat) : State := run0 (w n) .free
    (s 1).pkg.launch (s 1).arg.handle = some (w 1) ∧ (w 1).st = .waiting ∧ (w 1).tt = false ∧ (s 1).choosePlace (w 1).rc (w 1).mask = some [(0, 0)] ∧ (s 2).choosePlace (w 2).rc (w 2).mask = none
      ∧ (s 1).pkg.inUse 1 = true ∧ (run0 (launch1 .running .single) .running).pkg.inUse 1 = true ∧ (launch1 .running .single).st ≠ .waiting := by decide
theorem witness_LaunchEvents_cancel : mayCancel .acornF (launch1 .saved .single) = true ∧ (launch1 .saved .single).st = .saved ∧ ((launch1 .saved .single).rc.kind = .estimating → (launch1 .saved .single).almond.stop = 0)
    ∧ (launch1 .saved .single).rejected = false ∧ ((launch1 .waiting .tasked).st = .waiting ∧ (launch1 .queued .single).st = .queued ∧ (launch1 .waiting .tasked).rc.kind ≠ .estimating)
    ∧ (let l : Launch := { launch1 .saved .estimating with almond := { stop := 1 } }
       l.almond.stop ≠ 0 ∧ l.cancelled = false ∧ (run0 l .free).pkg.launch (run0 l .free).arg.handle = some l ∧ mayCancel .acornF l = true)
    ∧ (launch1 .running .estimating).almond.stop = 0 ∧ mayCancel .untrustedHost (launch1 .saved .single) = false := by decide
/-- A PLM840-K240 and a record of 16 tiles. -/
def rec16 : State := (record0 0xFF).updP (fun p => { p with mem := p.mem.map (fun c => if c.1 = 0x1006 then (c.1, 16) else c), fused := (State.resetK240 (Vector.replicate 16 3)).pkg.fused })
set_option maxRecDepth 100000 in
theorem witness_LaunchEvents_k240 : let s := rec16
    let l := { s.launchOf s.arg.handle s.arg.recPA with mask := 0xFFFF, tt := false }
    let u := s.touchLaunch l
    u.pkg.fused = (State.resetK240 (Vector.replicate 16 3)).pkg.fused ∧ u.pkg.disabled = [] ∧ 15 < l.rc.ntile ∧ u.pkg.resultOk l = true := by decide
set_option maxRecDepth 100000 in
theorem witness_LaunchEvents_good : let s := record0 0xFF
    let l := { s.launchOf s.arg.handle s.arg.recPA with mask := 0xFFFF, tt := false }
    let u := s.touchLaunch l
    s.pkg.inUse s.arg.handle = false ∧ u.pkg.resultOk l = true ∧ (u.recChecks l (u.acornPkg.homeN s.arg.recPA 256)).find? (·.2) = none ∧ l.rc.kind ≠ .tasked ∧ u.choosePlace l.rc 0xFFFF = some [(0, 0)] := by decide
set_option maxRecDepth 100000 in
theorem witness_LaunchEvents_bad : let s := record0 64
    let l := { s.launchOf s.arg.handle s.arg.recPA with mask := 0xFFFF, tt := false }
    let u := s.touchLaunch l
    u.pkg.resultOk l = true ∧ (u.recChecks l (u.acornPkg.homeN s.arg.recPA 256)).find? (·.2) = some (5, true) := by decide
/-- Two tiles are asked for and one is there. -/
def recWait : State := (record0 0xFF).updP (fun p => { p with mem := p.mem.map (fun c => if c.1 = 0x1006 then (c.1, 2) else c) })
set_option maxRecDepth 100000 in
theorem witness_LaunchEvents_load_waits : let s := recWait
    let l := { s.launchOf s.arg.handle s.arg.recPA with mask := 0xFFFF, tt := false }
    let u := s.touchLaunch l
    u.pkg.resultOk l = true ∧ (u.recChecks l (u.acornPkg.homeN s.arg.recPA 256)).find? (·.2) = none ∧ l.rc.kind ≠ .tasked ∧ u.choosePlace l.rc 0xFFFF = none := by decide

/-! Entries, saves, the debugger -/

def entry0 (kvec kstat : W64) (msg : Option W32) : State :=
  { tile := { sys := { kvec := kvec, kstat := kstat }, disp := { run := .running, msg := msg } } }
/-- EntriesAndSaves: an engine fault with and without a vector; a message with IE set and clear; a nested handler. -/
theorem witness_EntriesAndSaves_entry : let s := entry0 0x8000 4 (some 7)
    s.tile.disp.run = .running ∧ s.tile.sys.dbgctl &&& 3 = 0 ∧ s.tile.ord.mon = none ∧ s.tile.ord.nasWait = none ∧ s.tile.ord.hold = none ∧ s.tile.ord.bar = .idle ∧ s.tile.sys.kstat.getLsbD 6 = false
    ∧ s.tile.eng.faults = [] ∧ s.tile.disp.msg = some 7 ∧ s.pkg.fw.state ≠ 3 ∧ s.tile.sys.kstat.getLsbD 2 = true ∧ s.tile.sys.kvec &&& ~~~7 ≠ 0 ∧ (entry0 7 0 none).tile.sys.kvec &&& ~~~7 = 0
    ∧ (entry0 0x8000 0 (some 7)).tile.sys.kstat.getLsbD 2 = false ∧ (entry0 0x8000 0x40 none).tile.sys.kstat.getLsbD 6 = true ∧ Eng.v ≠ .x
    ∧ ((s.mapEng (fun e => { e with faults := [⟨.v, 3, 0x1000, .illegalOpcode, 0⟩] })).tile.eng.faults = [⟨.v, 3, 0x1000, .illegalOpcode, 0⟩]) := by decide
theorem witness_EntriesAndSaves_save : let s (st : LaunchSt) (kind : LaunchKind) (run : RunSt) (p : Preempt) := (run0 { launch1 st kind with saveAt := some 5 } run).mapDisp (fun d => { d with preempt := p, safeIx := some 0 })
    ((s .running .single .running .none).pkg.launches = [{ launch1 .running .single with saveAt := some 5 }] ∧ (s .running .single .running .none).arg.handle = 1 ∧ (s .running .single .running .none).pkg.tiles = []
      ∧ (s .running .single .running .none).tile.disp.bind = some bind0 ∧ bind0.launch.toNat = 1)
    ∧ (s .running .tasked .running .none).tile.handle = 1
    ∧ (let t := s .saving .single .ended .classP
       t.tile.disp.preempt = .classP ∧ t.tile.disp.run = .ended ∧ t.tile.eng.cmds = [] ∧ t.tile.disp.fenced = [] ∧ t.tile.ord.lq = [] ∧ t.tile.ord.sq = [] ∧ t.pkg.chans = [] ∧ t.pkg.poolCh = [] ∧ t.pkg.peerCh = [])
    ∧ (let t := s .saving .single .stopped .classS
       t.tile.disp.preempt = .classS ∧ t.tile.disp.run = .stopped ∧ t.tile.disp.safeIx = some 0)
    ∧ (let t := s .saving .tasked .between .none
       (launch1 .saving .tasked).rc.cls = 0 ∧ (launch1 .saving .tasked).rc.kind ≠ .single ∧ t.tile.eng.cmds = [] ∧ t.tile.disp.fenced = [] ∧ t.tile.ord.lq = [] ∧ t.tile.ord.sq = [] ∧ t.pkg.chans = [] ∧ t.pkg.poolCh = [] ∧ t.pkg.peerCh = [])
    ∧ ((s .saving .single .running .classP).pushLq .amoMark).tile.ord.lq ≠ [] ∧ 5 + (s .saving .single .running .classP).pkg.regs.splim ≤ 200005 ∧ 200004 < 5 + (s .saving .single .running .classP).pkg.regs.splim := by decide
def savedTile0 : SavedTile := { lt := 0, area := 0x40000, form := 1, run := .running, task := {}, taskId := 0, level := .u, bar := .idle, arrs := [], kinds := Vector.replicate 192 .raw }
set_option maxRecDepth 100000 in
theorem witness_EntriesAndSaves_resume : let l : Launch := { launch1 .saved .single with saved := [savedTile0] }
    let s : State := { pkg := { launches := [l] }, arg := { handle := 1 } }
    s.pkg.launches = [l] ∧ l.handle = s.arg.handle ∧ l.st = .saved ∧ l.tt = false ∧ s.choosePlace l.rc 0xFFFF = some [(0, s.tile.phys)] ∧ s.tile.disp.run = .free ∧ s.tile.disp.bind = none ∧ s.tileQuiet s.tile = true ∧ l.saved = [savedTile0]
      ∧ savedTile0.lt = 0 ∧ (launch1 .running .single).st ≠ .saved
      ∧ (launch1 .saved .tasked).saved = [] ∧ (launch1 .saved .tasked).rc.kind ≠ .single ∧ s.choosePlace (launch1 .saved .tasked).rc 0xFFFF = some [(0, s.tile.phys)] ∧ s.tile.task.stop = false := by decide
/-- DebugEvents: trusted and not; halted and not; a capability with D and one without; a sealed one. -/
def dbg0 (perm : BitVec 12) (typ : BitVec 4) (ctl : W64) : State :=
  ({ arg := { cap := 1, req := .ide 0 } } : State).setCap 1 { typ := typ, perm := perm, base := 0, len := 0x200000, cursor := 0x1FFFF8, tag := true } |>.mapSys (fun y => { y with dbgctl := ctl })
theorem witness_DebugEvents : (let s := dbg0 0xFFF 1 2
     s.tile.phys < 256 ∧ s.tile.disp.bind = none ∧ s.arg.req = .ide 0 ∧ s.tile.disp.run ≠ .running ∧ s.tile.sys.dbgctl.getLsbD 1 = true ∧ s.debugCheck (s.cap 1) 0x1FFFF8 .ld = true ∧ s.debugCheck (s.cap 1) 0x1FFFF8 .st = true
     ∧ (s.cap 1).typ = 1 ∧ s.tile.MemForm)
    ∧ (dbg0 0xFFF 1 0).tile.sys.dbgctl.getLsbD 1 = false ∧ (dbg0 0xFC0 1 2).debugCheck ((dbg0 0xFC0 1 2).cap 1) 0x1FFFF8 .ld = false
    ∧ (dbg0 0xFFF 5 2).debugCheck ((dbg0 0xFFF 5 2).cap 1) 0x1FFFF8 .ld = true ∧ ((dbg0 0xFFF 5 2).cap 1).typ = 5 ∧ (dbg0 0xFFF 5 2).pkg.events.length < 1024 ∧ (.untrustedHost : Requester) ≠ .acornF := by decide
set_option maxRecDepth 100000 in
theorem witness_DebugEvents_loc : ∃ t, (dbg0 0xFFF 1 2).debugLoc ((dbg0 0xFFF 1 2).cap 1) 0x1FFFF8 .ld = .ok t (.own 0x1FFFF8) := ⟨_, rfl⟩

/-! The pool -/

def gate0 (op : PoolOp) (tok : W64) (o : PoolObj) : State := { pkg := { poolCh := [{ obj := 6, op := op, token := tok, src := 0, pc := 0x4000, eng := none, seq := 3 }] }, pool := [o], arg := { obj := 6 } }
def keys (n : Nat) : List KeyRec := (List.range n).map (fun i => ⟨BitVec.ofNat 64 (i + 1), 5, i⟩)
/-- PoolGate: a token below, at and above FENCE; an atomic without a key, with a known key and with a new one; a rejection that arrives; a page to fetch. -/
theorem witness_PoolGate : (let s := gate0 (.put 0x40 [1, 2]) 8 { id := 6, fence := 9 }
     s.pkg.member = true ∧ s.pkg.poolCh.length = 1 ∧ (s.obj 6).fence = 9 ∧ (8#64).toNat < (s.obj 6).fence.toNat ∧ ¬ (9#64).toNat < (s.obj 6).fence.toNat ∧ Memory.wf (s.obj 6).data = true)
    ∧ (let s := gate0 (.atomic 0 0 1 0 2 (some 3) none) 0 { id := 6, keys := keys 2 }
       ((s.obj 6).keys.find? (fun k => k.key == 2)).isSome = true ∧ (s.obj 6).keys.find? (fun k => k.key == 9) = none ∧ (s.obj 6).keys.length < 4096 ∧ s.pkg.object 6 = none)
    ∧ (({} : State).mapDisp (fun d => { d with fenced := [(0x4000, some 7)] })).tile.disp.fenced = (0x4000, some 7) :: [] ∧ ({} : State).tile.disp.fenced = [] ∧ ({} : State).tile.disp.fault = none
    ∧ ({ pkg := { member := false } } : State).pkg.member = false
    ∧ (let s : State := { pool := [{ id := 6, leases := [⟨0, 0, true, 0, 0, 1000⟩] }], arg := { obj := 6 } }
       (∀ m ∈ s.pkg.poolCh, m.obj ≠ 6) ∧ s.pkg.frameOf 6 0 = none ∧ (s.obj 6).lease 0 s.pkg.num = some ⟨0, 0, true, 0, 0, 1000⟩ ∧ s.pkg.freeFrame.isSome = true ∧ Memory.wf s.pkg.mem = true
       ∧ Memory.wf (s.obj 6).data = true) := by decide
theorem witness_PoolGate_zero : ∀ x, Memory.read ({} : State).pkg.mem x = 0 := fun _ => rfl
/-- A full gate: the oldest record is old enough, and not. -/
theorem witness_PoolGate_full : 4096 ≤ (keys 4096).length ∧ (∀ k ∈ keys 3, 1 < k.since + 2000 * 1000) := by
  have h : (keys 4096).length = 4096 := by rw [keys, List.length_map, List.length_range]
  exact ⟨Nat.le_of_eq h.symm, by decide⟩
theorem witness_PoolGate_new : (keys 4096).find? (fun k => k.key == 9999) = none ∧ (∀ y ∈ keys 4096, y.since < 4096) := by
  have h : ∀ y ∈ keys 4096, y.since < 4096 ∧ y.key.toNat = y.since + 1 := by
    intro y hy
    obtain ⟨i, hi, rfl⟩ := List.mem_map.mp hy
    have := List.mem_range.mp hi
    simp only [BitVec.toNat_ofNat]
    omega
  refine ⟨List.find?_eq_none.mpr ?_, fun y hy => (h y hy).1⟩
  intro y hy he
  have := h y hy
  rw [eq_of_beq he] at this
  simp at this
  omega
def lease0 (o : PoolObj) (time : Nat) : State := { pkg := { time := time, frames := [{ obj := 6, page := 1, pa := 0x40000000, write := true, grant := 0, ldur := 1000, token := 5, forTask := false }] }, pool := [o], arg := { obj := 6, page := 1, val := 5, pkg := 0 } }
/-- Leases: no holder, another holder of READ and of WRITE, a lapsed page, a token below FENCE; renewals; local expiry at its moment and one before it; node
expiry the same. -/
theorem witness_Leases : let s (o : PoolObj) := lease0 o 0
    ((s {id := 6}).pkg.member = true ∧ (∀ m ∈ (s {id := 6}).pkg.poolCh, m.obj ≠ 6))
    ∧ (¬ ∃ l ∈ ((s {id := 6}).obj 6).leases, l.page = 1 ∧ l.pkg ≠ 0) ∧ (¬ ∃ l ∈ ((s {id := 6}).obj 6).lapsed, l.1 = 1) ∧ ¬ (5#64).toNat < ((s {id := 6}).obj 6).fence.toNat
    ∧ (∃ l ∈ ((s { id := 6, leases := [⟨1, 3, true, 0, 0, 1000⟩] }).obj 6).leases, l.page = 1 ∧ l.pkg ≠ 0 ∧ l.write = true) ∧ (∃ l ∈ ((s { id := 6, lapsed := [(1, 0)] }).obj 6).lapsed, l.1 = 1)
    ∧ (5#64).toNat < ((s { id := 6, fence := 6 }).obj 6).fence.toNat
    ∧ ((s { id := 6, leases := [⟨1, 0, true, 0, 5, 1000⟩] }).obj 6).leases.find? (fun l => l.page == 1 && l.pkg == 0) = some ⟨1, 0, true, 0, 5, 1000⟩ ∧ ({ s {id := 6} with pkg := {} } : State).pkg.frameOf 6 1 = none
    ∧ (1, 0) ∈ ((s { id := 6, revokes := [(1, 0)] }).obj 6).revokes ∧ (s {id := 6}).arg.good = true ∧ ((s {id := 6}).pkg.frameOf 6 1).isSome = true
    ∧ (997999 + 2000 < 0 + 1000 * 1000 ∧ 0 + 1000 * 1000 ≤ 998000 + 2000) ∧ ((s { id := 6, leases := [⟨1, 0, true, 0, 5, 1000⟩] }).obj 6).lease 1 0 = some ⟨1, 0, true, 0, 5, 1000⟩
    ∧ ((s {id := 6}).obj 6).lease 1 0 = none := by decide

/-! Sprout, pods, links -/

/-- The record of step 0 at 0x1000 with its STATE byte, DEADLINE and NPAGES. -/
def sched0 (state deadline npages : Byte) (pub : W32) : State :=
  { pkg := { regs := { spbase := 0x1000, sppub := pub }, mem := [(0x101A, state), (0x101C, npages), (0x1030, deadline)].filter (fun c => c.2 != 0), launches := [launch1 (.ended 0) .single], time := 5 } }
/-- SproutAndPod: a record ahead of SPDONE and one that is not; each state; a deadline that has come and one that has not; a list of 257 pages. -/
theorem witness_SproutAndPod_record : let s := sched0 1 5 0 1
    s.MemForm ∧ s.pkg.prefetch = [] ∧ (∀ u ∈ s.allTiles, u.ord.l1 = []) ∧ s.pkg.host = [] ∧ 0x1000 % 64 = 0 ∧ 0x1000 + 64 ≤ s.pkg.bound
    ∧ (s.arg.idx - s.pkg.regs.spdone).toNat < min 16 (s.pkg.regs.sppub - s.pkg.regs.spdone).toNat ∧ ¬ ((sched0 1 5 0 0).arg.idx - 0).toNat < min 16 ((sched0 1 5 0 0).pkg.regs.sppub - 0).toNat
    ∧ Spec.number (s.pkg.homeN 0x101A 1) = 1 ∧ Spec.number (s.pkg.homeN 0x101C 4) = 0 ∧ Spec.number (s.pkg.homeN 0x1020 8) % 16 = 0 ∧ Spec.number (s.pkg.homeN 0x1030 8) = 5 ∧ 5 ≤ s.pkg.time
    ∧ s.pkg.time < Spec.number ((sched0 1 6 0 1).pkg.homeN 0x1030 8) ∧ Spec.number ((sched0 3 0 0 1).pkg.homeN 0x101A 1) = 3 ∧ (s.pkg.launch 1).map (·.st) = some (.ended 0) := by decide
theorem witness_SproutAndPod_long : 256 < Spec.number (({ sched0 1 0 1 1 with pkg := { (sched0 1 0 1 1).pkg with mem := [(0x101A, 1), (0x101C, 1), (0x101D, 1)] } } : State).pkg.homeN 0x101C 4) := by decide
/-- A page half-way through its lease, and one unit before; a table record; a package that has not acknowledged for 100 µs and one unit before. -/
def renew0 (time : Nat) : State := { lease0 { id := 6, leases := [⟨1, 0, true, 0, 5, 1000⟩] } time with pkg := { (lease0 {id := 6} time).pkg with dir := [{ index := 0, valid := true, direct := false, ldur := 1000, node := 0, objid := 6 }], optics := { ports := [{ state := 3, dest := [(0, 1024)] }] }, regs := { spbase := 0x1000, sppub := 1 }, mem := [(0x101A, 1), (0x101C, 1), (0x1021, 0x20), (0x2000, 6), (0x2006, 2), (0x2008, 1), (0x200C, 1)].filter (fun c => c.2 != 0) } }
theorem witness_SproutAndPod_renew : (renew0 499999).pkg.time < 0 + 500 * 1000 ∧ 0 + 500 * 1000 ≤ (renew0 500000).pkg.time ∧ ((renew0 500000).pkg.frameOf 6 1).isSome = true ∧ (renew0 500000).pkg.member = true
    ∧ ((renew0 500000).obj 6).lease 1 0 = some ⟨1, 0, true, 0, 5, 1000⟩ ∧ ((renew0 500000).obj 6).fence.toNat ≤ (5#64).toNat ∧ (renew0 500000).pkg.namedBy (fun _ => true) 6 1 = true := by decide
theorem witness_SproutAndPod_pod : let s : State := { arg := { area := 0x1000, off := 1 } }
    s.pkg.member = true ∧ s.peers = [] ∧ s.pkg.podOut = [] ∧ s.arg.pkg = s.pkg.num ∧ s.arg.seq = s.pkg.podSeq ∧ s.pkg.expects s.pkg.num = s.pkg.podSeq ∧ (0x1000 + 8 * 1) % 8 = 0 ∧ 0x1000 + 8 * 1 + 8 ≤ s.pkg.bound
    ∧ (let t (time : Nat) : State := { pkg := { time := time, podOut := [{ seq := 3, sent := 0 }] }, peers := [{ num := 1 }], arg := { pkg := 1, seq := 3 } }
       (∃ r ∈ (t 100000).pkg.podOut, r.sent + 100000 ≤ (t 100000).pkg.time ∧ 1 ∉ r.acked) ∧ (∀ r ∈ (t 99999).pkg.podOut, (t 99999).pkg.time < r.sent + 100000 ∨ 1 ∈ r.acked)
       ∧ (t 0).peers.find? (fun p => p.num == (t 0).arg.pkg) = some { num := 1 } ∧ (t 0).pkg.num ≠ 1)
    ∧ (let u : State := { peers := [{ num := 1, podOut := [{ seq := 3, sent := 0 }] }], arg := { pkg := 1, seq := 3 } }
       ([{ seq := 3, sent := 0 }] : List PodRec).find? (fun r => r.seq == u.arg.seq) = some { seq := 3, sent := 0 } ∧ u.pkg.expects 1 ≠ 3) := by decide
def port0 (p : Port) (port : BitVec 5) (x : EvArg) : State := { pkg := { optics := { ports := (List.replicate 32 p) } }, arg := { x with port := port } }
/-- Links: the last port; every stage; the third failed attempt; a codeword in order, a gap, one delivered before, one that does not decode; the engines. -/
theorem witness_Links : (∀ st ∈ [1, 2, 3, 4, 5, 6, 7], (port0 { state := 1, stage := st } 31 {}).pkg.optics.ports[(31#5).toNat]? = some { state := 1, stage := st })
    ∧ (port0 { state := 1, tries := 1 } 31 {}).pkg.optics.ports[(31#5).toNat]? = some { state := 1, tries := 1 } ∧ (2 : Nat) ≤ 2 ∧ ({} : State).pkg.optics.berhi ≤ 36 ∧ 35 < ({} : State).pkg.optics.berhi
    ∧ ((0#16) - (0x8000#16)).toNat ≥ 2 ^ 15 ∧ ¬ ((0x7FFF#16) - (0#16)).toNat ≥ 2 ^ 15
    ∧ (({} : State).pkg.optics.engs[7]?).map (·.failed) = some false ∧ (({} : State).pkg.optics.engs[6]?).isSome = true ∧ (0 : Nat) ∉ ({} : State).pkg.optics.unreachable
    ∧ 1 ∈ ({ pkg := { optics := { unreachable := [1] } } } : State).pkg.optics.unreachable ∧ ({} : State).pkg.events.length < 1024 := by decide
/-- SlotsAndPeers: a boundary that has come; a grant in time and late; a raise with and without what it needs; a reclaim at its moment; peers within 1 µs. -/
theorem witness_SlotsAndPeers : (3999 / 4000 ≤ ({} : State).pkg.optics.cycle ∧ ({} : State).pkg.optics.cycle < 4000 / 4000) ∧ ({} : State).pkg.optics.ports.length = 32 ∧ ({} : State).pkg.optics.lbudget < 32 * 16 * 13
    ∧ ({ pkg := { optics := { lbudget := 6656 } } } : State).pkg.optics.lbudget ≥ 32 * 16 * 13
    ∧ (({} : State).pkg.optics.ports[(31#5).toNat]?).map (·.given) = some [] ∧ 3800 < 3801 % 4000 ∧ 3800 % 4000 ≤ 3800
    ∧ (({ pkg := { optics := { ports := List.replicate 32 { queued := [(9, 2)], state := 3 } } } } : State).pkg.optics.requests 31 { queued := [(9, 2)], state := 3 }).find? (fun r => r.1 == 9) = some (9, 1)
    ∧ (let o := ({} : State).pkg.optics
       ∃ p, o.ports[31]? = some p ∧ p.lpwr < 7 ∧ p.lastRaise = none ∧ o.used + p.width ≤ o.lbudget ∧ p.lpwr = 0)
    ∧ 0 + 1000000 * ({} : State).pkg.optics.berhold ≤ 100000000 :=
  ⟨by decide, by decide, by decide, by decide, by decide, by decide, by decide, by decide, ⟨_, rfl, by decide⟩, by decide⟩
theorem witness_SlotsAndPeers_peer : let p : Package := { podRoots := [(0, 0x10000)], mem := (leBytes 8 identityLeaf.toNat).mapIdx (fun i b => (0x10000 + i, b)) |>.filter (fun c => c.2 != 0) |>.append [(0x1000F, 0xCB)], peerCh := [{ src := 0, target := 0, addr := 0x2000, tenant := 0, bytes := List.replicate 8 1, eng := 8 }] }
    let s : State := { pkg := p }
    s.arg.pkg = s.pkg.num ∧ s.pkg.peerCh.length = 1 ∧ s.arg.ix = 0 ∧ s.arg.count = 0 ∧ s.pkg.member = true ∧ s.pkg.failed = false
      ∧ (match s.pkg.peerPa 0 0x2000 true with
         | .ok (l, pa) => !pteScrub l.pte && pa == 0x2000
         | .error _ => false) = true ∧ 0x2000 + 8 ≤ s.pkg.bound
      ∧ (match s.pkg.peerPa 0 0x200002000 true with
         | .ok _ => false
         | .error fi => fi.code.kind == .trap && fi.eval.isSome) = true := by decide
theorem witness_SlotsAndPeers_coll : let x : Coll := { party0 with n := 2 }
    let s : State := { pkg := { colls := [x] }, arg := { obj := 7 } }
    s.pkg.colls = [x] ∧ x.group = s.arg.obj ∧ x.count = s.arg.count ∧ x.finished = false ∧ x.phys = s.tile.phys ∧ s.peers = [] ∧ x.first = s.pkg.num ∧ 2 ≤ x.n ∧ x.started + s.tile.sys.cto.toNat ≤ 10000000
      ∧ 9999999 < x.started + s.tile.sys.cto.toNat := by decide
theorem witness_SlotsAndPeers_time : (∀ p ∈ ({ peers := [{ num := 1, time := 1000 }] } : State).peers, p.time ≤ 0 + 1000 ∧ 0 ≤ p.time + 1000)
    ∧ ¬ (∀ p ∈ ({ peers := [{ num := 1, time := 1001 }] } : State).peers, p.time ≤ 0 + 1000 ∧ 0 ≤ p.time + 1000) := by decide

/-! The host, sessions, firmware, service life, step -/

/-- HostEvents: an address in the window of 1 GiB at 1 GiB, its last dword and the first outside; a sealed frame; a misaligned register access, the last
page of a session, a reserved page; a directory entry's halves. -/
def host0 : State := { pkg := { regs := { hcwin := 0x8000000040000000, haper := 0x8000000040000000 }, sealedFrames := [(0x2000, 3)], sessions := [{ num := 255, tenant := 3, established := true }],
                                boxes := [{ ch := 63, session := 255 }] }, arg := { area := 0x7FFFFFF8, ix := 63, count := 8, req := .ide 255 } }
theorem witness_HostEvents : let w := host0.pkg.regs.hcwin
    w.getLsbD 63 = true ∧ (w.extractLsb' 30 9).toNat * 2 ^ 30 ≤ 0x7FFFFFF8 ∧ 0x7FFFFFF8 < ((w.extractLsb' 30 9).toNat + (w.extractLsb' 40 6).toNat + 1) * 2 ^ 30 ∧ 0x7FFFFFF8 % 8 = 0
    ∧ ¬ 0x80000000 < ((w.extractLsb' 30 9).toNat + (w.extractLsb' 40 6).toNat + 1) * 2 ^ 30 ∧ (∀ f ∈ ({ host0 with pkg := { host0.pkg with sealedFrames := [] } } : State).pkg.sealedFrames, f.1 ≠ 0x7FFFFFF8 / 0x40000)
    ∧ (∀ u ∈ host0.allTiles, u.ord.line (0x7FFFFFF8 / 64) = none) ∧ (∀ l ∈ host0.pkg.host, l.line ≠ 0x7FFFFFF8 / 64) ∧ host0.pkg.lockedBy 0x7FFFFFF8 = none ∧ 0x7FFFFFF8 + 8 ≤ host0.pkg.bound
    ∧ 0x7FFFFFF8 / 0x40000 = 0x1FFF ∧ host0.pkg.sealedFrames = [(0x2000, 3)] ∧ 0x80000000 / 0x40000 = 0x2000
    ∧ 0x7FFFFFF8 / 64 ∉ host0.pkg.ecc ∧ 0x7FFFFFF8 / 64 ∈ (host0.updP (fun p => { p with ecc := [0x1FFFFFF] })).pkg.ecc ∧ host0.pkg.events = [] := by decide
theorem witness_HostEvents_registers : 0x2FFFFF8 % 8 = 0 ∧ 0x2FFFFF8 / 0x10000 = 0x2FF ∧ 0x2FF - 0x200 = 255 ∧ 0x302 ≤ 0x3020000 / 0x10000 ∧ 0x3020000 < 2 ^ 30 ∧ host0.pkg.sessions.map (·.num) = [255]
    ∧ (Requester.ide 254 = .ide 254 ∧ 254 ≠ 255) ∧ 0x5FFFF8 / 0x10000 < 0x60 ∧ (0x5FFFF8 - 0x500000) / 16 = 65535 ∧ 0x410048 / 0x10000 = 0x41
    ∧ host0.pkg.boxes = [{ ch := 63, session := 255 }] ∧ host0.arg.req = .ide 255 ∧ 2 ≤ ({ host0 with pkg := { host0.pkg with fw := { state := 2 } } } : State).pkg.fw.state ∧ host0.pkg.fw.state ≠ 3 := by decide
/-- A frozen line: a measured code section at 0x8000 of a running launch. -/
theorem witness_HostEvents_frozen : let s := ({ pkg := { launches := [{ launch1 .running .single with rc := { code := 0x8000, meas := [1] }, img := ⟨64, 0, [], [], [0]⟩, ptb := 0x100000 }], mem := [(0x100006, 0x40), (0x100007, 0xCF)] } } : State)
    ((s.pkg.lockedBy 0x8000).map (·.handle)) = some 1 ∧ (s.pkg.launch 1).isSome = true := by decide
/-- A capability record of POL 9 of tenant 3 at 0x1000 to be tagged. -/
theorem witness_HostEvents_seal : let c : Cap := { typ := 5, perm := 0xFC0, base := 0x2000000, len := 0x1000, cursor := 0, pol := 9, tenant := 3, tag := true }
    let s : State := (({ arg := { req := .acornF, area := 0x300000, ptb := 0x100000 } } : State).placeTable).updP (fun p => { p with sessions := [{ num := 1, tenant := 3, policies := [⟨0, 9, 3, true, [1], []⟩] }], mem := p.mem ++ ((c.toBytes.mapIdx (fun i b => (0x300000 + i, b))).filter (fun x => x.2 != 0)) })
    s.arg.req = .acornF ∧ (∃ x ∈ s.pkg.sessions, ∃ e ∈ x.policies, e.valid = true ∧ e.tenant = c.tenant ∧ e.pol = c.pol) ∧ Cap.ofBytes (s.coherentN 0x300000 32) true = c ∧ s.pkg.tagged 0x300000 = true
      ∧ (s.pkg.sealFrames 0x100000 c).isSome = true ∧ s.pkg.regs.hcwin.getLsbD 63 = false ∧ s.pkg.regs.haper.getLsbD 63 = false ∧ inRanges s.pkg.scrub 0x300000 = false ∧ s.pkg.host = [] ∧ (∀ u ∈ s.allTiles, u.ord.l1 = []) := by decide
/-- SpdmEvents: each step of the order with and without what comes before; a session that does not exist, one that is open, one that is established. -/
theorem witness_SpdmEvents : ({} : State).pkg.spdm.version = false ∧ ({} : State).pkg.spdm.caps = false ∧ ({} : State).pkg.spdm.algs = false ∧ ({ pkg := { spdm := { algs := true } } } : State).pkg.spdm.algs = true
    ∧ (∀ y ∈ ({} : State).pkg.sessions, y.num ≠ 255) ∧ (255 < 256 ∧ 256 ≤ 256) ∧ (∃ y ∈ host0.pkg.sessions, y.num = 255) ∧ host0.pkg.sessions.map (·.num) = [255]
    ∧ (host0.pkg.session 255).map (·.established) = some true ∧ ({ num := 1, tenant := 0 } : Session).established = false ∧ ({} : State).pkg.boxes = [] := by decide
/-- FirmwareAndLife: each update state; both timeouts at their moment and one before; a package without power; the limits of power and heat. -/
theorem witness_FirmwareAndLife : ({} : State).arg.req = .acornF ∧ host0.arg.req = .ide 255 ∧ ¬ (Requester.tile 0 true = .acornF ∨ ∃ n, Requester.tile 0 true = .ide n)
    ∧ (∀ st ∈ [0, 1, 2, 3, 4], ({ pkg := { fw := { state := st } } } : State).pkg.fw.state = st) ∧ (9999999 < 0 + 10000000 ∧ 0 + 10000000 ≤ 10000000) ∧ (499999999 < 0 + 500000000 ∧ 0 + 500000000 ≤ 500000000)
    ∧ (5#16).toNat < (6#16).toNat ∧ ({} : State).pkg.life.powered = true ∧ ({ pkg := { life := { aliasCert := some 1 } } } : State).pkg.life.aliasCert.isSome = true
    ∧ ({ pkg := { life := { powered := false } }, arg := { dest := [(255, 0)] } } : State).pkg.life.powered = false ∧ 255 ∉ ({} : State).pkg.disabled
    ∧ (599999999999 < ({} : State).pkg.life.flushed + 600000000000 ∧ ({} : State).pkg.life.flushed + 600000000000 ≤ 600000000000) ∧ ({} : State).arg.dest = []
    ∧ (({} : State).pkg.life.clusters[15]?).map (·.tempHist.length) = some 8 ∧ ¬ (∃ u ∈ ({} : State).allTiles, u.phys / 16 = 0 ∧ u.disp.bind.isSome = true)
    ∧ 600 + 95 < 700 ∧ 700 ≤ 600 + 100 ∧ 2600 ≤ ({} : State).pkg.regs.pkgpl ∧ ({} : State).pkg.regs.pkgpl < 2601 := by
  refine ⟨by decide, by decide, ?_, by decide⟩
  rintro (h | ⟨_, h⟩) <;> exact nomatch h

/-- RoundTrip, EncodingsAreUnique. -/
theorem witness_RoundTrip : (Instr.add h0 31 0 31).wf = true ∧ (match encode (.add h0 31 0 31) with
    | .control w => reads w (.add h0 31 0 31)
    | _ => false) = true := by decide
/-- StepRunsInstruction: reset moves its core, with one word placed it fetches; an engine's stream that runs; an event; a tile that does not exist. -/
def step0 : State := ({} : State).placeControl 0
theorem witness_StepRunsInstruction : (step0.Moves .core step0.advance) ∧ step0.advance.tile.disp.run = .running := ⟨.inl ⟨rfl, rfl, rfl⟩, rfl⟩
theorem witness_StepRunsInstruction_fetch : step0.advance.Fetches ∧ isOk step0.advance.fetch = true :=
  ⟨⟨rfl, rfl, rfl, by decide⟩, by decide⟩
theorem witness_StepRunsInstruction_other : isOk (({} : State).advance.fetch) = false ∧ ({ agenda := [⟨0, 0, .event .mwaitWake {}⟩] } : State).Moves (.event .mwaitWake {}) { ({} : State).advance with agenda := [] }
    ∧ (({ agenda := [⟨5, 0, .core⟩] } : State).advance.focus 5 0) = none :=
  ⟨by decide, .inr ⟨_, _, rfl, rfl, rfl⟩, rfl⟩
theorem witness_StepRunsInstruction_engine : let s := (State.reset.withFetchWord 256 0x89FFF000000000000000000000000000)
    s.advance.streamRuns .x = true := by decide
/-- StepKeepsMemoryForm. -/
theorem witness_StepKeepsMemoryForm : step0.MemForm := by decide

/-! ### Further clauses of the same obligations -/

/-- EngineCommandStart: the last tests before a command's work; a conditional stream's command that has not completed and one that has. -/
theorem witness_EngineCommandStart_ready : let c := eng0.cmdAt .v (eng0.tile.eng.ring .v).rp 0
    let kept := eng0.keepCmd { c with waited := true }
    op0.ready kept { c with waited := true } = true ∧ op0.chk kept = none ∧ ({ op0 with chk := fun _ => some { code := .capTag } } : EngOp).chk kept = some { code := .capTag }
    ∧ (let k (d : Bool) : Cmd := { eng := .v, idx := 0, words := 1, ts := 1, predTrue := true, rngs := [], sq := some (3, true, 5), done := d }
       (eng0.mapEng (fun e => { e with cmds := [k false] })).tile.eng.cmds = [k false] ∧ (k false).eng = .v ∧ (k false).done = false ∧ (k true).done = true ∧ (k false).sq = some (3, true, 5)) := by decide
/-- TransferMoves: a copy inside the 64-bit space to its last byte, and a source before its first byte; lists of an indexed side. -/
theorem witness_TransferMoves_space : inSpace ((x0.cap 1).cursor.toNat + (0 : Int)) (8 * 65535) ∧ inSpace ((2 : Int) ^ 64 - 8) 8 ∧ ¬ inSpace ((2 : Int) ^ 64 - 7) 8 ∧ ¬ inSpace ((x0.cap 1).cursor.toNat + ((0xFFFFFFFFF8#40).toInt)) 8
    ∧ x0.sideCap (x0.cap 1) ((x0.cap 1).cursor + (0xFFFFFFFFF8#40).signExtend 64) false = none ∧ inSpace ((x0.cap 1).cursor.toNat + (0x1FFFFFF#25).toNat) (256 * 16384)
    ∧ (∀ i < 1, inSpace ((x0.cap 1).cursor.toNat + ((0 : BitVec 40).toInt) + Spec.number (x0.tile.near.readN (0 + 4 * i) 4) * 4) 4) := by decide
/-- SendFenceWait: an address in the window of the accumulators and the first outside; a command that waits at a fence of V. -/
theorem witness_SendFenceWait_window : pair0.sideCap (pair0.cap 1) 0x400000 false = none ∧ 0x400000 ≤ (0x42FFFF#64).toNat ∧ (0x42FFFF#64).toNat < 0x430000 ∧ ¬ (0x430000#64).toNat < 0x430000 ∧ inSpace ((pair0.cap 1).cursor.toNat + (0x100 : Int)) 4
    ∧ (let k : Cmd := { eng := .x, idx := 8, words := 1, ts := 5, predTrue := true, rngs := [], waited := true, pos := 3 }
       let d (e : Eng) : Cmd := { eng := e, idx := 0, words := 1, ts := 4, predTrue := true, rngs := [] }
       let s (e : Eng) := x0.mapEng (fun g => { g with cmds := [d e] ++ [k] })
       (s .v).tile.eng.cmds = [d .v] ++ [k] ∧ k.eng = .x ∧ k.idx = (s .v).tile.eng.ringX.rp ∧ k.predTrue = true ∧ k.started = false ∧ k.caps = none ∧ k.began = false ∧ (∀ c ∈ (s .v).tile.eng.cmds, c.tried = false)
         ∧ (2#16).getLsbD 1 = true ∧ (∃ c ∈ [d .v], c.eng = .v ∧ c.predTrue = true ∧ c.performed = false ∧ c.ts < k.ts)
         ∧ (4#16).getLsbD 2 = true ∧ (∃ c ∈ [d .m], c.eng = .m ∧ c.predTrue = true ∧ c.performed = false ∧ c.ts < k.ts) ∧ (0xF#16).extractLsb' 4 12 = 0) := by decide
/-- PoolCommands: a pool that is away; addresses of the two sides. -/
theorem witness_PoolCommands_away : pool0.poolAway 6 = false ∧ (pool0.updP (fun p => { p with member := false })).poolAway 6 = true
    ∧ inSpace ((pool0.cap 1).cursor.toNat + (0x1000 : Int)) 64 ∧ inSpace ((pool0.cap 1).cursor.toNat + (0x1FFFF0 : Int)) 16
    ∧ (let t := pool0.updP (fun p => { p with member := false })
       t.EngineReady 0x3F 0x3F 0 ∧ t.poolSide (t.cap 5) 0 (1 * 0x40000) 0x800 0x40000 false = none) := by decide
/-- PeerCommands: no reservation that is asked for again; an x.sfence behind an entry of the pool, and behind a rejection under way. -/
theorem witness_PeerCommands_waits : (∀ r ∈ pool0.pkg.optics.resvs, r.launch = pool0.tile.handle → r.again = false) ∧ pool0.tile.disp.fenced = []
    ∧ inSpace ((pool0.cap 6).cursor.toNat + (0xFFF8 : Int)) 8
    ∧ (let t := pool0.updP (fun p => { p with poolCh := [{ obj := 6, op := .put 0 [], token := 0, src := pool0.tile.phys, pc := 0, eng := some 3, seq := 0 }] })
       (∀ m ∈ t.pkg.peerCh, m.src = t.tile.phys → t.reach m.target ≠ .no) ∧ ∃ m ∈ t.pkg.poolCh, m.src = t.tile.phys ∧ m.eng.isSome)
    ∧ (pool0.mapDisp (fun d => { d with fenced := [(0x4000, none)] })).tile.disp.fenced ≠ [] := by decide
/-- LoadsAndStoresPerform: a set with room, and one that is full and holds the line; an L2 slice with room; an uncached store under a line that L2 holds. -/
theorem witness_LoadsAndStoresPerform_room : ((lq []).tile.ord.set 4).length < 8
    ∧ (let s : State := { tile := { ord := { l1 := (List.range 8).map (fun i => { line := 4 + 128 * i, st := .s, dirty := [], tok := 0 }) } } }
       (s.tile.ord.line 4).isSome = true ∧ ¬ (s.tile.ord.set 4).length < 8)
    ∧ ({} : State).pkg.l2Victim 4 = none ∧ ({} : State).ownerKept 4 = []
    ∧ (let s : State := { pkg := { l2lines := [4] } }
       s.pkg.MemForm ∧ s.pkg.l2lines.contains (0x138 / 64) = true ∧ meetsRanges s.pkg.scrub (0x138 / 64 * 64) (0x138 / 64 * 64 + 64) = false) := by decide
/-- MarkersCachesWaits: a release with no record, with one line, with two; a line in M with one dirty byte; an older byte in L2; a marker before a command whose words
have all been appended. -/
theorem witness_MarkersCachesWaits_release : let r (rec : Option (List Nat)) : State := { tile := { ord := { lq := [⟨0, 0, .marker .rel 1⟩], sq := [⟨0, 0, .marker .rel 1⟩], relRec := rec, l1 := [{ line := 4, st := .m, dirty := [(0x100, 7)], tok := 0 }] } } }
    (1 : BitVec 2) ≠ 3 ∧ (r none).tile.ord.lq = [⟨0, 0, .marker .rel 1⟩] ∧ (r none).tile.ord.sq = [⟨0, 0, .marker .rel 1⟩]
    ∧ ((r none).tile.ord.relRec.getD (((r none).tile.ord.l1.filter (fun l => l.st = .m ∨ l.st = .o)).map (·.line))).length ≤ 1
    ∧ 1 < ((r (some [4, 5])).tile.ord.relRec.getD []).length ∧ [4].head? = some 4 ∧ ((r none).tile.ord.line 4).isSome = true ∧ 0x100 / 64 = 4 ∧ 0x100 < (r none).pkg.bound
    ∧ Cells.get? ({} : State).pkg.l2kept 0 = none ∧ ({ pkg := { l2kept := [(0, 1)] } } : State).pkg.MemForm ∧ Cells.get? ({ pkg := { l2kept := [(0, 1)] } } : State).pkg.l2kept 0 = some 1
    ∧ ({ eng := .v, idx := 0, words := 1, ts := 2, predTrue := true, rngs := [] } : Cmd).whole = true := by decide

/-! Later events -/

def okTry {α : Type} (x : Try α) : Bool :=
  match x with
  | .ok _ => true
  | .error _ => false
/-- A task that has ended with one held store. -/
def commit0 (h : HeldStore) : State :=
  { task0 with tile := { task0.tile with disp := { bind := some bind0, run := .ended }, task := { task0.tile.task with held := [h] } } }.updP (fun p => { p with launches := [{ launch1 .running .tasked with tasks := [taskR (.running 0) 0x3000000], begun := [0] }] })
/-- TaskEvents: a task that starts; a commit whose store has its place and one whose store has none; a launch with a faulted tile. -/
theorem witness_TaskEvents_start : let s := tasks0 [taskR (.running 1) 0x3000000, taskR .ready 0x3000100] .between
    let l := { launch1 .running .tasked with tasks := [taskR (.running 1) 0x3000000, taskR .ready 0x3000100] }
    s.tileQuiet s.tile = true ∧ s.pkg.launch bind0.launch.toNat = some l ∧ l.st = .running ∧ l.almond.cancel = false ∧ l.rc.kind = .tasked := by decide
theorem witness_TaskEvents_place : let s := commit0 ⟨0, 0x2000100, .pkgMem 0x2000100 true, [1, 2], none⟩
    s.tile.task.index = some 0 ∧ s.tile.disp.run = .ended ∧ s.tile.eng.quiescent = true ∧ s.coreQuiet = true ∧ s.tileQuiet s.tile = true ∧ s.tile.task.stop = false ∧ s.tile.task.deferred = []
    ∧ (∀ u ∈ s.tilesOf { launch1 .running .tasked with tasks := [taskR (.running 0) 0x3000000], begun := [0] }, u.disp.run ≠ .faulted) ∧ okTry s.placeTask = true
    ∧ (match s.taskPlace 0x2000100 with
       | .ok (u, .pkgMem pa true) => pa == 0x2000100 && u.pkg.host.isEmpty && decide (pa + 2 ≤ u.pkg.bound) && decide (Overlay.wf u.pkg.l2 = true) && u.allTiles.all (fun v => v.ord.l1.isEmpty)
       | _ => false) = true
    ∧ okTry (commit0 ⟨0, 0x3000000000, .pkgMem 0x1000 true, [1, 2], none⟩).placeTask = false
    ∧ (let f := s.mapDisp (fun d => { d with run := .faulted })
       ∃ u ∈ f.tilesOf (launch1 .running .tasked), u.disp.run = .faulted) := by decide
/-- The table's last entry fires into record0's launch. -/
def fire0 (clmask : BitVec 16) : State :=
  let s := record0 63
  { s.updP (fun p => { p with time := 630, tt := (Vector.replicate 64 ({} : TtEntry)).set 63 { en := true, clmask := clmask, launch := 1, recPA := 0x1000 }, regs := { p.regs with ttlen := 10 } }) with arg := { s.arg with ix := 63 } }
def fireL (s : State) : Launch :=
  let e := s.pkg.tt[(BitVec.ofNat 6 s.arg.ix).toFin]
  { (s.updP (fun p => p.updEntry (BitVec.ofNat 6 s.arg.ix) (fun e => { e with fired := some 630 }))).launchOf e.launch.toNat e.recPA with mask := e.clmask, tt := true }
def fireU (s : State) : State := (s.updP (fun p => p.updEntry (BitVec.ofNat 6 s.arg.ix) (fun e => { e with fired := some 630 }))).touchLaunch (fireL s)
set_option maxRecDepth 100000 in
/-- TaskEvents: a firing with a placement in its clusters, one with none, one whose handle is in use. -/
theorem witness_TaskEvents_fires : let s := fire0 1
    s.pkg.windows = [] ∧ s.pkg.inUse 1 = false ∧ s.pkg.tt[(BitVec.ofNat 6 63).toFin].fired = none ∧ (fireU s).pkg.resultOk (fireL s) = true
    ∧ ((fireU s).recChecks (fireL s) ((fireU s).acornPkg.homeN 0x1000 256)).find? (·.2) = none ∧ (fireL s).rc.ttslot = 63 ∧ (fireL s).rc.kind ≠ .tasked ∧ (fireU s).choosePlace (fireL s).rc 1 = some [(0, 0)] := by decide
set_option maxRecDepth 100000 in
theorem witness_TaskEvents_fires_waits : let s := fire0 2
    (fireU s).pkg.resultOk (fireL s) = true ∧ ((fireU s).recChecks (fireL s) ((fireU s).acornPkg.homeN 0x1000 256)).find? (·.2) = none ∧ (fireU s).choosePlace (fireL s).rc 2 = none := by decide
theorem witness_TaskEvents_displaced : let b : Bind := { bind0 with launch := 9 }
    let v : Launch := { launch1 .running .single with handle := 9 }
    let s : State := { tile := { disp := { bind := some b, run := .running } }, pkg := { launches := [v] } }
    s.tile.disp.bind = some b ∧ b.tt = false ∧ b.launch.toNat = v.handle ∧ s.pkg.launch 9 = some v ∧ v.st = .running ∧ (0, s.tile.phys) ∈ v.place ∧ v.handle ≠ 1
    ∧ (run0 (launch1 .running .single) .running).pkg.inUse 1 = true
    ∧ (let w : TtWindow := { entry := 1, handle := 1, clmask := 1, overrun := false, skipNext := false, ends := 640 }
       w.handle ≠ 0 ∧ (launch1 .queued .single).st ≠ .running ∧ (run0 (launch1 .running .single) .running).pkg.launch w.handle = some (launch1 .running .single)) := by decide
/-- EntriesAndSaves: a launch whose cancel waits and one without. DebugEvents: a halted tile with a bind. -/
theorem witness_EntriesAndSaves_cancelled : ({ launch1 .saved .single with cancelled := true } : Launch).cancelled = true ∧ (launch1 .saved .single).cancelled = false := by decide
theorem witness_DebugEvents_bound : let s : State := { tile := { disp := { bind := some bind0, run := .running, haltAt := some 5 } }, arg := { req := .acornF } }
    s.tile.phys < 256 ∧ s.arg.req = .acornF ∧ s.pkg.tiles = [] ∧ s.tile.disp.bind = some bind0 ∧ s.tile.disp.haltAt = some 5 ∧ s.tile.disp.run = .running ∧ s.tile.ord.nasWait = none ∧ s.tile.ord.hold = none := by decide
/-- PoolGate and Leases: a pool that is away; a tile without a run and one that runs; an object of DIRECT mode; a page in service to its last moment; a busy channel; a page that is
lapsed until FENCE passes its token, and one that FENCE has passed. -/
theorem witness_PoolGate_away : (gate0 (.put 0x40 [1]) 8 { id := 6 }).poolAway 6 = false ∧ ({ pkg := { member := false } } : State).poolAway 6 = true
    ∧ (RunSt.free ∈ [RunSt.free, .stopped, .faulted, .saved]) ∧ (RunSt.running ∉ [RunSt.free, .stopped, .faulted, .saved])
    ∧ ({ pool := [{ id := 6, leases := [⟨0, 0, true, 0, 0, 1000⟩] }], arg := { obj := 6 } } : State).channelBusy 6 = false ∧ (({ pool := [{ id := 6 }] } : State).obj 6).direct = false
    ∧ (({ pool := [{ id := 6, direct := true }] } : State).obj 6).direct = true ∧ (gate0 (.put 0x40 [1]) 8 { id := 6 }).channelBusy 6 = true
    ∧ (997999 + 2000 < 0 + 1000 * 1000 ∧ 0 + 1000 * 1000 ≤ 998000 + 2000) ∧ ((lease0 { id := 6 } 998000).pkg.frameOf 6 1).isSome = true := by decide
theorem witness_Leases_lapsed : let o (t : W64) : PoolObj := { id := 6, fence := 5, lapsed := [(1, t)] }
    (∃ l ∈ (o 5).lapsed, l.1 = 1 ∧ (o 5).fence.toNat ≤ l.2.toNat) ∧ ¬ (∃ l ∈ (o 4).lapsed, l.1 = 1 ∧ (o 4).fence.toNat ≤ l.2.toNat)
    ∧ (∀ f, (lease0 { id := 6 } 997999).pkg.frameOf 6 1 = some f → (lease0 { id := 6 } 997999).pkg.time + 2000 < f.grant + 1000 * f.ldur)
    ∧ (lease0 { id := 6 } 0).channelBusy 6 = false := by
  refine ⟨by decide, by decide, fun f hf => ?_, by decide⟩
  cases hf
  decide
/-- SproutAndPod: firmware in a handover; a deadline that stops READY; a renewal in time with a free channel. -/
theorem witness_SproutAndPod_quiet : ({ pkg := { fw := { state := 2 } }, arg := { req := .acornF } } : State).pkg.fw.state = 2 ∧ ({ arg := { req := .acornF } } : State).arg.req = .acornF ∧ ¬ ({} : State).pkg.fw.state = 2
    ∧ Spec.number ((sched0 1 5 0 1).pkg.homeN 0x1030 8) ≠ 0 ∧ Spec.number ((sched0 1 5 0 1).pkg.homeN 0x1030 8) ≤ (sched0 1 5 0 1).pkg.time
    ∧ (renew0 500000).pkg.time + 2000 < 0 + 1000 * 1000 ∧ (renew0 500000).channelBusy 6 = false := by decide
/-- Links: buffers that meet the rule, to the last flit, and some that miss it by one; a window of codewords that is bad and one that is not; a failed engine whose sibling has failed
too; an endpoint without a path for 1 ms and one unit less. -/
theorem witness_Links_bufs : (∀ b ∈ List.replicate 4 (175 + 64, 127 + 0, 63), b.2.1 + (112 * 512 + 511) / 512 ≤ b.1 ∧ b.2.2 + 64 ≤ b.2.1) ∧ ¬ (∀ b ∈ List.replicate 4 (238, 127, 63), b.2.1 + (112 * 512 + 511) / 512 ≤ b.1 ∧ b.2.2 + 64 ≤ b.2.1)
    ∧ (List.replicate 4 (239, 127, 63)).length = 4 ∧ (let p : Port := { winFrom := 5, winAll := 9999, winBad := 1 }
       p.winFrom + 1000000 ≤ 1000005 ∧ p.winAll < 10000 * p.winBad ∧ ¬ p.winFrom + 1000000 ≤ 1000004 ∧ ¬ (10000 : Nat) < 10000 * 1)
    ∧ ({ bufs := List.replicate 4 { size := 239, xoff := 127, xon := 63 } } : Port).bufs[(3 : BitVec 2).toNat]? = some { size := 239, xoff := 127, xon := 63 } := by decide
def engs0 (dead : Bool) : State := { pkg := { optics := { ports := List.replicate 32 { eng := 7, state := 2 }, engs := List.replicate 8 { dead := dead } } }, arg := { ix := 7, good := false } }
theorem witness_Links_engines : (engs0 false).arg.good = false ∧ ((engs0 false).pkg.optics.engs[7]?).map (·.dead) = some false ∧ ((engs0 true).pkg.optics.engs[6]?).map (·.dead) = some true
    ∧ ((engs0 false).pkg.optics.ports[31]?).map (·.eng) = some 7 ∧ 3 ≤ (({ pkg := { optics := { ports := List.replicate 3 { eng := 7, state := 0 } } } } : State).pkg.optics.ports.filter (fun p => p.eng == 7 && p.state == 0)).length := by decide
theorem witness_Links_path : let s (t : Nat) : State := { pkg := { time := t, optics := { noPath := [(1, 7)] } }, arg := { pkg := 1 } }
    (∃ t0, (s 1000007).pathless 1 = some t0 ∧ t0 + 1000000 ≤ 1000007) ∧ 1 ∉ (s 0).pkg.optics.unreachable ∧ ¬ (7 + 1000000 ≤ 1000006) := ⟨⟨_, rfl, by decide⟩, by decide, by decide⟩
/-- SlotsAndPeers: a port that sends again what is marked unsent, and one that sends a new codeword; TIME since the last slew. -/
theorem witness_SlotsAndPeers_sends : let p : Port := { state := 2, lit := [(1, 63)], replay := [{ lam := 63, seq := 5, sent := false }] }
    (∃ x ∈ p.lit, x.2 = (63 : BitVec 6).toNat) ∧ 2 ≤ p.state ∧ p.paused = [] ∧ p.replay = [{ lam := 63, seq := 5, sent := false }] ∧ ({ state := 2 } : Port).replay = []
    ∧ min 100 ((1000000 - 0) / 10000) = 100 ∧ ({} : State).pkg.synced = 0 := ⟨by decide, by decide, rfl, rfl, rfl, by decide, rfl⟩
/-- SlotsAndPeers: a flit of a channel that another port still has a codeword of, and of one that none has. -/
theorem witness_SlotsAndPeers_path : let f : Flit := { kind := .request (some 7), bytes := 0 }
    let o : Optics := { ports := [{ state := 2 }, { state := 2, replay := [{ lam := 0, seq := 0, sent := true, flits := tenFlits [f] }] }] }
    f.chan = some (.pool 7) ∧ (∃ (j : Nat) (r : Port), o.ports[j]? = some r ∧ ∃ c ∈ r.replay, ∃ h ∈ c.flits.toList, h.chan = some (.pool 7)) ∧ o.elsewhere 0 0 (.pool 7) = true
      ∧ o.elsewhere 0 0 (.pool 8) = false ∧ (∀ g ∈ [({ kind := .response } : Flit)], g.chan = none)
      ∧ (let p : Package := { dir := [{ index := 0, valid := true, direct := true, ldur := 1000, node := 3, objid := 7 }], optics := { ports := [{ state := 2, lit := [(1, 5)], dest := [(5, 1027)] }] } }
         p.leads 0 5 (.pool 7) = true ∧ p.leads 0 5 (.pool 8) = false ∧ ((0 : BitVec 6) = 0 ∨ ∃ y ∈ [((1 : Nat), (5 : Nat))], y.2 = (0 : BitVec 6).toNat)) :=
  ⟨rfl, ⟨1, _, rfl, _, .head _, _, .head _, rfl⟩, by decide, by decide, by decide, by decide, by decide, .inl rfl⟩
/-- SlotsAndPeers: a package that has no path to the one in focus; a command to a package without a path waits. -/
theorem witness_SlotsAndPeers_away : let s : State := { peers := [{ num := 1 }], arg := { pkg := 1 } }
    (s.package s.arg.pkg).isSome = true ∧ s.arg.pkg ≠ s.pkg.num ∧ (s.package s.arg.pkg).map (fun p => s.hasPath p s.pkg.num) = some false ∧ s.reach 1 = .wait := by decide
/-- FirmwareAndLife: a version below MINVER and MINVER itself; a cluster's histograms and values at the ends of their bins. -/
theorem witness_FirmwareAndLife_bins : ((4#16).toNat < (5#16).toNat ∧ (5#16).toNat ≤ (5#16).toNat) ∧ (({} : State).pkg.life.clusters[0]?).map (·.suppHist.length) = some 8
    ∧ min 7 ((39 - 40) / 10) = 0 ∧ min 7 ((49 - 40) / 10) = 0 ∧ min 7 ((50 - 40) / 10) = 1 ∧ min 7 ((120 - 40) / 10) = 7 ∧ min 7 ((540 - 550) / 20) = 0 ∧ min 7 ((700 - 550) / 20) = 7 := by decide
/-- HostEvents: a mailbox while firmware quiesces and hands over; the first record that names an object. -/
theorem witness_HostEvents_quiet : (2 = 2 ∨ 2 = 3) ∧ ({} : State).pool = [] ∧ ({ host0 with pkg := { host0.pkg with fw := { state := 3 } } } : State).pkg.fw.state = 3
    ∧ (1 : Nat) ≤ max 1 (min 0 0x400000) ∧ max 1 (min 0x400001 0x400000) = 0x400000 := by decide
/-- FirmwareAndLife: a boundary that may move; a check that is due after 24 h and one unit before; three SRAM errors of a tile. -/
theorem witness_FirmwareAndLife_ageing : let k (t : Option Nat) : ClusterLife := { ({} : ClusterLife) with checked := t }
    (∀ t0, (k none).checked = some t0 → t0 + 86400000000000 ≤ 0) ∧ (∀ t0, (k (some 1)).checked = some t0 → t0 + 86400000000000 ≤ 86400000000001) ∧ ¬ (∀ t0, (k (some 1)).checked = some t0 → t0 + 86400000000000 ≤ 86400000000000)
    ∧ ({} : State).pkg.launches = [] ∧ 0x200000000 % 0x200000000 = 0
    ∧ 3 ≤ (([(255, 0), (255, 1), (255, 2)] : List (Nat × Nat)).filter (fun e => e.1 == 255 && decide (86399999999999 < e.2 + 86400000000000))).length := by
  refine ⟨?_, ?_, ?_, rfl, rfl, by decide⟩
  · intro t0 h
    exact nomatch h
  · intro t0 h
    cases h
    decide
  · intro h
    exact absurd (h 1 rfl) (by decide)
/-- StepRunsInstruction: tlbi with FORM 0b11; an engine whose words have no error and one whose words have one. -/
theorem witness_StepRunsInstruction_tlbi : (match decode 0x00A8C00003000000 with
    | .error (.tlbiForm _) => true
    | _ => false) = true ∧ ({} : State).tile.core.level.atLeastK = false ∧ (kernK {}).tile.core.level.atLeastK = true ∧ ({} : State).performs h0 = true ∧ ({} : State).performs ⟨.seq, 8, 0⟩ = false := by decide
theorem witness_StepRunsInstruction_words : let s := (State.reset.withFetchWord 256 0x89FFF000000000000000000000000000)
    s.advance.wordsBad .x = none ∧ ((s.advance.mapNear (fun n => { n with ecc := [s.tile.eng.ringX.base.toNat / 64] })).wordsBad .x).isSome = true := by decide

/-! ### More clauses of the same obligations -/

/-- ScalarFloat: finite operands, a root, zeros of both signs, infinities; a rounding between two codes and one past the largest. -/
theorem witness_ScalarFloat_finite : let one := fmt32.decode 0x3F800000
    one.isFin = true ∧ 0 < Spec.value one ∧ Spec.value (fmt32.decode 0x80000000) = 0 ∧ (fmt32.decode 0x80000000).neg = true ∧ Spec.value one - Spec.value one = 0 ∧ Spec.value one * Spec.value one ≠ 0
    ∧ (Spec.mag fmt32 0x3F800000 < 3 / 2 ∧ ¬ 3 / 2 < Spec.mag fmt32 0x3FC00000 ∧ Spec.mag fmt32 0x3FC00000 = 3 / 2 ∧ ¬ (Spec.mag fmt32 0x3FC00001 < 3 / 2 ∨ Spec.mag fmt32 0x3FC00001 = 3 / 2))
    ∧ fmt32.maxCode < 0x7F800000 ∧ Spec.mag fmt32 0x7F800000 = 2 ^ 128 ∧ (one.src true true).isFin = true := by decide +kernel
theorem witness_ScalarFloat_infinite : fmt32.decode 0x7F800000 = .inf false ∧ fmt64.decode 0xFFF0000000000000 = .inf true ∧ (fmt32.decode 0x7FC00000).isNan = true ∧ (fmt32.decode 0x7F800001).isSig = true
    ∧ Spec.value (fmt32.decode 0x3F800000) < Spec.value (fmt32.decode 0x7F800000) ∧ (∀ c : BitVec 2, c = 0 ∨ c = 1 ∨ c = 2 ∨ c = 3) := by decide +kernel
/-- Conversions: inside the range of int32, above and below it; a value that is no integer; a zero and a number of each source. -/
theorem witness_Conversions_finite : Spec.toInt .rne (Spec.value (fmt32.decode 0x40200000)) = 2 ∧ Spec.value (fmt32.decode 0x40200000) ≠ 2
    ∧ (2 : Int) ^ 31 - 1 < Spec.toInt .rz (Spec.value (fmt64.decode 0x41E0000000000000)) ∧ Spec.toInt .rd (Spec.value (fmt64.decode 0xC1E0000000200001)) < -(2 : Int) ^ 31
    ∧ Spec.toInt .ru (Spec.value (fmt32.decode 0xBF000000)) = 0 ∧ Spec.value (fmt64.decode 0x8000000000000000) = 0 ∧ (fmt32.decode 1).isFin = true
    ∧ (0xFFFFFFFF#64).toNat % 2 ^ 32 ≠ 0 ∧ 2 ^ (32 - 1) ≤ (0xFFFFFFFF#64).toNat % 2 ^ 32 := by decide +kernel

/-- AccessChecks: a page table at 0x10000 with the first-level entry `e1` for the first 8 GiB and, under it, the second-level entry `e2`. -/
def walk0 (e1 e2 : W64) : State :=
  let put (a : Nat) (w : W64) : Memory := ((leBytes 8 w.toNat).mapIdx (fun i b => (a + i, b))).filter (fun c => c.2 != 0)
  { tile := { sys := { ptb := 0x10000 } }, pkg := { mem := put 0x10000 e1 ++ put 0x40000 e2 } }
def flag (k : Nat) : W64 := BitVec.ofNat 64 (2 ^ k)
/-- AccessChecks: no local address; an entry that is not present, one with a reserved field, a large one out of alignment, a large one with each permission, a
table; the same of the second level; an address that no memory has. -/
theorem witness_AccessChecks_walk :
    let e1 (s : State) : W64 := BitVec.ofNat 64 (Spec.number (s.pkg.homeN (s.tile.sys.ptb.toNat / 2 ^ 16 * 2 ^ 16 % 2 ^ 52 + 8 * 0) 8))
    let e2 (s : State) : W64 := BitVec.ofNat 64 (Spec.number (s.pkg.homeN ((e1 s).toNat / 2 ^ 18 % 2 ^ 34 * 2 ^ 18 + 8 * 0) 8))
    let big := flag 63 ||| flag 62
    let table := flag 63 ||| 0x40000
    (walk0 big 0).tile.ord.tlb = [] ∧ (walk0 big 0).pkg.l2tlb = [] ∧ (walk0 big 0).pkg.ecc = []
    ∧ ((0x0100000000000000#64).toNat / 2 ^ 56 % 2 ^ 8 ≠ 0 ∧ (0x0000400000000000#64).toNat / 2 ^ 46 % 2 ^ 10 = 1 ∧ (0x00FFC00000000000#64).toNat / 2 ^ 46 % 2 ^ 10 = 0x3FF)
    ∧ (e1 (walk0 0 0)).getLsbD 63 = false ∧ (e1 (walk0 (big ||| flag 52) 0)).toNat / 2 ^ 52 % 4 ≠ 0 ∧ (e1 (walk0 (big ||| 0x40000) 0)).toNat / 2 ^ 18 % 2 ^ 15 ≠ 0
    ∧ (e1 (walk0 (flag 63 ||| flag 61) 0)).getLsbD 62 = false ∧ (e1 (walk0 (flag 63 ||| flag 61) 0)).getLsbD 61 = true
    ∧ e1 (walk0 (big ||| flag 59 ||| flag 58 ||| flag 54) 0) = big ||| flag 59 ||| flag 58 ||| flag 54 ∧ e2 (walk0 table 0) = 0 ∧ e2 (walk0 table (flag 63)) = flag 63
    ∧ e2 (walk0 table (big ||| flag 59)) = big ||| flag 59 ∧ (walk0 table (big ||| flag 59)).pkg.paKind 0x3FFFF ≠ .none ∧ (walk0 table 0).pkg.paKind 0x4000000000000 = .none := by decide +kernel

/-- TakingAFault: an abort in a running task, its 64th, one that a stop has reached. -/
theorem witness_TakingAFault_abort : let s := (tasks0 [taskR (.running 0) 0x3000000] .running).mapTask (fun t => { t with index := some 0 })
    FaultCode.pageNotPresent.kind = .abort ∧ s.tile.par.kind ≠ .single ∧ s.tile.task.index = some 0 ∧ (s.pkg.launch s.tile.handle).map (·.tasks) = some [taskR (.running 0) 0x3000000]
    ∧ (taskR (.running 0) 0x3000000).aborts + 1 < 64 ∧ 64 ≤ ({ taskR (.running 0) 0x3000000 with aborts := 63 } : TaskRec).aborts + 1 ∧ s.tile.task.stop = false ∧ (s.mapTask (fun t => { t with stop := true })).tile.task.stop = true := by decide
/-- KernelWords: no stack has left the memory map, and one below the boundary has. -/
theorem witness_KernelWords_gone : ({} : State).pkg.life.gone = [] ∧ ({ pkg := { life := { gone := [3] } } } : State).pkg.stackGone 0x3800000000 = true ∧ (0x3800000000#64).toNat + 0x370000 ≤ ({} : State).pkg.bound := by decide
/-- VectorOtherCommands: a push of two words into a queue with room for one. -/
theorem witness_VectorOtherCommands_part : let t := eng0.mapEng (fun e => { e with condq := [1, 2, 3] })
    vr t specCmp (vc 4 0x10000000 [rg 0 65, rg 0x100 65]) = true ∧ t.tile.eng.condq.length ≤ 4 ∧ 4 < t.tile.eng.condq.length + 2 := by decide
/-- EngineCommandStart: an element of a region in cluster memory, and no write of the command queued. -/
theorem witness_EngineCommandStart_cluster : eng0.tile.eng.writesOf .v 0 = [] ∧ clusterBase ≤ ((rg 0x1000000 1).place 32 0).1 ∧ 0 ≤ (rg 0x1000000 1).firstByte 32 0 := by decide
/-- MatrixCommands: descriptors 1 and 2 of one int8 and one FP16 element behind c1, 3 of FP32, 4 sealed with a key and 5 sealed without one. -/
def mat0 : State :=
  let d (w0 : W64) (k : Bool) : Sd := { w := #v[w0, 0x0001000100000000, 0, 0, 0, 0, 0, 0], keyed := k, pol := if k then 9 else 0 }
  let s := (x0.setCap 7 { typ := 5, perm := 0xFE0, base := 0x2000000, len := 0x1000, cursor := 0, pol := 9, tag := true }).mapEng (fun e => { e with sds :=
    ((((e.sds.set 1 (d 0x1900000000000000 false)).set 2 (d 0x1300000000000000 false)).set 3 (d 0x1000000000000000 false)).set 4 (d 0x7900000000000000 true)).set 5 (d 0x7900000000000000 false) })
  { s with tile := { s.tile with near := { s.tile.near with kinds := (s.tile.near.kinds.set 95 .int).set 96 .fp } } }
def one1 (r : Try (State × Fill)) : Bool :=
  match r with
  | .ok (_, .plain [[_]]) => true
  | _ => false
def both1 (r : Try (State × Fill × Fill)) : Bool :=
  match r with
  | .ok (_, .plain [[_]], .plain [[_]]) => true
  | _ => false
set_option maxRecDepth 100000 in
theorem witness_MatrixCommands_steps : let a := mat0.sd 1
    let b := mat0.sd 2
    let m : MStep := ⟨.mma, mc false 95, [], [], 0⟩
    0 ≤ m.blk [] ∧ m.blk [] ≤ 95 ∧ 0 ≤ m.blkA [] ∧ m.blkA [] ≤ 95
    ∧ (9 ≤ a.fmt ∧ a.fmt ≤ 0xB) ∧ ¬ 9 ≤ b.fmt ∧ mat0.blockKind false 95 = .int ∧ mat0.blockKind true 0 = .fp ∧ mat0.blockKind false 0 = .raw
    ∧ (a.sfmt = 0 ∧ 8 ≤ a.bits ∧ a.fmt < 0xC ∧ 0 < a.rows ∧ a.rows ≤ 16 ∧ 0 < a.cols) ∧ (b.sfmt = 0 ∧ 8 ≤ b.bits ∧ b.fmt ∈ [0, 2, 3] ∧ b.cols ≤ 16 ∧ b.rows = 1 ∧ b.cols = 1) ∧ (mat0.sd 3).fmt = 0
    ∧ both1 (mat0.fillChecks 0 (some a) a []) = true ∧ both1 (mat0.fillChecks 0 (some b) b []) = true ∧ one1 (mat0.fillCheck 0 (mat0.sd 3) [] false false) = true ∧ one1 (mat0.fillCheck 0 (mat0.sd 3) [] true false) = true
    ∧ (outElem 9 .fp 0).isNone = true ∧ (outElem 0 .fp 0).isNone = false ∧ mat0.tile.MemForm ∧ (List.replicate 256 0).length = 256 ∧ (95 < 96 ∧ (true ≠ false ∨ 94 ≠ 95)) := by decide
/-- A sealed stream without leave to open one, with another policy, without the capability's permission, behind a good header and not; an element in and out of the
payload; an element and special values of mma. -/
theorem witness_MatrixCommands_sealed : mat0.sealedStream (mat0.sd 4) = true ∧ mat0.sealedStream (mat0.sd 5) = true ∧ (mat0.sd 4).keyed = true ∧ (mat0.sd 4).pol = (mat0.cap (mat0.sd 4).cap).pol ∧ (mat0.sd 5).keyed = false
    ∧ isOk (mat0.sealedBytes (mat0.cap 7) 0x2000000 0x14) = true
    ∧ (∃ x r, (mat0.sd 4).elemAcc (mat0.cap 7) [] ++ (mat0.sd 4).scaleAcc (mat0.cap 7) [] = [] ++ x :: r ∧ x.1 < 0x2000000 + 0x100)
    ∧ ({ mat0.cap 7 with perm := 0x7E0 } : Cap).perm.getLsbD 11 = false :=
  ⟨by decide, by decide, by decide, by decide, by decide, by decide, ⟨_, _, rfl, by decide⟩, by decide⟩
theorem witness_MatrixCommands_sums : (∃ c, fmt32.decode 0x3F800000 = fmt32.decode c) ∧ (fmt32.decode 0x7FC00000).isNan = true ∧ fmt32.decode 0xFF800000 = .inf true
    ∧ (Spec.value (fmt32.decode 0x80000000) = 0 ∧ (fmt32.decode 0x80000000).neg = true) ∧ Spec.value (fmt32.decode 0x3F800001) - Spec.value (fmt19.decode 0x1FC00) ≠ 0
    ∧ Spec.value (fmt32.decode 0x3F800000) - Spec.value (fmt19.decode 0x1FC00) = 0 := ⟨⟨_, rfl⟩, by decide +kernel⟩
/-- A segment whose tag is the one computed, and one whose tag has another length. -/
theorem witness_MatrixCommands_segment (d : Sd) (h : SealHdr) :
    (∃ tag, (gcmDecrypt (beBytes 32 d.key.toNat) (beBytes 6 h.objid ++ beBytes 4 0 ++ beBytes 2 h.version) h.aad []).2.take 8 = tag)
    ∧ (gcmDecrypt (beBytes 32 d.key.toNat) (beBytes 6 h.objid ++ beBytes 4 0 ++ beBytes 2 h.version) h.aad []).2.take 8 ≠ List.replicate 9 0 := by
  refine ⟨⟨_, rfl⟩, fun e => ?_⟩
  have := congrArg List.length e
  rw [List.length_take, List.length_replicate] at this
  omega
/-- TransferMoves: near lines that can be read and written; a destination before the first byte of the space; an index list of one entry past its end and one of
another side that fails; disjoint places and a place written twice; a move to shared memory. -/
theorem witness_TransferMoves_sides : x0.sideGuard ⟨x0.cap 1, words8 0x1FFFF8 1, false⟩ 8 = none ∧ x0.sideGuard ⟨x0.cap 2, words8 0x2000000 1, true⟩ 8 = none
    ∧ x0.sideCap (x0.cap 1) ((x0.cap 1).cursor + (0xFFFFFFFFF8#40).signExtend 64) true = none
    ∧ 0x200000 < ((0xFFFE000000 : BitVec 40).extractLsb' 25 15).toNat * 64 + 4 * 33 ∧ ¬ 0x200000 < ((0xFFFE000000 : BitVec 40).extractLsb' 25 15).toNat * 64 + 4 * 16
    ∧ (x0.sideFault ⟨x0.cap 1, [0x200000], false⟩ 4).isSome = true
    ∧ (∀ a ∈ [0, 8], a + 8 ≤ clusterBase) ∧ ([0, 8] : List Nat).length = [16, 16].length ∧ (∀ j, 1 < j → j < 2 → (16 : Nat) < 0 ∨ 0 ≤ 16)
    ∧ (∀ d ∈ [Loc.pkgMem 0x100 true, .own 0x1000000], d.shared = true) :=
  ⟨by decide, by decide, by decide, by decide, by decide, by decide, by decide, rfl, fun _ _ _ => .inr (Nat.zero_le _), by decide⟩
/-- SendFenceWait: a send and a word whose near lines are whole; commands of V and M with an access in their path; an arrival below the completion words, at a tile with
a semaphore below its bound. -/
theorem witness_SendFenceWait_arrives : pair0.sideGuard ⟨pair0.cap 1, words8 0x1FFFF8 1, false⟩ 8 = none ∧ pair0.sendGuard (xc 1 0x1FFFF8 1 0x1EFFB8 1) = none ∧ pair0.sideGuard ⟨pair0.cap 1, [0x100], false⟩ 4 = none
    ∧ (let d (e : Eng) : Cmd := { eng := e, idx := 0, words := 1, ts := 4, predTrue := true, rngs := [], path := true }
       (d .v).path = true ∧ (d .m).path = true ∧ (d .v).predTrue = true ∧ (d .m).performed = false)
    ∧ 0x1EFFB8 + (List.replicate 8 (1 : Byte)).length ≤ 0x1EFFC0
    ∧ (match pair0.tileAt 1 with
       | some r => decide (Memory.wf r.near.mem = true) && decide (r.eng.sems[31 % 32] ≠ 0xFFFF) && r.bufs.toList.all (fun b => !b.v)
       | none => false) = true := by decide
/-- PoolCommands: each side that fails, of a read, of a write, of an atomic and of the page commands; near lines that are whole; a renewal that is refused. -/
theorem witness_PoolCommands_sides : (pool0.plainSide ⟨pool0.cap 1, words8 0x200000 8, true⟩).isSome = true ∧ (pool0.poolSide (pool0.cap 5) 0x3FFC8 64 0x400 64 false).isSome = true
    ∧ (pool0.poolSide (pool0.cap 4) 0x3FFFC 8 0xD00 8 true).isSome = true ∧ (pool0.poolSide (pool0.cap 5) 0x40000 (1 * 0x40000) 0x800 0x40000 false).isSome = true ∧ (pool0.poolSide (pool0.cap 5) 8 (1 * 0x40000) 0x400 0x40000 false).isSome = true
    ∧ pool0.sideGuard ⟨pool0.cap 1, words8 0x1000 8, true⟩ 8 = none ∧ pool0.sideGuard ⟨pool0.cap 1, words8 0x1FFFF0 2, false⟩ 8 = none ∧ pool0.sideGuard ⟨pool0.cap 1, words8 0x1FFFF0 2, true⟩ 8 = none
    ∧ (let e := ({ pool0 with pool := [{ id := 6 }] } : State).begun .x
       (e.renewPages 6 [0]).2 = some 0 ∧ (e.renewPages 6 [0]).1.tile.eng.cmds = e.tile.eng.cmds) := by decide
/-- PeerCommands: a type that is none of a collective's; a party that starts CTO after another and one that does not; a party that is away; a reservation that is not granted at its
timeout and before it; a write that a failed package has lost. -/
theorem witness_PeerCommands_late : [4, 9, 0xA, 0xB].contains (0x10#6).toNat = false ∧ [4, 9, 0xA, 0xB].contains (4#6).toNat = true
    ∧ pool0.sideGuard ⟨pool0.cap 1, words8 0 1, false⟩ 8 = none ∧ pool0.sideGuard ⟨pool0.cap 1, words8 0 1, true⟩ 8 = none ∧ pool0.sideGuard ⟨pool0.cap 1, [0x1FFFF8], false⟩ 8 = none
    ∧ pool0.pkg.colls.find? (fun y => y.phys == pool0.tile.phys && y.idx == 8 && y.away.isNone && !y.finished) = none
    ∧ (let t := pool0.updP (fun p => { p with colls := [party0] })
       t.pkg.colls.find? (fun y => y.phys == t.tile.phys && y.idx == 8 && y.away.isNone && !y.finished) = some party0 ∧ (party0.started + 10000000 ≤ 10000000 ∧ ¬ 9999999 ≥ party0.started + 10000000)
       ∧ (∀ w ∈ [party0], ∀ v ∈ party0 :: [party0], w.started < v.started + pool0.tile.sys.cto.toNat) ∧ (∃ w ∈ [{ party0 with started := 10000000 }], ∃ v ∈ party0 :: [party0], v.started + pool0.tile.sys.cto.toNat ≤ w.started)
       ∧ (∃ w ∈ [{ party0 with away := some 1 }], w.away ≠ none) ∧ party0.away = none ∧ [party0].length < 2)
    ∧ (let r : Resv := { id := 1, launch := 1, port := 32, dest := 1, slots := 8, granted := false, since := 5, cto := 10 }
       r.granted = false ∧ 14 < r.since + r.cto ∧ r.since + r.cto ≤ 15)
    ∧ (let t := pool0.updP (fun p => { p with peerCh := [{ src := 0, target := 1, addr := 0, tenant := 0, bytes := [1], eng := 8, lost := true }] })
       (∃ m ∈ t.pkg.peerCh, m.src = t.tile.phys ∧ t.peerLost m = true) ∧ ∀ m ∈ pool0.pkg.peerCh, m.src = pool0.tile.phys → pool0.peerLost m = false) := by decide
/-- EngineEvents: a started command with two queued writes, of the same aligned word and of another. -/
theorem witness_EngineEvents_writes : let c : Cmd := { eng := .m, idx := 0, words := 1, ts := 0, predTrue := true, rngs := [], started := true, writes := [(.own 0x1000000, [1]), (.own 0x1000004, [2]), (.own 0x1000008, [3])] }
    let s := ({ eng0 with arg := { eng := .m, idx := 0, count := 3 } } : State).mapEng (fun e => { e with cmds := [c] }) |>.mapDisp (fun d => { d with run := .running })
    s.tile.eng.cmds = [c] ∧ s.arg.eng = c.eng ∧ s.arg.idx = c.idx ∧ c.move = none ∧ c.started = true ∧ s.tile.disp.run = .running ∧ c.writes[s.arg.count % c.writes.length]? = some (.own 0x1000000, [1])
      ∧ ({ c with writes := [], performed := true } : Cmd).writes = [] := by decide
/-- MarkersCachesWaits: a line of the record that another tile has taken over; no other owner; a command with an access in the path. -/
theorem witness_MarkersCachesWaits_owner : let l : L1Line := { line := 4, st := .m, dirty := [(0x100, 7)], tok := 0 }
    let s : State := { tile := { ord := { relRec := some [4] } }, pkg := { tiles := [{ phys := 1, ord := { l1 := [l] } }] } }
    (s.tile.ord.relRec.getD []).head? = some 4 ∧ s.tile.ord.line 4 = none ∧ s.dirtyOf 4 = some (1, l) ∧ l.line = 4 ∧ l.dirty = [(0x100, 7)] ∧ 0x100 / 64 = 4 ∧ 0x100 < s.pkg.bound
    ∧ (∀ u ∈ ({} : State).pkg.tiles, ∀ y, u.ord.line 4 = some y → y.st ≠ .m ∧ y.st ≠ .o) ∧ (∀ y ∈ ({} : State).pkg.host, y.line = 4 → y.st ≠ .m ∧ y.st ≠ .o)
    ∧ ({ eng := .v, idx := 0, words := 1, ts := 2, predTrue := true, rngs := [], path := true } : Cmd).path = true :=
  ⟨rfl, rfl, rfl, rfl, rfl, by decide, by decide, fun _ h => (nomatch h), fun _ h => (nomatch h), rfl⟩
/-- LaunchEvents: a launch that a host's write has stopped, with and without another fault; one whose cancel was accepted. -/
theorem witness_LaunchEvents_hostFault : let l : Launch := { launch1 .running .single with hostFault := true }
    l.hostFault = true ∧ (run0 l .running).tile.disp.fault = none ∧ (run0 l .running).pkg.launch (run0 l .running).arg.handle = some l ∧ (launch1 .running .single).hostFault = false
    ∧ (launch1 .running .single).cancelling = false ∧ (run0 l .running).tile.disp.run ≠ .faulted := by decide
/-- TaskEvents: a firing for a saved launch, one that is bound again and one without a placement; a launch whose cancel does not stop it. -/
theorem witness_TaskEvents_saved : let l : Launch := { launch1 .saved .single with tt := true, rc := { kind := .single, ntile := 1, nclus := 1, nstage := 1, tsymm := 1, csymm := 1 } }
    let s := (tt0 630).updP (fun p => { p with launches := [l] })
    s.pkg.windows = [] ∧ s.pkg.launch 1 = some l ∧ l.again = [] ∧ s.choosePlace l.rc 1 = some [(0, 0)] ∧ s.choosePlace l.rc 2 = none ∧ ({ l with again := [(0, 0)] } : Launch).again ≠ [] ∧ s.tile.disp.slot.length < 4
    ∧ (∃ k, (k, s.tile.phys) ∈ [(0, 0)]) ∧ l.almond.cancel = false :=
  ⟨rfl, rfl, rfl, by decide, by decide, by decide, by decide, ⟨0, .head _⟩, rfl⟩
/-- EntriesAndSaves: a launch that a cancel stops; a faulted tile of a class S launch; an area at a multiple of 256 KiB; a resume without a placement, and one of a whole area. -/
theorem witness_EntriesAndSaves_more : let l : Launch := { launch1 .saving .tasked with almond := { cancel := true } }
    l.rc.kind ≠ .estimating ∧ l.almond.cancel = true ∧ (run0 (launch1 .saving .tasked) .faulted).tile.disp.run = .faulted ∧ ({ launch1 .saving .single with area := 0x40000 } : Launch).area % 0x40000 = 0
    ∧ ({} : State).tile.ord.l1 = [] ∧ ({} : State).pkg.host = [] ∧ (launch1 .saved .single).again = [] ∧ (launch1 .saved .single).cancelling = false ∧ ({ launch1 .saved .single with cancelled := true } : Launch).cancelling = true
    ∧ (launch1 .saved .single).handle < 65536 ∧ ({} : State).tile.disp.slot = [] ∧ ({ savedTile0 with form := 0 } : SavedTile).form = 0
    ∧ ({} : State).choosePlace { (launch1 .saved .single).rc with ntile := 2, nclus := 1, nstage := 1, tsymm := 1, csymm := 1 } 0xFFFF = none
    ∧ (∀ n < 16, ((BitVec.ofNat 64 (Spec.number (({} : State).pkg.homeN (0x40000 + (0x880 + 16 * n)) 8))).getLsbD 63) = false) := by decide
/-- DebugEvents: a sealed capability of the tenant of the one session; an access that CODE_WRITE stops and one that CAP_BOUNDS does. -/
theorem witness_DebugEvents_sealed : let s := (dbg0 0xFFF 5 2).updP (fun p => { p with sessions := [{ num := 1, tenant := 0 }] })
    let m := (dbg0 0xFFF 1 2).updT (fun t => { t with near := { t.near with locked := [(0x1FFFC0, 0x200000)] } })
    s.debugCheck (s.cap 1) 0x1FFFF8 .st = true ∧ s.pkg.sessions = [{ num := 1, tenant := 0 }] ∧ (0 : BitVec 16).toNat = (s.cap 1).tenant.toNat
    ∧ m.debugCheck (m.cap 1) 0x1FFFF8 .st = true ∧ (match m.debugLoc (m.cap 1) 0x1FFFF8 .st with | .fault fi => fi.code == .codeWrite | _ => false) = true
    ∧ (let v := dbg0 0xFFF 2 2
       v.debugCheck (v.cap 1) 0x1FFFF8 .ld = true ∧ (v.cap 1).typ ≠ 4 ∧ (v.cap 1).typ ≠ 5 ∧ (match v.debugLoc (v.cap 1) 0x1FFFF8 .ld with | .fault fi => fi.code != .codeWrite | _ => false) = true) :=
  ⟨by decide, rfl, rfl, by decide⟩
/-- PoolGate: an entry of a launch that is bound, of one that is not, and of none; an open object; a lease that serves and one that does not. -/
theorem witness_PoolGate_launch : let e (h : Option Nat) : State := { (gate0 (.put 0x40 [1, 2]) 8 { id := 6, fence := 9 }) with pkg := { poolCh := [{ obj := 6, op := .put 0x40 [1, 2], token := 8, src := 0, pc := 0x4000, eng := none, seq := 3, launch := h }], launches := [launch1 .running .single] } }
    ((e none).pool.find? (fun o => o.id == (e none).arg.obj)).isSome = true ∧ (e (some 1)).pkg.poolCh.map (·.launch) = [some 1] ∧ (e (some 1)).pkg.launch 1 = some (launch1 .running .single)
    ∧ (e (some 1)).tile.disp.bind.any (fun b => b.launch.toNat == 1) = false ∧ ((e (some 1)).mapDisp (fun d => { d with bind := some bind0 })).tile.disp.bind.any (fun b => b.launch.toNat == 1) = true
    ∧ ({ (e none) with pkg := { (e none).pkg with failed := true } } : State).pkg.failed = true ∧ (renew0 0).pkg.object 6 ≠ none ∧ (renew0 0).pkg.time + 2000 < 0 + 1000 * 1000
    ∧ ({} : State).pkg.object 6 = none ∧ (∀ l, (⟨1, 0, true, 0, 5, 1000⟩ : Lease) = l → l.grant + 1000 * l.ldur ≤ 998000 + 2000) := by
  refine ⟨by decide, by decide, by decide, by decide, by decide, rfl, by decide, by decide, rfl, fun l h => h ▸ by decide⟩
/-- Leases: object 6 open on the package, with a frame of its page 1. -/
def open0 (o : PoolObj) (time : Nat) : State := (lease0 o time).updP (fun p => { p with dir := [{ index := 0, valid := true, direct := o.direct, ldur := 1000, node := 0, objid := 6 }], optics := { ports := [{ state := 3, dest := [(0, 1024)] }] } })
/-- Leases: an object that is open, with a served frame and with one at its last moment; a renewal that FENCE refuses; a WRITE lease that has run out at its node; a page whose leases all
run; a session of the node's root, one of another root, and none. -/
theorem witness_Leases_open : let o (f : W64) : PoolObj := { id := 6, fence := f, leases := [⟨1, 0, true, 0, 5, 1000⟩] }
    (open0 (o 6) 0).channelBusy 6 = false ∧ ((open0 (o 6) 0).pkg.object 6).isSome = true ∧ ((open0 (o 6) 0).pool.find? (fun x => x.id == (open0 (o 6) 0).arg.obj)).isSome = true
    ∧ ((o 6).leases.find? (fun l => l.page == 1 && l.pkg == 0)) = some ⟨1, 0, true, 0, 5, 1000⟩ ∧ (5#64).toNat < (o 6).fence.toNat ∧ (o 5).fence.toNat ≤ (5#64).toNat ∧ ((open0 (o 6) 0).pkg.frameOf 6 1).map (fun f => (f.grant, f.ldur)) = some (0, 1000)
    ∧ (∀ l ∈ (o 6).leases, l.page = 1 → (open0 (o 6) 999999).pkg.time < l.grant + 1000 * l.ldur) ∧ 0 + 1000 * 1000 ≤ (open0 (o 5) 1000000).pkg.time ∧ 0 + 1000 * 1000 ≤ (open0 (o 5) 998000).pkg.time + 2000
    ∧ (let n (r : BitVec 256) : State := { open0 (o 5) 0 with nodes := [{ num := 0, root := 9, sessions := [(0, r)] }] }
       ((n 9).node (o 5).node).sessions.find? (fun x => x.1 == (n 9).arg.session) = some (0, 9) ∧ ((n 9).node (o 5).node).root = 9 ∧ ((n 8).node (o 5).node).sessions.find? (fun x => x.1 == (n 8).arg.session) = some (0, 8))
    ∧ ((open0 (o 5) 0).node (o 5).node).sessions.find? (fun x => x.1 == 0) = none ∧ (open0 (o 5) 0).arg.kek = ((open0 (o 5) 0).node (o 5).node).root ∧ (1 : BitVec 256) ≠ 0
    ∧ ({} : State).pkg.object 6 = none ∧ (({} : State).obj 6).lease 0 0 = none := by decide
theorem witness_Leases_unserved : ∀ f, (open0 { id := 6 } 0).pkg.frameOf 6 1 = some f → (open0 { id := 6 } 0).pkg.time + 2000 < f.grant + 1000 * f.ldur := by
  intro f hf
  cases hf
  decide
/-- SproutAndPod: record 0 at 0x1000 in a state, with a TOKEN, whose list at 0x2000 names page 1 of object 6 for writing. -/
def page0 (state tok : Byte) (o : PoolObj) (frames : List Frame) : State :=
  let mem : Memory := [(0x1010, tok), (0x1018, 1), (0x101A, state), (0x101C, 1), (0x1021, 0x20), (0x2000, 6), (0x2006, 2), (0x2008, 1), (0x200C, 1)]
  (open0 o 5).updP (fun p => { p with mem := mem.filter (fun c => c.2 != 0), frames := frames, recTaken := if state = 0 then [] else [(0, 6, 1)], launches := [launch1 (.ended 0) .single], regs := { spbase := 0x1000, sppub := 1 } })
def frame0 : Frame := { obj := 6, page := 1, pa := 0x4000000000, write := true, grant := 0, ldur := 1000, token := 5, forTask := false }
theorem witness_SproutAndPod_page : let o (f : W64) : PoolObj := { id := 6, fence := f }
    let s := page0 0 5 (o 5) []
    Spec.number (s.pkg.homeN 0x101C 4) = 1 ∧ Spec.number (s.pkg.homeN 0x1020 8) = 0x2000 ∧ 0x1000 + 64 ≤ 0x2000 ∧ Spec.number (s.pkg.homeN 0x200C 4) = 1 ∧ Spec.number (s.pkg.homeN 0x2006 2) % 4 = 2 ∧ Spec.number (s.pkg.homeN 0x2000 6) = 6
    ∧ (s.pkg.object 6).map (·.direct) = some false ∧ (s.pool.find? (fun x => x.id == 6)).isSome = true ∧ (s.obj 6).direct = false ∧ s.pkg.recTaken = [] ∧ s.pkg.frameOf 6 1 = none ∧ s.channelBusy 6 = false
    ∧ (s.obj 6).leases = [] ∧ (s.obj 6).lapsed = [] ∧ (s.obj 6).fence.toNat ≤ Spec.number (s.pkg.homeN 0x1010 8) ∧ Spec.number ((page0 0 4 (o 5) []).pkg.homeN 0x1010 8) < (o 5).fence.toNat ∧ s.pkg.freeFrame.isSome = true := by decide
theorem witness_SproutAndPod_served : let o : PoolObj := { id := 6, leases := [⟨1, 0, true, 0, 5, 1000⟩] }
    let s (st : Byte) := page0 st 5 o [frame0]
    Spec.number ((s 1).pkg.homeN 0x101A 1) = 1 ∧ Spec.number ((s 1).pkg.homeN 0x1030 8) = 0 ∧ (s 1).pkg.frameOf 6 1 = some frame0 ∧ frame0.write = true ∧ (s 1).pkg.time + 2000 < frame0.grant + 1000 * frame0.ldur ∧ ((s 1).obj 6).lease 1 0 = some ⟨1, 0, true, 0, 5, 1000⟩
    ∧ (0, 6, 1) ∈ (s 1).pkg.recTaken ∧ (0, 6, 1) ∉ (s 0).pkg.recTaken ∧ Spec.number ((s 3).pkg.homeN 0x101A 1) = 3 ∧ ((s 3).pkg.launch 1).map (·.st) = some (.ended 0) ∧ (s 3).pkg.regs.sppub = 0 + 1 ∧ (s 3).channelBusy 6 = false ∧ (s 3).pkg.bound ≤ frame0.pa
    ∧ Spec.number ((s 3).pkg.homeN 0x1018 2) = 1 ∧ ((lease0 { id := 6 } 0).pkg.namedBy (fun _ => true) 6 1 = false ∧ frame0.forTask = false) := by decide
/-- Links: a stage whose time has gone and one unit before; a light budget that takes a port's λ0 and one that does not. -/
theorem witness_Links_late : (0 + 1000000 * [0, 50, 20, 10, 5, 2, 2, 1].getD 7 0 < 1000001 ∧ ¬ 0 + 1000000 * [0, 50, 20, 10, 5, 2, 2, 1].getD 7 0 < 1000000)
    ∧ (([{ state := 1, stage := 7 }, { state := 2, lpwr := 1 }] : List Port).mapIdx (fun k p => if k = 0 ∨ 2 ≤ p.state then 6 + p.lpwr else 0)).sum = 13
    ∧ (([{ eng := 7, state := 1 }, { state := 2 }] : List Port).map (fun p => if p.eng = 7 ∨ 2 ≤ p.state then 6 + p.lpwr else 0)).sum ≤ 12 ∧ (5 : Nat) = 5 := by decide
/-- SlotsAndPeers: receive reservations at the bound of 8; a reservation within its WMAX and its timeout, and one past either; a raise that does not fit, one that λ0 alone cannot take, and one
after a reclaim of the same millisecond; a write that has been lost. -/
def dark0 (budget : Nat) : State := { pkg := { optics := { lbudget := budget, ports := [{ state := 2, lit := [(1, 5), (2, 6)], dest := [(5, 9), (6, 8)], queued := [(9, 1), (8, 2)] }] } } }
theorem witness_SlotsAndPeers_dark : let o := (dark0 20).pkg.optics
    let p : Port := { state := 2, lit := [(1, 5), (2, 6)], dest := [(5, 9), (6, 8)], queued := [(9, 1), (8, 2)] }
    o.ports[0]? = some p ∧ p.lpwr < 7 ∧ p.lastRaise = none ∧ 2 ≤ p.state ∧ p.lit.length ≤ 15 ∧ (p.lit.map (·.1)).Nodup ∧ o.lbudget < o.used - p.width * (6 + p.lpwr) + p.width * (6 + 1) ∧ o.used - p.width * (6 + p.lpwr) + (6 + 1) ≤ o.lbudget
    ∧ (dark0 6).pkg.optics.lbudget < 0 + (6 + 1) ∧ (∀ r ∈ o.resvs, r.port ≠ 0) ∧ ({ p with lastCut := some 5 } : Port).lastCut = some 5 ∧ 1000004 < 5 + 1000000 := by decide
theorem witness_SlotsAndPeers_reserved : (([(1, 8)] : List (Nat × Nat)).map (·.2)).sum ≤ 8 ∧ (([] : List (Nat × Nat)).map (·.2)).sum + 8 ≤ 8 ∧ ¬ ((([(2, 1)] : List (Nat × Nat)).map (·.2)).sum + 8 ≤ 8)
    ∧ (let r : Resv := { id := 0, launch := 1, port := 0, dest := 9, slots := 8, granted := false, since := 5, cto := 10 }
       (let o : Optics := { lbudget := 1000, ports := [{ state := 2 }], resvs := [r] }
        r.slots ≤ min 8 (o.wmax r.port - 1) ∧ 14 < r.since + r.cto ∧ r.since + r.cto ≤ 15) ∧ (let o : Optics := { lbudget := 12, ports := [{ state := 2 }], resvs := [r] }
        min 8 (o.wmax r.port - 1) < r.slots))
    ∧ ({ src := 0, target := 0, addr := 0, tenant := 0, bytes := [], eng := 0, lost := true } : PeerMsg).lost = true
    ∧ (let p : PortSend := { port := 31, lam := 0, count := 1, cws := [(0, [{ kind := .response, bytes := 0 }])] }
       ([p].map (·.port.toNat)) = [31] ∧ (∀ x ∈ [p], x.port.toNat ≠ 30) ∧ p.count = 1) := by decide
/-- HostEvents: a submission for record 0 in channel 0 of session 1, whose limit is priority 3. -/
def door0 (tenant : BitVec 16) (mem : Memory → Memory) : State :=
  let page : Memory := ((leBytes 8 0x1000 ++ leBytes 8 0x77).mapIdx (fun i b => (0x1000 + i, b))).filter (fun c => c.2 != 0)
  { (record0 0xFF).updP (fun p => { p with mem := mem p.mem, sessions := [{ num := 1, tenant := tenant, prioLimit := 3, established := true }], boxes := [{ ch := 0, session := 1, page := page }] }) with
    arg := { (record0 0xFF).arg with ix := 0, req := .ide 1, val := 1, handle := 5, img := ⟨64, 0, [], [], []⟩, ptb := 0x100000 } }
def doorL (s : State) : Launch := { s.launchOf 5 0x1000 with session := 1, prioCap := some 3, mask := 0xFFFF, tt := false }
def doorU (s : State) : State := (s.updP (fun p => { p with boxes := p.boxes.map (fun b => { b with tail := 1, pending := [(5, 0x77)] }) })).touchLaunch (doorL s)
/-- HostEvents: an accepted submission, one of another tenant, one whose record fails a check, one whose RESULT has no place, one that waits; a completion ring with room and a full one. -/
theorem witness_HostEvents_doorbell : let s := door0 0 id
    s.arg.ix < 64 ∧ s.pkg.boxes.map (fun b => (b.ch.toNat, b.session, b.head)) = [(0, 1, 0)] ∧ s.pkg.sessions.map (·.num) = [1] ∧ s.arg.req = .ide 1 ∧ s.pkg.fw.quiet = false ∧ s.pkg.inUse s.arg.handle = false
    ∧ (s.arg.val - 0).toNat ≤ 256 ∧ ((0 : W64) - 0).toNat ≤ (s.arg.val - 0).toNat ∧ (0 : W64) ≠ s.arg.val ∧ ((0 : W64) - 0).toNat < 256 ∧ ¬ ((256 : W64) - 0).toNat < 256
    ∧ (s.pkg.boxes.map (fun b => dword (Memory.readN b.page 0x1000 32) 0)) = [0x1000] ∧ s.tile.disp.slot.length < 4 ∧ s.arg.handle < 65536 := by decide
set_option maxRecDepth 100000 in
theorem witness_HostEvents_accepted : let s := door0 0 id
    (doorL s).rc.root.tenant = 0 ∧ (doorU s).pkg.resultOk (doorL s) = true ∧ ((doorU s).recChecks (doorL s) ((doorU s).acornPkg.homeN 0x1000 256)).find? (·.2) = none ∧ (doorL s).rc.kind ≠ .tasked
    ∧ (doorU s).choosePlace (doorL s).rc 0xFFFF = some [(0, s.tile.phys)] ∧ (doorL s).rc.prio ≤ 7 ∧ (doorL (door0 9 id)).rc.root.tenant ≠ 9 := by decide
set_option maxRecDepth 100000 in
theorem witness_HostEvents_rejected : let put (a : Nat) (b : Byte) (m : Memory) : Memory := m.map (fun c => if c.1 = a then (c.1, b) else c)
    let s := door0 0 (put 0x1005 64)
    let w := door0 0 (put 0x1006 2)
    ((doorU s).recChecks (doorL s) ((doorU s).acornPkg.homeN 0x1000 256)).find? (·.2) = some (5, true) ∧ (doorU w).choosePlace (doorL w).rc 0xFFFF = none
    ∧ (let v : State := { door0 0 id with pkg := { (door0 0 id).pkg with mem := [] } }
       (doorU v).pkg.resultOk (doorL v) = false ∧ (doorL v).rc.root.tenant = 0) := by decide
/-- Host memory with and without a dirty line; a frozen line of a launch that has no tile; the managed creation of an object. -/
theorem witness_HostEvents_own : let l : L1Line := { line := 2 ^ 51 / 64, st := .m, dirty := Overlay.setN [] (2 ^ 51) (List.replicate 8 7), tok := 0 }
    let s : State := { tile := { ord := { l1 := [l] } } }
    (2 ^ 51 % 8 = 0 ∧ (2 : Nat) ^ 51 ≤ 2 ^ 51 ∧ (2 : Nat) ^ 51 < 2 ^ 52) ∧ ¬ (2 : Nat) ^ 52 < 2 ^ 52 ∧ s.pkg.scrub = [] ∧ s.pkg.l2 = [] ∧ s.pkg.l2kept = [] ∧ s.dirtyOf (2 ^ 51 / 64) = some (0, l) ∧ ({} : State).dirtyOf (2 ^ 51 / 64) = none
    ∧ Memory.wf ({} : State).pkg.mem = true ∧ ¬ ({} : State).pkg.regs.hcwin.getLsbD 63 = true :=
  ⟨by decide, by decide, rfl, rfl, rfl, rfl, rfl, by decide, by decide⟩
theorem witness_HostEvents_frozen_ended : let l : Launch := { launch1 .running .single with place := [], rc := { code := 0x8000, meas := [1] }, img := ⟨64, 0, [], [], [0]⟩, ptb := 0x100000 }
    let s : State := { pkg := { launches := [l], mem := [(0x100006, 0x40), (0x100007, 0xCF)] } }
    s.pkg.lockedBy 0x8000 = some l ∧ s.pkg.resultOk l = false ∧ s.tilesOf l = [] ∧ s.poolOpen l = false
    ∧ (s.updP (fun p => { p with poolCh := [{ obj := 5, op := .put 0 [1], token := 0, src := 0, pc := 0, eng := none, seq := 1, launch := some 1 }] })).poolOpen l = true := by decide
theorem witness_HostEvents_managed : let k (r : BitVec 256) : PoolNode := { num := 3, root := 9, sessions := [(0, r)] }
    (k 9).sessions = [(({} : State).arg.session, 9)] ∧ (9 : BitVec 256) = (k 9).root ∧ (8 : BitVec 256) ≠ (k 8).root ∧ ({ nodes := [k 9] } : State).nodes = [k 9] ∧ ({} : State).nodes = [] ∧ ({ pool := [{ id := 6 }] } : State).pool = [{ id := 6 }] := by decide
/-- SpdmEvents: all algorithms agreed, and one short of each use; a session that is established, with a verified message and without. -/
theorem witness_SpdmEvents_agreed : let c (sel : BitVec 4) : Spdm := { algs := true, sel := sel }
    ((c 0xF).algs = true ∧ ∀ k ∈ [0, 1, 2, 3], (c 0xF).sel.getLsbD k = true) ∧ ¬ (∀ k ∈ [2], (c 0xB).sel.getLsbD k = true) ∧ ¬ (∀ k ∈ [0, 2], (c 0xE).sel.getLsbD k = true) ∧ ¬ (∀ k ∈ [0, 1, 2, 3], (c 7).sel.getLsbD k = true)
    ∧ (host0.pkg.session 255).map (·.established) = some true ∧ host0.arg.good = true ∧ ({ arg := { good := false } } : State).arg.good = false ∧ ({} : State).pkg.session 5 = none := by decide +kernel
/-- FirmwareAndLife: READY before and at 500 ms; a frame to retire; no power; a delay monitor 2 % over its baseline and one unit more; three errors of a tile within 24 h that end before the flush. -/
theorem witness_FirmwareAndLife_more : (499999999 < 0 + 500000000 ∧ ¬ 500000000 < 0 + 500000000)
    ∧ (let s : State := { pkg := { ecc := [4096 * 3] } }
       ∃ x ∈ s.pkg.ecc, x / 4096 = 3 ∧ (s.pkg.paKind (64 * x) = .hbmLocal ∨ s.pkg.paKind (64 * x) = .hbmPool))
    ∧ ({ pkg := { life := { powered := false } } } : State).pkg.life.powered = false
    ∧ (let k : ClusterLife := { monitors := #v[102, 100, 100, 103], baseline := #v[100, 100, 100, 100] }
       (∃ i : Fin 4, 102 * k.baseline[i] < 100 * k.monitors[i]) ∧ ¬ 102 * k.baseline[(0 : Fin 4)] < 100 * k.monitors[(0 : Fin 4)])
    ∧ (let errs : List (Nat × Nat) := [(255, 0), (255, 1), (255, 2)]
       ∃ e ∈ errs, e.1 = 255 ∧ 3 ≤ (errs.filter (fun x => x.1 == 255 && decide (e.2 ≤ x.2) && decide (x.2 < e.2 + 86400000000000))).length)
    ∧ ({ peers := [{ num := 1, peerCh := [{ src := 0, target := 0, addr := 0, tenant := 0, bytes := [], eng := 0 }] }] } : State).peers[0]?.isSome = true := by decide

end Sys2Proof.Tests
end

section
/-! SUPPORT. Integer words, selects, compares and bit fields (spec 04, R64 to R73): the value of each function as the
tables of the spec write it, and the elements of a packed word. -/

namespace Sys2Proof.Machine

/-! ### The shapes of integer words -/

section
variable {s : State} {h : Hdr} {i : Instr}

theorem plainWord_completes {rs : List Reg} {op : State → State} (he : exec i s = s.plainWord h rs op) (hi : s.Issues h rs []) :
    Completes i h s (op s) := completes_of he hi rfl rfl

theorem alu_completes {d a b : Reg} {f : W64 → W64 → W64} {v : W64} (he : exec i s = s.alu h d a b f)
    (hi : s.Issues h [d, a, b] []) (hv : f (s.reg a) (s.reg b) = v) : Completes i h s (s.setReg d v) :=
  hv ▸ plainWord_completes he hi

theorem alu1_completes {d a : Reg} {f : W64 → W64} {v : W64} (he : exec i s = s.alu1 h d a f)
    (hi : s.Issues h [d, a] []) (hv : f (s.reg a) = v) : Completes i h s (s.setReg d v) :=
  hv ▸ plainWord_completes he hi

theorem cmp_completes {d : PReg} {a b : Reg} {f : W64 → W64 → Bool} {v : Bool} (he : exec i s = s.cmp h d a b f)
    (hi : s.Issues h [a, b] []) (hv : f (s.reg a) (s.reg b) = v) : Completes i h s (s.setPred d v) :=
  hv ▸ plainWord_completes he hi

/-- A bit field that passes bit 63 (R66). -/
theorem fieldWord_faults {d a : Reg} {lm1 pos : BitVec 6} {f : W64 → W64 → Nat → Nat → W64}
    (he : exec i s = s.fieldWord h d a lm1 pos f) (hi : s.Issues h [d, a] []) (hp : pos.toNat + (lm1.toNat + 1) > 64) :
    Faults i s { code := .illegalOpcode } := faults_of he hi rfl (if_pos hp)

theorem fieldWord_completes {d a : Reg} {lm1 pos : BitVec 6} {f : W64 → W64 → Nat → Nat → W64} {v : W64}
    (he : exec i s = s.fieldWord h d a lm1 pos f) (hi : s.Issues h [d, a] []) (hp : pos.toNat + (lm1.toNat + 1) ≤ 64)
    (hv : f (s.reg d) (s.reg a) pos.toNat (lm1.toNat + 1) = v) : Completes i h s (s.setReg d v) :=
  hv ▸ completes_of he hi rfl (if_neg (Nat.not_lt.2 hp))

end

/-! ### Values of the integer functions (R37, R38, R64, R65) -/

theorem add_eq_ofNat (a b : W64) : a + b = BitVec.ofNat 64 (a.toNat + b.toNat) := by
  simp only [BitVec.ofNat_add, BitVec.ofNat_toNat, BitVec.setWidth_eq]

theorem sub_eq_ofInt (a b : W64) : a - b = BitVec.ofInt 64 (a.toInt - b.toInt) := by
  rw [Int.sub_eq_add_neg, BitVec.ofInt_add, BitVec.ofInt_neg, BitVec.ofInt_toInt, BitVec.ofInt_toInt, BitVec.sub_eq_add_neg]

theorem mul_eq_ofNat (a b : W64) : a * b = BitVec.ofNat 64 (a.toNat * b.toNat) := by
  simp only [BitVec.ofNat_mul, BitVec.ofNat_toNat, BitVec.setWidth_eq]

/-- The high half of a 128-bit word made from an integer. -/
theorem extractLsb'_high_ofInt (z : Int) : (BitVec.ofInt 128 z).extractLsb' 64 64 = BitVec.ofInt 64 (z / 2 ^ 64) := by
  apply BitVec.eq_of_toNat_eq
  simp only [BitVec.extractLsb'_toNat, BitVec.toNat_ofInt, Nat.shiftRight_eq_div_pow]
  omega

theorem mulHighS_eq_ofInt (a b : W64) : mulHighS a b = BitVec.ofInt 64 (a.toInt * b.toInt / 2 ^ 64) := by
  rw [← extractLsb'_high_ofInt, BitVec.ofInt_mul]
  rfl

theorem mulHighZ_eq_ofNat (a b : W64) : mulHighZ a b = BitVec.ofNat 64 (a.toNat * b.toNat / 2 ^ 64) := by
  have hab : a.toNat * b.toNat < 2 ^ 128 := Nat.lt_of_lt_of_eq (Nat.mul_lt_mul'' a.isLt b.isLt) (by decide)
  apply BitVec.eq_of_toNat_eq
  simp only [mulHighZ, BitVec.extractLsb'_toNat, BitVec.toNat_mul, BitVec.toNat_setWidth, BitVec.toNat_ofNat, Nat.shiftRight_eq_div_pow]
  rw [Nat.mod_eq_of_lt (a := a.toNat) (by omega), Nat.mod_eq_of_lt (a := b.toNat) (by omega), Nat.mod_eq_of_lt hab]

theorem divSigned_eq_ofInt (a b : W64) : divSigned a b = if b = 0 then 0xFFFFFFFFFFFFFFFF else BitVec.ofInt 64 (a.toInt.tdiv b.toInt) := by
  have hq : a.sdiv b = BitVec.ofInt 64 (a.toInt.tdiv b.toInt) :=
    BitVec.eq_of_toInt_eq (by rw [BitVec.toInt_sdiv, BitVec.toInt_ofInt])
  rw [← hq]; rfl

theorem divUnsigned_eq_ofNat (a b : W64) : divUnsigned a b = if b = 0 then 0xFFFFFFFFFFFFFFFF else BitVec.ofNat 64 (a.toNat / b.toNat) := by
  have hq : a.udiv b = BitVec.ofNat 64 (a.toNat / b.toNat) :=
    BitVec.eq_of_toNat_eq (by rw [BitVec.toNat_ofNat, Nat.mod_eq_of_lt (Nat.lt_of_le_of_lt (Nat.div_le_self _ _) a.isLt)]; rfl)
  rw [← hq]; rfl

theorem remSigned_eq_ofInt (a b : W64) : remSigned a b = if b = 0 then a else BitVec.ofInt 64 (a.toInt.tmod b.toInt) := by
  have hr : a.srem b = BitVec.ofInt 64 (a.toInt.tmod b.toInt) := by rw [← BitVec.toInt_srem, BitVec.ofInt_toInt]
  rw [← hr]; rfl

theorem remUnsigned_eq_ofNat (a b : W64) : remUnsigned a b = if b = 0 then a else BitVec.ofNat 64 (a.toNat % b.toNat) := by
  have hr : a.umod b = BitVec.ofNat 64 (a.toNat % b.toNat) := by
    rw [← BitVec.toNat_umod, BitVec.ofNat_toNat, BitVec.setWidth_eq]; rfl
  rw [← hr]; rfl

theorem shAmt_eq_shift (b : W64) : shAmt b = Spec.shift b := by
  simp only [shAmt, Spec.shift, BitVec.extractLsb'_toNat, Nat.shiftRight_zero]

theorem shiftLeft_eq_ofNat (a : W64) (n : Nat) : a <<< n = BitVec.ofNat 64 (a.toNat * 2 ^ n) := by
  apply BitVec.eq_of_toNat_eq
  rw [BitVec.toNat_shiftLeft, BitVec.toNat_ofNat, Nat.shiftLeft_eq]

theorem ushiftRight_eq_ofNat (a : W64) (n : Nat) : a >>> n = BitVec.ofNat 64 (a.toNat / 2 ^ n) := by
  rw [← Nat.shiftRight_eq_div_pow, ← BitVec.toNat_ushiftRight, BitVec.ofNat_toNat, BitVec.setWidth_eq]

theorem sshiftRight_eq_ofInt (a : W64) (n : Nat) : a.sshiftRight n = BitVec.ofInt 64 (a.toInt / 2 ^ n) := by
  rw [BitVec.sshiftRight_eq, Int.shiftRight_eq_div_pow, Int.natCast_pow]; rfl

theorem rotateLeft_shAmt_eq_or (a b : W64) : a.rotateLeft (shAmt b) = (a <<< Spec.shift b) ||| (a >>> (64 - Spec.shift b)) := by
  rw [BitVec.rotateLeft_def, shAmt_eq_shift, Nat.mod_eq_of_lt (show Spec.shift b < 64 from Nat.mod_lt _ (by decide))]

theorem add_imm20_eq_ofInt (a : W64) (i : BitVec 20) : a + imm20 i = BitVec.ofInt 64 (a.toInt + i.toInt) := by
  rw [BitVec.ofInt_add, BitVec.ofInt_toInt]; rfl

/-! ### Compares and choices (R68, R70) -/

theorem ite_eq_of_iff {α : Type} {p q : Prop} [Decidable p] [Decidable q] (h : p ↔ q) (x y : α) :
    (if p then x else y) = if q then x else y := ite_congr (propext h) (fun _ => rfl) (fun _ => rfl)

theorem not_slt_eq_decide (a b : W64) : (!a.slt b) = decide (a.toInt ≥ b.toInt) := by
  rw [BitVec.slt_eq_decide, ← decide_not]
  exact decide_eq_decide.2 Int.not_lt

theorem not_ult_eq_decide (a b : W64) : (!a.ult b) = decide (a.toNat ≥ b.toNat) := by
  rw [BitVec.ult_eq_decide, ← decide_not]
  exact decide_eq_decide.2 Nat.not_lt

/-! ### Elements of a packed word (R39, R71, R73) -/

theorem elem_lt (w k : Nat) (a : W64) : Spec.elem w k a < 2 ^ w := Nat.mod_lt _ (Nat.two_pow_pos w)

theorem elem_testBit (w k j : Nat) (a : W64) : (Spec.elem w k a).testBit j = (decide (j < w) && a.getLsbD (w * k + j)) := by
  rw [Spec.elem, Nat.testBit_mod_two_pow, Nat.testBit_div_two_pow, Nat.add_comm]; rfl

/-- `mapElems` takes each element out as the spec names it. -/
theorem mask_toNat {w : Nat} (hw : w ≤ 64) (i : Nat) (x : W64) :
    ((x >>> (w * i)) &&& BitVec.ofNat 64 (2 ^ w - 1)).toNat = Spec.elem w i x := by
  have hm : 2 ^ w - 1 < 2 ^ 64 := Nat.lt_of_lt_of_le (Nat.sub_lt (Nat.two_pow_pos w) Nat.one_pos) (Nat.pow_le_pow_right (by decide) hw)
  rw [BitVec.toNat_and, BitVec.toNat_ofNat, Nat.mod_eq_of_lt hm, Nat.and_two_pow_sub_one_eq_mod, BitVec.toNat_ushiftRight,
    Nat.shiftRight_eq_div_pow, Spec.elem]

theorem foldl_or_getLsbD (y : Nat → W64) (n j : Nat) :
    ((List.range n).foldl (fun r i => r ||| y i) 0).getLsbD j = true ↔ ∃ i < n, (y i).getLsbD j = true := by
  induction n with
  | zero => exact ⟨fun h => absurd (BitVec.getLsbD_zero.symm.trans h) Bool.false_ne_true, fun ⟨i, hi, _⟩ => absurd hi (Nat.not_lt_zero i)⟩
  | succ n ih =>
    rw [List.range_succ, List.foldl_append, List.foldl_cons, List.foldl_nil, BitVec.getLsbD_or, Bool.or_eq_true, ih]
    exact Nat.exists_lt_succ_right.symm

/-- A value of w bits shifted to element i has its bits in element i alone. -/
theorem shiftLeft_elem_getLsbD {w k j : Nat} {v : W64} (hv : v.toNat < 2 ^ w) (hj : j < w) (hk : w * k + j < 64) (i : Nat) :
    (v <<< (w * i)).getLsbD (w * k + j) = (decide (i = k) && v.getLsbD j) := by
  rw [BitVec.getLsbD_shiftLeft, decide_eq_true hk, Bool.true_and]
  rcases Nat.lt_trichotomy i k with hik | rfl | hik
  · have hle : w * (i + 1) ≤ w * k := Nat.mul_le_mul_left w hik
    rw [Nat.mul_succ] at hle
    have hz : v.getLsbD (w * k + j - w * i) = false :=
      Nat.testBit_lt_two_pow (Nat.lt_of_lt_of_le hv (Nat.pow_le_pow_right (by decide) (by omega)))
    rw [hz, decide_eq_false (Nat.ne_of_lt hik), Bool.and_false, Bool.false_and]
  · simp only [decide_true, Bool.true_and, Nat.add_sub_cancel_left, Nat.not_lt.2 (Nat.le_add_right _ j), decide_false, Bool.not_false]
  · have hle : w * (k + 1) ≤ w * i := Nat.mul_le_mul_left w hik
    rw [Nat.mul_succ] at hle
    have hlt : w * k + j < w * i := by omega
    simp only [hlt, decide_true, Bool.not_true, Bool.false_and, Nat.ne_of_gt hik, decide_false]

/-- f, a function on words, is g on the values of w bits. -/
def ElemFn (w : Nat) (f : W64 → W64) (g : Nat → Nat) : Prop :=
  ∀ y : W64, y.toNat < 2 ^ w → (f y).toNat = g y.toNat ∧ g y.toNat < 2 ^ w

/-- Each element of the result is g of the same element. -/
theorem elem_mapElems {w k : Nat} {f : W64 → W64} {g : Nat → Nat} (hf : ElemFn w f g) (hk : k < 64 / w) (x : W64) :
    Spec.elem w k (mapElems w f x) = g (Spec.elem w k x) := by
  have hw0 : 0 < w := Nat.pos_of_ne_zero (fun h => by subst h; exact Nat.not_lt_zero k hk)
  have hfit : w * (k + 1) ≤ 64 := by rw [Nat.mul_comm]; exact (Nat.le_div_iff_mul_le hw0).1 hk
  rw [Nat.mul_succ] at hfit
  have hval : ∀ i, (f ((x >>> (w * i)) &&& BitVec.ofNat 64 (2 ^ w - 1))).toNat = g (Spec.elem w i x) ∧ g (Spec.elem w i x) < 2 ^ w := by
    intro i
    have hm := mask_toNat (w := w) (by omega) i x
    have := hf _ (hm ▸ elem_lt w i x)
    rwa [hm] at this
  apply Nat.eq_of_testBit_eq
  intro j
  rw [elem_testBit]
  by_cases hj : j < w
  · rw [decide_eq_true hj, Bool.true_and, Bool.eq_iff_iff, mapElems, foldl_or_getLsbD, ← (hval k).1]
    simp only [fun i => shiftLeft_elem_getLsbD ((hval i).1 ▸ (hval i).2) hj (k := k) (by omega) i, Bool.and_eq_true, decide_eq_true_eq]
    exact ⟨fun ⟨i, _, hik, hb⟩ => hik ▸ hb, fun hb => ⟨k, hk, rfl, hb⟩⟩
  · rw [decide_eq_false hj, Bool.false_and,
      Nat.testBit_lt_two_pow (Nat.lt_of_lt_of_le (hval k).2 (Nat.pow_le_pow_right (by decide) (Nat.le_of_not_lt hj)))]

/-! ### Bit counts (R39, R73) -/

/-- Bits from w on are clear in a value of w bits: what 64 places hold, the first w hold. -/
theorem filter_testBit_range {w x : Nat} (hw : w ≤ 64) (hx : x < 2 ^ w) :
    (List.range 64).filter (fun n => x.testBit n) = (List.range w).filter (fun n => x.testBit n) := by
  obtain ⟨m, hm⟩ := Nat.exists_eq_add_of_le hw
  have hz : ∀ n ∈ (List.range m).map (w + ·), ¬ x.testBit n = true := by
    intro n hn
    obtain ⟨i, -, rfl⟩ := List.mem_map.1 hn
    rw [Nat.testBit_lt_two_pow (Nat.lt_of_lt_of_le hx (Nat.pow_le_pow_right (by decide) (Nat.le_add_right w i)))]
    exact Bool.false_ne_true
  rw [hm, List.range_add, List.filter_append, List.filter_eq_nil_iff.2 hz, List.append_nil]

theorem find?_testBit_range {w x : Nat} (hw : w ≤ 64) (hx : x < 2 ^ w) :
    (List.range 64).find? (fun n => x.testBit n) = (List.range w).find? (fun n => x.testBit n) := by
  rw [← List.head?_filter, ← List.head?_filter, filter_testBit_range hw hx]

theorem clz_zero (w : Nat) : Spec.clz w 0 = w := by
  have hnone : (List.range w).find? (fun n => (0 : Nat).testBit (w - 1 - n)) = none := by
    simp only [Nat.zero_testBit, List.find?_eq_none, List.mem_range, Bool.false_eq_true, not_false_eq_true, implies_true]
  rw [Spec.clz, hnone, Option.getD_none]

theorem clz_of_ne_zero {w x : Nat} (hx : x < 2 ^ w) (h0 : x ≠ 0) : Spec.clz w x = w - 1 - x.log2 := by
  have hl : x.log2 < w := (Nat.log2_lt h0).2 hx
  have hfind : (List.range w).find? (fun n => x.testBit (w - 1 - n)) = some (w - 1 - x.log2) := by
    refine List.find?_range_eq_some.2 ⟨?_, List.mem_range.2 (by omega), fun j hj => ?_⟩
    · rw [show w - 1 - (w - 1 - x.log2) = x.log2 by omega, Nat.testBit_log2 h0]
    · rw [Nat.testBit_lt_two_pow (Nat.lt_of_lt_of_le Nat.lt_log2_self (Nat.pow_le_pow_right (by decide) (by omega)))]; rfl
  rw [Spec.clz, hfind, Option.getD_some]

theorem toNat_ofNat_of_le {n w : Nat} (hn : n ≤ w) (hw : w ≤ 64) : (BitVec.ofNat 64 n).toNat = n := by
  rw [BitVec.toNat_ofNat, Nat.mod_eq_of_lt (by omega)]

theorem clzOf_elemFn {w : Nat} (hw : w ≤ 64) : ElemFn w (clzOf w) (Spec.clz w) := by
  intro y hy
  have hlt : w < 2 ^ w := Nat.lt_two_pow_self
  by_cases h0 : y = 0
  · subst h0
    rw [clzOf, if_pos rfl, toNat_ofNat_of_le (Nat.le_refl w) hw, show BitVec.toNat (0 : W64) = 0 from rfl, clz_zero]
    exact ⟨rfl, hlt⟩
  · have hn : y.toNat ≠ 0 := fun h => h0 (BitVec.eq_of_toNat_eq h)
    rw [clzOf, if_neg h0, toNat_ofNat_of_le (w := w) (by omega) hw, clz_of_ne_zero hy hn]
    exact ⟨rfl, by omega⟩

theorem ffsOf_elemFn {w : Nat} (hw : w ≤ 64) : ElemFn w ffsOf (Spec.ffs w) := by
  intro y hy
  have hlt : w < 2 ^ w := Nat.lt_two_pow_self
  unfold ffsOf Spec.ffs
  rw [show (List.range 64).find? (fun i => y.getLsbD i) = _ from find?_testBit_range hw hy]
  cases hf : (List.range w).find? (fun n => y.toNat.testBit n) with
  | none => exact ⟨rfl, Nat.two_pow_pos w⟩
  | some i =>
    have hi : i < w := List.mem_range.1 (List.mem_of_find?_eq_some hf)
    exact ⟨toNat_ofNat_of_le (w := w) hi hw, Nat.lt_of_le_of_lt hi hlt⟩

theorem popOf_elemFn {w : Nat} (hw : w ≤ 64) : ElemFn w popOf (Spec.pop w) := by
  intro y hy
  have hle : Spec.pop w y.toNat ≤ w := by
    simpa only [Spec.pop, List.length_range] using List.length_filter_le (fun n => y.toNat.testBit n) (List.range w)
  have hpop : popOf y = BitVec.ofNat 64 (Spec.pop w y.toNat) := by
    rw [popOf, Spec.pop, ← filter_testBit_range hw hy]; rfl
  rw [hpop]
  exact ⟨toNat_ofNat_of_le hle hw, Nat.lt_of_le_of_lt hle Nat.lt_two_pow_self⟩

/-! ### Bytes (R71) -/

theorem length_leBytes (n x : Nat) : (leBytes n x).length = n := by
  induction n generalizing x with
  | zero => rfl
  | succ n ih => rw [leBytes, List.length_cons, ih]

theorem div_two_pow_succ_byte (x j : Nat) : x / 2 ^ (8 * (j + 1)) = x / 256 / 2 ^ (8 * j) := by
  rw [Nat.div_div_eq_div_mul, Nat.mul_succ, Nat.pow_add, Nat.mul_comm]

theorem leBytes_getElem {n j : Nat} (x : Nat) (hj : j < (leBytes n x).length) : (leBytes n x)[j] = BitVec.ofNat 8 (x / 2 ^ (8 * j)) := by
  induction n generalizing x j with
  | zero => exact absurd hj (Nat.not_lt_zero j)
  | succ n ih =>
    cases j with
    | zero => simp only [leBytes, List.getElem_cons_zero, Nat.mul_zero, Nat.pow_zero, Nat.div_one]
    | succ j =>
      rw [div_two_pow_succ_byte, ← ih (x / 256) (Nat.lt_of_succ_lt_succ hj)]
      rfl

theorem leNat_lt (bs : List Byte) : leNat bs < 2 ^ (8 * bs.length) := by
  induction bs with
  | nil => decide
  | cons b bs ih =>
    have hb := b.isLt
    rw [leNat, List.length_cons, Nat.mul_succ, Nat.pow_add]
    omega

/-- Byte j of the number that a list of bytes makes. -/
theorem leNat_byte {bs : List Byte} {j : Nat} (hj : j < bs.length) : leNat bs / 2 ^ (8 * j) % 2 ^ 8 = bs[j].toNat := by
  induction bs generalizing j with
  | nil => exact absurd hj (Nat.not_lt_zero j)
  | cons b bs ih =>
    have hb := b.isLt
    cases j with
    | zero => rw [leNat, List.getElem_cons_zero]; omega
    | succ j =>
      rw [div_two_pow_succ_byte, leNat, show (b.toNat + 256 * leNat bs) / 256 = leNat bs by omega, List.getElem_cons_succ]
      exact ih (Nat.lt_of_succ_lt_succ hj)

/-- The number with n bytes reversed. -/
def swapBytes (n x : Nat) : Nat := leNat (leBytes n x).reverse

theorem swapBytes_lt (n x : Nat) : swapBytes n x < 2 ^ (8 * n) := by
  simpa only [swapBytes, List.length_reverse, length_leBytes] using leNat_lt (leBytes n x).reverse

theorem swapBytes_byte {n j : Nat} (hj : j < n) (x : Nat) :
    swapBytes n x / 2 ^ (8 * j) % 2 ^ 8 = x / 2 ^ (8 * (n - 1 - j)) % 2 ^ 8 := by
  have hlen : j < (leBytes n x).reverse.length := by rwa [List.length_reverse, length_leBytes]
  rw [swapBytes, leNat_byte hlen, List.getElem_reverse, leBytes_getElem, BitVec.toNat_ofNat, length_leBytes]

theorem bswapOf_elemFn {n : Nat} (hn : n ≤ 8) : ElemFn (8 * n) (bswapOf (8 * n)) (swapBytes n) := by
  intro y _
  have hlt : swapBytes n y.toNat < 2 ^ 64 := Nat.lt_of_lt_of_le (swapBytes_lt n _) (Nat.pow_le_pow_right (by decide) (by omega))
  refine ⟨?_, swapBytes_lt n _⟩
  rw [bswapOf, Nat.mul_div_cancel_left n (by decide), BitVec.toNat_ofNat]
  exact Nat.mod_eq_of_lt hlt

/-- A byte of a word is a byte of one of its elements of n bytes. -/
theorem elem_byte {n j : Nat} (hj : j < n) (i : Nat) (v : W64) : Spec.elem 8 (i * n + j) v = Spec.elem (8 * n) i v / 2 ^ (8 * j) % 2 ^ 8 := by
  apply Nat.eq_of_testBit_eq
  intro m
  have hpos : 8 * (i * n + j) + m = 8 * n * i + (m + 8 * j) := by
    rw [Nat.mul_add, Nat.mul_comm i n, ← Nat.mul_assoc]
    omega
  rw [elem_testBit, Nat.testBit_mod_two_pow, Nat.testBit_div_two_pow, elem_testBit]
  by_cases hm : m < 8
  · rw [decide_eq_true (show m + 8 * j < 8 * n by omega), Bool.true_and, hpos]
  · simp only [hm, decide_false, Bool.false_and]

/-! ### The rows of the tables

Each row's meaning is a definition, so that a table is a list of rows proved by name. -/

/-- A row of `Spec.alu`. -/
def AluRow (f : (Hdr → Reg → Reg → Reg → Instr) × (W64 → W64 → W64)) : Prop :=
  ∀ (s : State) (h : Hdr) (d a b : Reg), s.Issues h [d, a, b] [] → Completes (f.1 h d a b) h s (s.setReg d (f.2 (s.reg a) (s.reg b)))

/-- A row of `Spec.imm` or `Spec.shifts`. -/
def ImmRow {n : Nat} (f : (Hdr → Reg → Reg → BitVec n → Instr) × (W64 → BitVec n → W64)) : Prop :=
  ∀ (s : State) (h : Hdr) (d a : Reg) (i : BitVec n), s.Issues h [d, a] [] → Completes (f.1 h d a i) h s (s.setReg d (f.2 (s.reg a) i))

/-- A row of `Spec.counts`. -/
def CountRow (f : (Hdr → Reg → Reg → Instr) × Nat × (Nat → Nat)) : Prop :=
  ∀ (s : State) (h : Hdr) (d a : Reg), s.Issues h [d, a] [] → ∃ v : W64, Completes (f.1 h d a) h s (s.setReg d v)
    ∧ ∀ k < 64 / f.2.1, Spec.elem f.2.1 k v = f.2.2 (Spec.elem f.2.1 k (s.reg a))

/-- A row of `Spec.swaps`. -/
def SwapRow (f : (Hdr → Reg → Reg → Instr) × Nat) : Prop :=
  ∀ (s : State) (h : Hdr) (d a : Reg), s.Issues h [d, a] [] → ∃ v : W64, Completes (f.1 h d a) h s (s.setReg d v)
    ∧ ∀ i < 8 / f.2, ∀ j < f.2, Spec.elem 8 (i * f.2 + j) v = Spec.elem 8 (i * f.2 + (f.2 - 1 - j)) (s.reg a)

/-- A row of `Spec.cmp`. -/
def CmpRow (f : (Hdr → PReg → Reg → Reg → Instr) × (W64 → W64 → Bool)) : Prop :=
  ∀ (s : State) (h : Hdr) (d : PReg) (a b : Reg), s.Issues h [a, b] [] → Completes (f.1 h d a b) h s (s.setPred d (f.2 (s.reg a) (s.reg b)))

theorem aluRow_of {mk : Hdr → Reg → Reg → Reg → Instr} {f g : W64 → W64 → W64}
    (he : ∀ s h d a b, exec (mk h d a b) s = s.alu h d a b f) (hv : ∀ x y, f x y = g x y) : AluRow (mk, g) :=
  fun s h d a b hi => alu_completes (he s h d a b) hi (hv _ _)

theorem immRow_of {n : Nat} {mk : Hdr → Reg → Reg → BitVec n → Instr} {f g : W64 → BitVec n → W64}
    (he : ∀ s h d a i, exec (mk h d a i) s = s.alu1 h d a (f · i)) (hv : ∀ x i, f x i = g x i) : ImmRow (mk, g) :=
  fun s h d a i hi => alu1_completes (he s h d a i) hi (hv _ _)

theorem cmpRow_of {mk : Hdr → PReg → Reg → Reg → Instr} {f g : W64 → W64 → Bool}
    (he : ∀ s h d a b, exec (mk h d a b) s = s.cmp h d a b f) (hv : ∀ x y, f x y = g x y) : CmpRow (mk, g) :=
  fun s h d a b hi => cmp_completes (he s h d a b) hi (hv _ _)

theorem countRow_of {mk : Hdr → Reg → Reg → Instr} {w : Nat} {f : W64 → W64} {g : Nat → Nat}
    (he : ∀ s h d a, exec (mk h d a) s = s.alu1 h d a (mapElems w f)) (hf : ElemFn w f g) : CountRow (mk, w, g) :=
  fun s h d a hi => ⟨_, alu1_completes (he s h d a) hi rfl, fun _ hk => elem_mapElems hf hk _⟩

theorem swapRow_of {mk : Hdr → Reg → Reg → Instr} {n : Nat} (hn : n ≤ 8)
    (he : ∀ s h d a, exec (mk h d a) s = s.alu1 h d a (mapElems (8 * n) (bswapOf (8 * n)))) : SwapRow (mk, n) := by
  intro s h d a hi
  refine ⟨_, alu1_completes (he s h d a) hi rfl, fun i hin j hj => ?_⟩
  have hi' : i < 64 / (8 * n) := by rwa [← Nat.div_div_eq_div_mul]
  rw [elem_byte hj, elem_byte (j := n - 1 - j) (Nat.sub_one_sub_lt hj), elem_mapElems (bswapOf_elemFn hn) hi', swapBytes_byte hj]

theorem alu_table : ∀ f ∈ Spec.alu, AluRow f := by
  simp only [Spec.alu, List.forall_mem_cons]
  exact ⟨aluRow_of exec_add add_eq_ofNat, aluRow_of exec_sub sub_eq_ofInt, aluRow_of exec_mul mul_eq_ofNat,
    aluRow_of exec_mulhS mulHighS_eq_ofInt, aluRow_of exec_mulhZ mulHighZ_eq_ofNat,
    aluRow_of exec_divS divSigned_eq_ofInt, aluRow_of exec_divZ divUnsigned_eq_ofNat,
    aluRow_of exec_remS remSigned_eq_ofInt, aluRow_of exec_remZ remUnsigned_eq_ofNat,
    aluRow_of exec_and (fun _ _ => rfl), aluRow_of exec_or (fun _ _ => rfl),
    aluRow_of exec_xor (fun _ _ => rfl), aluRow_of exec_andn (fun _ _ => rfl),
    aluRow_of exec_shl (fun x y => shAmt_eq_shift y ▸ shiftLeft_eq_ofNat x _),
    aluRow_of exec_shr (fun x y => shAmt_eq_shift y ▸ ushiftRight_eq_ofNat x _),
    aluRow_of exec_sra (fun x y => shAmt_eq_shift y ▸ sshiftRight_eq_ofInt x _),
    aluRow_of exec_rol rotateLeft_shAmt_eq_or,
    aluRow_of exec_minS (fun _ _ => ite_eq_of_iff BitVec.slt_iff_toInt_lt _ _),
    aluRow_of exec_minZ (fun _ _ => ite_eq_of_iff BitVec.ult_iff_toNat_lt _ _),
    aluRow_of exec_maxS (fun _ _ => ite_eq_of_iff BitVec.slt_iff_toInt_lt _ _),
    aluRow_of exec_maxZ (fun _ _ => ite_eq_of_iff BitVec.ult_iff_toNat_lt _ _), List.forall_mem_nil _⟩

theorem imm_table : ∀ f ∈ Spec.imm, ImmRow f := by
  simp only [Spec.imm, List.forall_mem_cons]
  exact ⟨immRow_of exec_addi add_imm20_eq_ofInt, immRow_of exec_andi (fun _ _ => rfl), immRow_of exec_ori (fun _ _ => rfl),
    immRow_of exec_xori (fun _ _ => rfl), List.forall_mem_nil _⟩

theorem shift_table : ∀ f ∈ Spec.shifts, ImmRow f := by
  simp only [Spec.shifts, List.forall_mem_cons]
  exact ⟨immRow_of exec_shli (fun x n => shiftLeft_eq_ofNat x n.toNat), immRow_of exec_shri (fun x n => ushiftRight_eq_ofNat x n.toNat),
    immRow_of exec_srai (fun x n => sshiftRight_eq_ofInt x n.toNat), List.forall_mem_nil _⟩

theorem count_table : ∀ f ∈ Spec.counts, CountRow f := by
  simp only [Spec.counts, List.forall_mem_cons]
  exact ⟨countRow_of exec_clzB (clzOf_elemFn (by decide)), countRow_of exec_clzH (clzOf_elemFn (by decide)),
    countRow_of exec_clzW (clzOf_elemFn (by decide)), countRow_of exec_clzD (clzOf_elemFn (by decide)),
    countRow_of exec_ffsB (ffsOf_elemFn (by decide)), countRow_of exec_ffsH (ffsOf_elemFn (by decide)),
    countRow_of exec_ffsW (ffsOf_elemFn (by decide)), countRow_of exec_ffsD (ffsOf_elemFn (by decide)),
    countRow_of exec_popB (popOf_elemFn (by decide)), countRow_of exec_popH (popOf_elemFn (by decide)),
    countRow_of exec_popW (popOf_elemFn (by decide)), countRow_of exec_popD (popOf_elemFn (by decide)), List.forall_mem_nil _⟩

theorem swap_table : ∀ f ∈ Spec.swaps, SwapRow f := by
  simp only [Spec.swaps, List.forall_mem_cons]
  exact ⟨swapRow_of (by decide) exec_bswapH, swapRow_of (by decide) exec_bswapW, swapRow_of (by decide) exec_bswapD, List.forall_mem_nil _⟩

theorem cmp_table : ∀ f ∈ Spec.cmp, CmpRow f := by
  simp only [Spec.cmp, List.forall_mem_cons]
  exact ⟨cmpRow_of exec_cmpEq (fun _ _ => rfl), cmpRow_of exec_cmpNe (fun _ _ => decide_not.symm),
    cmpRow_of exec_cmpLt (fun _ _ => BitVec.slt_eq_decide), cmpRow_of exec_cmpGe not_slt_eq_decide,
    cmpRow_of exec_cmpLtz (fun _ _ => BitVec.ult_eq_decide), cmpRow_of exec_cmpGez not_ult_eq_decide, List.forall_mem_nil _⟩

theorem li_completes (s : State) (h : Hdr) (d : Reg) (i : BitVec 41) (hi : s.Issues h [d] []) :
    Completes (.li h d i) h s (s.setReg d (BitVec.ofInt 64 i.toInt)) := plainWord_completes (exec_li s h d i) hi

/-! ### Select and lea (R70, R72) -/

theorem sel_completes (s : State) (h : Hdr) (d a b : Reg) (inv : Bool) (n : PReg) (hi : s.Issues h [d, a, b] []) :
    Completes (.sel h d a b inv n) h s (s.setReg d (if s.pred n ≠ inv then s.reg a else s.reg b)) := by
  have hc : (if s.pred n ^^ inv then s.reg a else s.reg b) = if s.pred n ≠ inv then s.reg a else s.reg b :=
    ite_eq_of_iff bne_iff_ne _ _
  rw [← hc]
  exact plainWord_completes (exec_sel s h d a b inv n) hi

theorem lea_completes (s : State) (h : Hdr) (d a b : Reg) (sh : BitVec 2) (hi : s.Issues h [d, a, b] []) :
    Completes (.lea h d a b sh) h s (s.setReg d (BitVec.ofNat 64 ((s.reg a).toNat + (s.reg b).toNat * 2 ^ sh.toNat))) := by
  refine alu_completes (exec_lea s h d a b sh) hi ?_
  rw [BitVec.ofNat_add, ← shiftLeft_eq_ofNat, BitVec.ofNat_toNat, BitVec.setWidth_eq]

/-! ### Bit fields (R66) -/

theorem fieldOf_eq_zeroExtend (a : W64) (pos len : Nat) : fieldOf a pos len = (a.extractLsb' pos len).zeroExtend 64 := by
  apply BitVec.eq_of_getLsbD_eq
  intro i hi
  simp only [fieldOf, BitVec.getLsbD_and, BitVec.getLsbD_ushiftRight, BitVec.getLsbD_ofNat, Nat.testBit_two_pow_sub_one,
    BitVec.getLsbD_setWidth, BitVec.getLsbD_extractLsb', decide_eq_true hi, Bool.true_and]
  exact Bool.and_comm _ _

theorem signField_eq_signExtend {len : Nat} (x : BitVec len) (h0 : 0 < len) (hl : len ≤ 64) :
    signField (x.zeroExtend 64) len = x.signExtend 64 := by
  apply BitVec.eq_of_getLsbD_eq
  intro i hi
  rw [signField, BitVec.getLsbD_sshiftRight, BitVec.getLsbD_signExtend, decide_eq_false (Nat.not_le.2 hi), decide_eq_true hi]
  by_cases hlen : i < len
  · have hup : 64 - len + i < 64 := by omega
    rw [if_pos hup, if_pos hlen, BitVec.getLsbD_shiftLeft, BitVec.getLsbD_setWidth, Nat.add_sub_cancel_left]
    simp only [hi, hup, Nat.not_lt.2 (Nat.le_add_right _ i), decide_true, decide_false, Bool.not_false, Bool.true_and]
  · have hup : ¬ 64 - len + i < 64 := by omega
    have htop : 64 - 1 - (64 - len) = len - 1 := by omega
    have hlast : ¬ 64 - 1 < 64 - len := by omega
    rw [if_neg hup, if_neg hlen, BitVec.msb_eq_getLsbD_last, BitVec.msb_eq_getLsbD_last, BitVec.getLsbD_shiftLeft, BitVec.getLsbD_setWidth, htop,
      decide_eq_false hlast, decide_eq_true (show len - 1 < 64 by omega)]
    rfl

theorem insertField_getLsbD (d a : W64) {pos len k : Nat} (hk : k < 64) :
    (insertField d a pos len).getLsbD k = if pos ≤ k ∧ k < pos + len then a.getLsbD (k - pos) else d.getLsbD k := by
  have hm : (BitVec.ofNat 64 (2 ^ len - 1) <<< pos).getLsbD k = decide (pos ≤ k ∧ k < pos + len) := by
    rw [BitVec.getLsbD_shiftLeft, BitVec.getLsbD_ofNat, Nat.testBit_two_pow_sub_one, Bool.eq_iff_iff]
    simp only [Bool.and_eq_true, Bool.not_eq_true', decide_eq_true_eq, decide_eq_false_iff_not]
    omega
  simp only [insertField, BitVec.getLsbD_or, BitVec.getLsbD_and, BitVec.getLsbD_not, hm, BitVec.getLsbD_shiftLeft, decide_eq_true hk, Bool.true_and]
  by_cases hin : pos ≤ k ∧ k < pos + len
  · simp only [hin, and_self, decide_true, Bool.not_true, Bool.and_false, Nat.not_lt.2 hin.1, decide_false,
      Bool.not_false, Bool.true_and, Bool.and_true, Bool.false_or, if_true]
  · simp only [hin, decide_false, Bool.not_false, Bool.and_true, Bool.and_false, Bool.or_false, if_false]

/-! ### The obligations -/

/-- Settles O1: row by row of the tables of R64, R65, R73 and R71. -/
theorem integerFunctions : Obligations.IntegerFunctions :=
  ⟨alu_table, ⟨imm_table, shift_table, li_completes⟩, count_table, swap_table⟩

/-- Settles O2: the select, lea, the rows of R68 and the predicate logic of R69. -/
theorem selectLeaCompare : Obligations.SelectLeaCompare :=
  ⟨⟨sel_completes, lea_completes⟩, cmp_table, fun s h d a b hi =>
    ⟨plainWord_completes (exec_pand s h d a b) hi, plainWord_completes (exec_por s h d a b) hi, plainWord_completes (exec_pnot s h d a) hi⟩⟩

/-- Settles O3: the test of pos + len decides between the fault and the value of each word. -/
theorem bitFields : Obligations.BitFields := by
  intro s h d a lm1 pos hi len
  refine ⟨fun hp => ⟨fieldWord_faults (exec_extS s h d a lm1 pos) hi hp, fieldWord_faults (exec_extZ s h d a lm1 pos) hi hp,
    fieldWord_faults (exec_ins s h d a lm1 pos) hi hp⟩, fun hp => ⟨?_, ?_, _, fieldWord_completes (exec_ins s h d a lm1 pos) hi hp rfl,
      fun k hk => insertField_getLsbD _ _ hk⟩⟩
  · refine fieldWord_completes (exec_extS s h d a lm1 pos) hi hp ?_
    rw [fieldOf_eq_zeroExtend, signField_eq_signExtend _ (Nat.succ_pos _) (by omega)]
  · exact fieldWord_completes (exec_extZ s h d a lm1 pos) hi hp (fieldOf_eq_zeroExtend _ _ _)

end Sys2Proof.Machine
end

section
/-! SUPPORT. Capability words (spec 09, R197 to R202): each check of a derivation as the spec states it, on exact numbers
and bits, and each word's outcome by its checks. -/

namespace Sys2Proof.Machine

/-! ### Masks and words as numbers -/

/-- A mask lies inside q when it has no bit outside q. -/
theorem and_eq_left_iff_and_not {n : Nat} (p q : BitVec n) : p &&& q = p ↔ p &&& ~~~q = 0 := by
  simp only [BitVec.eq_of_getLsbD_eq_iff, BitVec.getLsbD_and, BitVec.getLsbD_not]
  refine forall₂_congr fun i hi => ?_
  rw [decide_eq_true hi, Bool.true_and, BitVec.ofNat_eq_ofNat, BitVec.getLsbD_zero]
  cases p.getLsbD i <;> cases q.getLsbD i <;> decide

theorem ushiftRight_eq_zero_iff_lt {w : Nat} (x : BitVec w) (n : Nat) : x >>> n = 0 ↔ x.toNat < 2 ^ n := by
  rw [← BitVec.toNat_inj, BitVec.toNat_ushiftRight, Nat.shiftRight_eq_div_pow, BitVec.ofNat_eq_ofNat, BitVec.toNat_zero,
    Nat.div_eq_zero_iff_lt (Nat.two_pow_pos n)]

theorem extractLsb'_zero_eq_zero_iff_mod {w : Nat} (x : BitVec w) (n : Nat) : x.extractLsb' 0 n = 0 ↔ x.toNat % 2 ^ n = 0 := by
  rw [← BitVec.toNat_inj, BitVec.extractLsb'_toNat, Nat.shiftRight_zero, BitVec.ofNat_eq_ofNat, BitVec.toNat_zero]

/-! ### The checks of a derivation (R146, R197, R198) -/

/-- The mask that cap.prm accepts for the capability x (R198). -/
def Cap.maskOk (x : Cap) (m : W64) : Prop := m.toNat < 2 ^ 12 ∧ m.toNat % 16 = 0 ∧ m.extractLsb' 0 12 &&& ~~~x.perm = 0

theorem isSealed_iff (x : Cap) : x.isSealed = true ↔ x.typ = 4 ∨ x.typ = 5 := by
  rw [Cap.isSealed, Bool.or_eq_true, beq_iff_eq, beq_iff_eq]

theorem isSealed_eq_false {x : Cap} (h4 : x.typ ≠ 4) (h5 : x.typ ≠ 5) : x.isSealed = false :=
  Bool.eq_false_iff.2 fun h => ((isSealed_iff x).1 h).elim h4 h5

theorem isSealed_pool {x : Cap} (h3 : x.typ = 3) : x.isSealed = false := by
  rw [Cap.isSealed, h3]; rfl

theorem boundOk_pool {x : Cap} (h3 : x.typ = 3) (v : W64) : x.boundOk v = true ↔ x.cursor.toNat + v.toNat ≤ x.len.toNat := by
  rw [Cap.boundOk, if_pos (beq_iff_eq.2 h3), decide_eq_true_iff]

theorem boundOk_not_pool {x : Cap} (h3 : x.typ ≠ 3) (v : W64) : x.boundOk v = true ↔
    x.base.toNat ≤ x.cursor.toNat ∧ x.cursor.toNat + v.toNat ≤ x.base.toNat + x.len.toNat := by
  rw [Cap.boundOk, if_neg (mt beq_iff_eq.1 h3), Bool.and_eq_true, decide_eq_true_iff, decide_eq_true_iff]

theorem bounded_pool {x : Cap} (h3 : x.typ = 3) (v : W64) : x.bounded v = { x with len := x.cursor + v } :=
  if_pos (beq_iff_eq.2 h3)

theorem bounded_not_pool {x : Cap} (h3 : x.typ ≠ 3) (v : W64) : x.bounded v = { x with base := x.cursor, len := v } :=
  if_neg (mt beq_iff_eq.1 h3)

/-- The three tests of cap.prm's mask pass exactly what `maskOk` holds of. -/
theorem maskTest_eq_false_iff (x : Cap) (m : W64) :
    (m >>> 12 != 0 || (m.extractLsb' 0 12).extractLsb' 0 4 != 0 || m.extractLsb' 0 12 &&& x.perm != m.extractLsb' 0 12) = false ↔ x.maskOk m := by
  have hmod : m.toNat % 2 ^ 12 % 2 ^ 4 = m.toNat % 16 := by omega
  rw [Bool.or_eq_false_iff, Bool.or_eq_false_iff, bne_eq_false_iff_eq, bne_eq_false_iff_eq, bne_eq_false_iff_eq, ushiftRight_eq_zero_iff_lt,
    extractLsb'_zero_eq_zero_iff_mod, BitVec.extractLsb'_toNat, Nat.shiftRight_zero, hmod, and_eq_left_iff_and_not, and_assoc]
  rfl

/-- The fields in the order of cap.get's selector (R200). -/
theorem field_eq_getElem {x : Cap} {sel : BitVec 3} {v : Nat}
    (hv : [x.typ.toNat, x.perm.toNat, x.base.toNat, x.len.toNat, x.cursor.toNat, x.pol.toNat, x.tenant.toNat, x.tag.toNat][sel.toNat]? = some v) :
    x.field sel = BitVec.ofNat 64 v := by
  unfold Cap.field
  generalize sel.toNat = k at hv ⊢
  match k, hv with
  | 0, rfl | 1, rfl | 5, rfl | 6, rfl => exact (BitVec.ofNat_toNat _ _).symm
  | 2, rfl | 3, rfl | 4, rfl => exact ((BitVec.ofNat_toNat _ _).trans (BitVec.setWidth_eq _)).symm
  | 7, rfl => cases x.tag <;> rfl

/-! ### cap.bnd (R197) -/

section
variable {s : State} {h : Hdr} {d : CReg} {a : Reg} {c : CReg}

theorem capBnd_untagged (hi : s.Issues h [a] [c, d]) (ht : (s.cap c).tag = false) : Faults (.capBnd h d a c) s { code := .capTag } :=
  faults_of (exec_capBnd s h d a c) hi rfl (by simp only [ht]; rfl)

theorem capBnd_sealed (hi : s.Issues h [a] [c, d]) (ht : (s.cap c).tag = true) (hs : (s.cap c).isSealed = true) :
    Faults (.capBnd h d a c) s { code := .capType } :=
  faults_of (exec_capBnd s h d a c) hi rfl (by simp only [ht, hs]; rfl)

theorem capBnd_outside (hi : s.Issues h [a] [c, d]) (ht : (s.cap c).tag = true) (hs : (s.cap c).isSealed = false)
    (hb : ¬ (s.cap c).boundOk (s.reg a) = true) : Faults (.capBnd h d a c) s { code := .capBounds, eval := some (s.reg a) } :=
  faults_of (exec_capBnd s h d a c) hi rfl (by simp only [ht, hs, hb]; rfl)

theorem capBnd_completes (hi : s.Issues h [a] [c, d]) (ht : (s.cap c).tag = true) (hs : (s.cap c).isSealed = false)
    (hb : (s.cap c).boundOk (s.reg a) = true) : Completes (.capBnd h d a c) h s (s.setCap d ((s.cap c).bounded (s.reg a))) :=
  completes_of (exec_capBnd s h d a c) hi rfl (by simp only [ht, hs, hb]; rfl)

/-! ### cap.prm (R198) -/

theorem capPrm_untagged (hi : s.Issues h [a] [c, d]) (ht : (s.cap c).tag = false) : Faults (.capPrm h d a c) s { code := .capTag } :=
  faults_of (exec_capPrm s h d a c) hi rfl (by simp only [ht]; rfl)

theorem capPrm_badMask (hi : s.Issues h [a] [c, d]) (ht : (s.cap c).tag = true) (hm : ¬ (s.cap c).maskOk (s.reg a)) :
    Faults (.capPrm h d a c) s { code := .capPerm, eval := some (s.reg a) } :=
  faults_of (exec_capPrm s h d a c) hi rfl (by simp only [ht, eq_true_of_ne_false (mt (maskTest_eq_false_iff _ _).1 hm)]; rfl)

theorem capPrm_completes (hi : s.Issues h [a] [c, d]) (ht : (s.cap c).tag = true) (hm : (s.cap c).maskOk (s.reg a)) :
    Completes (.capPrm h d a c) h s (s.setCap d { s.cap c with perm := (s.reg a).extractLsb' 0 12 }) :=
  completes_of (exec_capPrm s h d a c) hi rfl (by simp only [ht, (maskTest_eq_false_iff _ _).2 hm]; rfl)

end

/-! ### cap.off, cap.clr, cap.get and cap.tst (R199 to R202) -/

section
variable {s : State} {h : Hdr}

theorem capOff_completes {d : CReg} {o : MemOp} (hi : s.Issues h [o.a] [o.c, d]) : Completes (.capOff h d o) h s (s.setCap d
    { s.cap o.c with cursor := (s.cap o.c).cursor + (s.reg o.a <<< o.sc.toNat) + o.off.signExtend 64 }) :=
  completes_of (exec_capOff s h d o) hi rfl rfl

theorem capClr_completes {d c : CReg} (hi : s.Issues h [] [c, d]) :
    Completes (.capClr h d c) h s (s.setCap d { s.cap c with tag := false }) :=
  completes_of (exec_capClr s h d c) hi rfl rfl

theorem capGet_completes {d : Reg} {c : CReg} {sel : BitVec 3} (hi : s.Issues h [d] [c]) :
    Completes (.capGet h d c sel) h s (s.setReg d ((s.cap c).field sel)) :=
  completes_of (exec_capGet s h d c sel) hi rfl rfl

theorem capTst_completes {p : PReg} {a : Reg} {c : CReg} (hi : s.Issues h [a] [c]) : Completes (.capTst h p a c) h s
    (s.setPred p ((s.cap c).tag && decide ((s.reg a).extractLsb' 0 12 &&& ~~~(s.cap c).perm = 0))) := by
  have hm : decide ((s.reg a).extractLsb' 0 12 &&& ~~~(s.cap c).perm = 0)
      = ((s.cap c).perm &&& (s.reg a).extractLsb' 0 12 == (s.reg a).extractLsb' 0 12) := by
    rw [Bool.beq_eq_decide_eq, BitVec.and_comm (s.cap c).perm]
    exact decide_eq_decide.2 (and_eq_left_iff_and_not _ _).symm
  rw [hm]
  exact completes_of (exec_capTst s h p a c) hi rfl rfl

end

/-! ### The obligation -/

/-- Settles O22: each word's checks in the spec's order decide between its faults and its result. -/
theorem capabilityWords : Obligations.CapabilityWords := by
  refine ⟨fun s h d a c o => ⟨fun hi => ⟨?untagged, ?sealed, ?range, ?pool, ?badMask, ?mask⟩, capOff_completes, capClr_completes⟩,
    fun s h d p a c sel => ⟨fun hi v hv => ?field, capTst_completes⟩⟩
  case untagged => exact fun ht => ⟨capBnd_untagged hi ht, capPrm_untagged hi ht⟩
  case sealed => exact fun ht hs => capBnd_sealed hi ht ((isSealed_iff _).2 hs)
  case range =>
    intro ht h4 h5 h3
    rw [← boundOk_not_pool h3, ← bounded_not_pool h3]
    exact ⟨capBnd_outside hi ht (isSealed_eq_false h4 h5), capBnd_completes hi ht (isSealed_eq_false h4 h5)⟩
  case pool =>
    intro ht h3
    rw [gt_iff_lt, ← Nat.not_le, ← boundOk_pool h3, ← bounded_pool h3]
    exact ⟨capBnd_outside hi ht (isSealed_pool h3), capBnd_completes hi ht (isSealed_pool h3)⟩
  case badMask =>
    intro ht hm
    refine capPrm_badMask hi ht fun ⟨hlt, hlow, hin⟩ => ?_
    rcases hm with hge | hlow' | hout
    · exact Nat.not_lt.2 hge hlt
    · exact hlow' hlow
    · exact hout hin
  case mask => exact fun ht hlt hlow hin => capPrm_completes hi ht ⟨hlt, hlow, hin⟩
  case field => exact field_eq_getElem hv ▸ capGet_completes hi

end Sys2Proof.Machine
end

section
/-! SUPPORT. The words for descriptors, semaphores, counts, conditions and the cross-path fence (spec 10, R232 to R236):
the words of a descriptor under its writes, and each word's outcome by what it waits for. -/

namespace Sys2Proof.Machine

/-! ### A descriptor's words (R223) -/

section
variable (d : Sd) (v : W64) (z : Bool)

/-- Word 0 shows SEALED and KEYED in bits 53 and 52. -/
theorem Sd.get_zero : d.get 0 = d.w[0] ||| ((BitVec.ofBool d.sealed_ ++ BitVec.ofBool d.keyed : BitVec 2).zeroExtend 64 <<< 52) := rfl

theorem Sd.get_of_ne_zero {k : BitVec 3} (h0 : k ≠ 0) : d.get k = d.w[k.toFin] := if_neg h0

/-- Word 0 takes SEALED and drops KEYED beside its writable bits. -/
theorem Sd.put_zero : d.put 0 v z = { d with w := d.w.set 0 (v &&& 0xFFC000FFFFFFFFFF), sealed_ := z, keyed := false } := rfl

theorem Sd.put_two : d.put 2 v z = { d with w := d.w.set 2 (v &&& 0xFFFF00FFFFFFFFFF) } := rfl

/-- Word 7 is read-only. -/
theorem Sd.put_seven : d.put 7 v z = d := rfl

theorem Sd.put_plain {k : BitVec 3} (h0 : k ≠ 0) (h2 : k ≠ 2) (h7 : k ≠ 7) : d.put k v z = { d with w := d.w.set k.toFin v } := by
  unfold Sd.put
  split
  case h_1 hk => exact absurd (BitVec.eq_of_toNat_eq hk) h0
  case h_2 hk => exact absurd (BitVec.eq_of_toNat_eq hk) h2
  case h_3 hk => exact absurd (BitVec.eq_of_toNat_eq hk) h7
  case h_4 => rfl

/-- A word set at one index leaves what every other word reads as. -/
theorem Sd.get_set_of_ne {j : BitVec 3} {i : Nat} (hi : i < 8) (hj : i ≠ j.toNat) : { d with w := d.w.set i v }.get j = d.get j := by
  by_cases h0 : j = 0
  · subst h0
    exact congrArg (· ||| _) (Vector.getElem_set_ne hi (by decide) hj)
  · rw [Sd.get_of_ne_zero _ h0, Sd.get_of_ne_zero _ h0]
    exact Vector.getElem_set_ne hi j.isLt hj

theorem Sd.get_set_self {k : BitVec 3} (h0 : k ≠ 0) : { d with w := d.w.set k.toFin v }.get k = v := by
  rw [Sd.get_of_ne_zero _ h0]
  exact Vector.getElem_set_self k.isLt

/-- A write leaves every other word. -/
theorem Sd.get_put_of_ne {j k : BitVec 3} (hj : j ≠ k) : (d.put k v z).get j = d.get j := by
  have hne : k.toNat ≠ j.toNat := fun h => hj (BitVec.eq_of_toNat_eq h).symm
  by_cases h0 : k = 0
  · subst h0
    rw [Sd.put_zero, Sd.get_of_ne_zero _ hj, Sd.get_of_ne_zero _ hj]
    exact Vector.getElem_set_ne (by decide) j.isLt hne
  by_cases h2 : k = 2
  · subst h2
    rw [Sd.put_two]
    exact d.get_set_of_ne _ (by decide) hne
  by_cases h7 : k = 7
  · rw [h7, Sd.put_seven]
  · rw [Sd.put_plain d v z h0 h2 h7]
    exact d.get_set_of_ne v k.isLt hne

/-- The written word 0 reads as its writable bits with SEALED alone. -/
theorem Sd.get_put_zero : (d.put 0 v z).get 0 = (v &&& 0xFFC000FFFFFFFFFF) ||| (if z = true then 0x20000000000000 else 0) := by
  have hro : ((BitVec.ofBool z ++ BitVec.ofBool false : BitVec 2).zeroExtend 64 <<< 52) = if z = true then (0x20000000000000 : W64) else 0 := by
    cases z <;> decide
  rw [Sd.put_zero, Sd.get_zero, ← hro]
  exact congrArg (· ||| _) (Vector.getElem_set_self (by decide))

theorem Sd.get_put_two : (d.put 2 v z).get 2 = v &&& 0xFFFF00FFFFFFFFFF := by
  rw [Sd.put_two]
  exact d.get_set_self _ (by decide)

/-- The access column of the descriptor map, word by word. -/
theorem Sd.get_put (j k : BitVec 3) : (d.put k v z).get j =
    if j ≠ k ∨ k = 7 then d.get j
    else if k = 0 then (v &&& 0xFFC000FFFFFFFFFF) ||| (if z = true then 0x20000000000000 else 0)
    else if k = 2 then v &&& 0xFFFF00FFFFFFFFFF else v := by
  by_cases hj : j = k
  · subst hj
    by_cases h7 : j = 7
    · rw [if_pos (Or.inr h7), h7, Sd.put_seven]
    rw [if_neg (not_or.2 ⟨fun hne => hne rfl, h7⟩)]
    by_cases h0 : j = 0
    · rw [if_pos h0, h0, Sd.get_put_zero]
    rw [if_neg h0]
    by_cases h2 : j = 2
    · rw [if_pos h2, h2, Sd.get_put_two]
    · rw [if_neg h2, Sd.put_plain d v z h0 h2 h7, Sd.get_set_self d v h0]
  · rw [if_pos (Or.inl hj), Sd.get_put_of_ne d v z hj]

end

/-! ### sd.set and sd.get (R232) -/

/-- The state after sd.set's operation. -/
def State.sdPut (s : State) (n : BitVec 4) (k : BitVec 3) (v : W64) : State :=
  s.stamp.mapEng (fun e => { e with sds := e.sds.set n.toFin (e.sds[n.toFin].put k v (s.namesSealed v)) })

section
variable {s : State} {h : Hdr} {k : BitVec 3} {n : BitVec 4}

theorem sdPut_sd_self (v : W64) : (s.sdPut n k v).sd n = (s.sd n).put k v (s.namesSealed v) := Vector.getElem_set_self n.isLt

theorem sdPut_sd_of_ne (v : W64) {m : BitVec 4} (hm : m ≠ n) : (s.sdPut n k v).sd m = s.sd m :=
  Vector.getElem_set_ne n.isLt m.isLt (fun e => hm (BitVec.eq_of_toNat_eq e).symm)

theorem namesSealed_iff (v : W64) : s.namesSealed v = true ↔ (s.cap (v.extractLsb' 60 4)).typ = 4 ∨ (s.cap (v.extractLsb' 60 4)).typ = 5 :=
  isSealed_iff _

/-- The capability register that sd.set uses is the one word 0 names. -/
theorem Issues.sdSet {b : Reg} (hi : s.Issues h [b] [(s.reg b).extractLsb' 60 4]) :
    s.Issues h [b] (if k = 0 then [(s.reg b).extractLsb' 60 4] else []) := by
  refine Issues.mono hi (fun _ hr => hr) fun c hc => ?_
  split at hc
  · exact hc
  · exact absurd hc List.not_mem_nil

theorem sdSet_completes {b : Reg} (hi : s.Issues h [b] [(s.reg b).extractLsb' 60 4]) (hf : s.sdBusy n true = false) :
    Completes (.sdSet h k n b) h s (s.sdPut n k (s.reg b)) :=
  completes_of (exec_sdSet s h k n b) (Issues.sdSet hi) rfl (if_neg (Bool.eq_false_iff.1 hf))

theorem sdSet_holds {b : Reg} (hi : s.Issues h [b] [(s.reg b).extractLsb' 60 4]) (hf : s.sdBusy n true = true) :
    Holds (.sdSet h k n b) s s :=
  holds_of (exec_sdSet s h k n b) (Issues.sdSet hi) rfl (if_pos hf)

theorem sdGet_completes {b : Reg} (hi : s.Issues h [b] []) (hf : s.sdBusy n false = false) :
    Completes (.sdGet h k n b) h s (s.setReg b ((s.sd n).get k)) :=
  completes_of (exec_sdGet s h k n b) hi rfl (if_neg (Bool.eq_false_iff.1 hf))

end

/-! ### Semaphores (R216, R233) -/

section
variable {s : State} {h : Hdr} {n : BitVec 5}

/-- A 5-bit semaphore number in its 6-bit field. -/
theorem zeroExtend_sem_toNat (n : BitVec 5) : (n.zeroExtend 6).toNat % 32 = n.toNat := by
  rw [BitVec.toNat_setWidth]; omega

theorem semFree_of_zero (eg : Option Eng) (ts : Nat) (h0 : s.tile.eng.sems[n.toFin] = 0) : s.semFree (n.zeroExtend 6) eg ts = false := by
  unfold State.semFree
  simp only [zeroExtend_sem_toNat]
  rw [show s.tile.eng.sems[n.toNat] = 0 from h0]; rfl

/-- With no command recorded no stream waits, and a count above 0 alone decides. -/
theorem semFree_of_noCmds (eg : Option Eng) (ts : Nat) (h0 : s.tile.eng.sems[n.toFin] ≠ 0) (hc : s.tile.eng.cmds = []) :
    s.semFree (n.zeroExtend 6) eg ts = true := by
  have hcmd : ∀ d i, s.tile.eng.cmd d i = none := fun d i => by rw [Engs.cmd, hc]; rfl
  unfold State.semFree
  simp only [zeroExtend_sem_toNat, hcmd, Bool.and_false, Bool.and_eq_true, bne_iff_ne]
  exact ⟨h0, rfl⟩

theorem setSem_sems (f : BitVec 16 → BitVec 16) (m : BitVec 5) :
    (s.setSem n.toNat f).tile.eng.sems[m.toFin] = if m = n then f s.tile.eng.sems[m.toFin] else s.tile.eng.sems[m.toFin] :=
  (Vector.getElem_ofFn m.isLt).trans (ite_eq_of_iff BitVec.toNat_inj _ _)

theorem semSig_completes (hi : s.Issues h [] []) : Completes (.semSig h n) h s
    (s.mapOrd (fun o => { o with sq := o.sq ++ [⟨s.tile.ord.seq, s.tile.core.pc, .sem n⟩], seq := o.seq + 1 })) :=
  plainWord_completes (exec_semSig s h n) hi

theorem semGet_completes {a : Reg} (hi : s.Issues h [a] []) :
    Completes (.semGet h a n) h s (s.setReg a (s.tile.eng.sems[n.toFin].zeroExtend 64)) :=
  plainWord_completes (exec_semGet s h a n) hi

theorem semWait_holds (hi : s.Issues h [] []) (h0 : s.tile.eng.sems[n.toFin] = 0) : Holds (.semWait h n) s s :=
  holds_of (exec_semWait s h n) hi rfl (if_neg (Bool.eq_false_iff.1 (semFree_of_zero _ _ h0)))

theorem semWait_completes (hi : s.Issues h [] []) (h0 : s.tile.eng.sems[n.toFin] ≠ 0) (hc : s.tile.eng.cmds = []) :
    Completes (.semWait h n) h s (s.setSem n.toNat (· - 1)) :=
  completes_of (exec_semWait s h n) hi rfl (if_pos (semFree_of_noCmds _ _ h0 hc))

end

/-! ### The condition queue (R222, R235) -/

section
variable {s : State} {h : Hdr} {a : Reg}

theorem condPop_holds (hi : s.Issues h [a] []) (hq : s.tile.eng.condq = []) : Holds (.condPop h a) s s :=
  holds_of (exec_condPop s h a) hi rfl (by simp only [hq])

theorem condPop_completes (hi : s.Issues h [a] []) {w : W64} {q : List W64} (hq : s.tile.eng.condq = w :: q) :
    Completes (.condPop h a) h s ((s.mapEng (fun g => { g with condq := q })).setReg a w) :=
  completes_of (exec_condPop s h a) hi rfl (by simp only [hq])

/-! ### Words that name an engine with a ring (R230, R234, R236) -/

variable {e : Eng} {i : Instr} {rs : List Reg} {cs : List CReg} {op : State → OpRes} {t : State}

theorem ringWord_completes (he : exec i s = s.ringWordOp h e rs cs op) (hi : s.Issues h rs cs) (hr : (s.tile.eng.ring e).q ≠ 0)
    (ho : op s = .done t) : Completes i h s t := completes_of he hi rfl ((if_neg hr).trans ho)

theorem ringWord_holds (he : exec i s = s.ringWordOp h e rs cs op) (hi : s.Issues h rs cs) (hr : (s.tile.eng.ring e).q ≠ 0)
    (ho : op s = .hold t) : Holds i s t := holds_of he hi rfl ((if_neg hr).trans ho)

/-- The count of an engine's completed commands in the table of the three. -/
theorem seqOf_eq_lookup (g : Engs) (e : Eng) : ([(Eng.v, g.seqV), (.m, g.seqM), (.x, g.seqX)].lookup e).getD 0 = g.seqOf e := by
  cases e <;> rfl

theorem seqGet_completes (hi : s.Issues h [a] []) (hr : (s.tile.eng.ring e).q ≠ 0) :
    Completes (.seqGet h e a) h s (s.setReg a ((s.tile.eng.seqOf e).zeroExtend 64)) :=
  ringWord_completes (exec_seqGet s h e a) hi hr rfl

theorem seqWait_completes (hi : s.Issues h [a] []) (hr : (s.tile.eng.ring e).q ≠ 0)
    (hs : (s.tile.eng.seqOf e - (s.reg a).extractLsb' 0 32).toNat < 2 ^ 31) : Completes (.seqWait h e a) h s s :=
  ringWord_completes (exec_seqWait s h e a) hi hr (if_pos hs)

theorem seqWait_holds (hi : s.Issues h [a] []) (hr : (s.tile.eng.ring e).q ≠ 0)
    (hs : ¬ (s.tile.eng.seqOf e - (s.reg a).extractLsb' 0 32).toNat < 2 ^ 31) : Holds (.seqWait h e a) s s :=
  ringWord_holds (exec_seqWait s h e a) hi hr (if_neg hs)

theorem xfence_completes (hi : s.Issues h [] []) (hr : (s.tile.eng.ring e).q ≠ 0) : Completes (.xfence h e) h s
    (s.mapOrd (fun o => { o with
      lq := o.lq ++ [⟨s.tile.ord.seq, s.tile.core.pc, .xmark e (s.tile.eng.ts + 1)⟩],
      sq := o.sq ++ [⟨s.tile.ord.seq, s.tile.core.pc, .xmark e (s.tile.eng.ts + 1)⟩], seq := o.seq + 1 })) :=
  ringWord_completes (exec_xfence s h e) hi hr rfl

end

/-! ### The obligation -/

/-- Settles O26: each word by what it waits for, the written descriptor word by word. -/
theorem descriptorSemaphoreWords : Obligations.DescriptorSemaphoreWords := by
  refine ⟨fun s h k n b hi => ⟨fun hf => ⟨_, sdSet_completes hi hf, fun j => ?written, fun m hm => sdPut_sd_of_ne _ hm, rfl, rfl, rfl, rfl⟩,
    sdSet_holds hi, sdGet_completes (Issues.mono hi (fun _ hr => hr) (List.forall_mem_nil _))⟩, fun s h n e a hi => ?words⟩
  case written =>
    rw [sdPut_sd_self, Sd.get_put, ite_eq_of_iff (namesSealed_iff _)]
  case words =>
    have hnone : s.Issues h [] [] := Issues.mono hi (List.forall_mem_nil _) (List.forall_mem_nil _)
    simp only [seqOf_eq_lookup]
    refine ⟨semSig_completes hnone, semGet_completes hi, semWait_holds hnone,
      fun h0 hc => ⟨_, semWait_completes hnone h0 hc, fun m => ?lowered,
        mapEng_core _ _, mapEng_near _ _, mapEng_ord _ _, mapEng_pkg _ _⟩,
      condPop_holds hi, fun _ _ hq => condPop_completes hi hq,
      fun hr => ⟨seqGet_completes hi hr, seqWait_completes hi hr, seqWait_holds hi hr, xfence_completes hnone hr⟩⟩
    rw [setSem_sems]
    exact ite_congr rfl (fun hm => hm ▸ rfl) (fun _ => rfl)

end Sys2Proof.Machine
end
